-- ==== Sys2Proof/Word.lean ====
section
/-! DEFINITION. The plainest data of the model: words, bytes, and the sparse table every store of the block
is held in. -/

namespace Sys2Proof

/-- A 32-bit word (00_scope.md, Conventions). -/
abbrev Word := BitVec 32

/-- One byte. -/
abbrev Byte := BitVec 8

/-- A sparse table: entries (key, value), keys strictly rising, no entry equal to the default. -/
abbrev Tab (α : Type) := List (Nat × α)

/-- A byte memory in canonical form; an unlisted byte reads 0 (15_lifecycle_power_debug.md R445 for the
block's own stores; log entry 4 for the two external spaces). -/
abbrev Mem := Tab Byte

end Sys2Proof
end

