-- ==== Sys2Proof/Config.lean ====
section
/-! DEFINITION. What the hardware fixes and what the spec leaves open: constants of the FL-4, and the free values,
which have no body. -/

namespace Sys2Proof.Config

/-- Free value number n, 32 bits (log entry 3). -/
opaque freeWord : Nat → BitVec 32

/-- Distance, less 2, in ulp of a built-in SFU result from the correctly rounded one: function code of Table 07.10
and input (06_vector_and_functions.md R201; log entry 8). -/
opaque sfuUlp : Nat → BitVec 32 → Fin 5

/-- Distance, less 3, in ulp of a built-in SFU result in FL-2 mode from the correctly rounded one (06 R202; log entry
8). -/
opaque fl2Ulp : Nat → BitVec 32 → Fin 7

/-- Result of a built-in SFU function in FL-2 mode at a special input (06 R202; log entry 8). -/
opaque fl2Result : Nat → BitVec 32 → BitVec 32

/-- Unbiased exponent that a micro-program's REDUCE takes of a zero or non-finite value (06 Table 06.7; log entry 9). -/
opaque microExp : BitVec 32 → Int

/-- Significand that a micro-program's REDUCE takes of a zero or non-finite value (log entry 9). -/
opaque microSig : BitVec 32 → BitVec 32

/-- Index that a micro-program's LUT step takes for a non-finite value (log entry 9). -/
opaque microIdx : BitVec 32 → Nat

/-- Place of a word in CP memory, among the dump area, the slot table, the firmware image and the rest, in 8 B words:
the spec gives CP memory no layout (00 Table 00.4; log entry 124). -/
opaque cpPlace : Nat → Fin 262144

/-- Entropy draw number n: 48 bytes of a nonce (15 R457). -/
opaque nonce : Nat → BitVec 384

/-- Entropy draw number n: 16 random bits (13 R407). -/
opaque random16 : Nat → BitVec 16

/-- Tephra set of a sector: table, row, sector of the row (08 R288 gives 16,384 sets and no hash; log entry 43). -/
opaque tephraSet : Nat → Nat → Nat → Fin 16384

/-- Status, less 1, that refuses an arrival which EXPORT_TO discards (09 R308 names none; log entry 48). -/
opaque arrivalRefusal : Fin 63

/-- BUILD of FW_INFO (16_integration.md R474 gives no number). -/
opaque build : BitVec 32

/-- Units one ACLK cycle adds to TIME (10 R320). -/
def aclkUnits : Nat := 5

/-- JUMP_MAX in ticks, by TBP_JUMP_SEL (10 Table 10.1). -/
def jumpMax (sel : Nat) : Nat :=
  match sel with
  | 0 => 1000000
  | 1 => 100000
  | 2 => 10000000
  | _ => 100000000

/-- Scratchpad bytes of a Caldera, 24 MiB (00 Table 00.4). -/
def spadBytes : Nat := 25165824

/-- Gradient buffer bytes of a Caldera, 8 MiB. -/
def gradBytes : Nat := 8388608

/-- Sinter slot bytes (01 Table 01.3). -/
def slotBytes : Nat := 32768

/-- Bytes a peer may reach in a scratchpad, 23 MiB (13 R397). -/
def spadRemote : Nat := 24117248

/-- Line-table store entries (07 R241). -/
def lineTable : Nat := 65536

/-- Micro-programs in the store (06, Micro-programs). -/
def microStore : Nat := 64

/-- Default progress watchdog limit in ticks (14 R427). -/
def wdogDefault : Nat := 2000000

end Sys2Proof.Config
end

