-- ==== Sys2Proof/Syntax.lean ====
section
/-! DEFINITION. The commands of the block: one constructor per row of spec/opcode_table.json, with its operands. -/

namespace Sys2Proof

/-- A Vent engine: VE n of Caldera c, or VS n (08_movement_and_tables.md Table 08.1). -/
inductive Eng where
  | ve (c n : Fin 4)
  | vs (n : Fin 4)
  deriving DecidableEq, Repr

/-- The paths and units whose results reach their place (02 Table 02.5, 06 Table 06.1). -/
inductive Path where
  | bus | plane | row | vec | sfu
  deriving DecidableEq, Repr

/-- What the dispatcher grants a work item (02 R66, 06 R177, 01 R26). -/
structure Grant where
  /-- Context that runs the item. -/
  ctx : Fin 64
  /-- First position of the slot window. -/
  slotBase : Nat
  /-- Halves granted: bit 0 RH0, 1 RH1, 2 CH0, 3 CH1. -/
  halves : BitVec 4
  /-- First lane register of the range. -/
  laneBase : Nat
  /-- First byte of the scratchpad reservation. -/
  spadBase : Nat
  deriving DecidableEq, Repr

/-- A Plume frame (13_light_port.md R388, Table 13.3): its Ethernet addresses, EtherType and tag, the fields of the
header, and the payload. -/
structure Frame where
  dst : BitVec 48
  smac : BitVec 48
  etype : BitVec 16
  tagged : Bool
  ver : BitVec 8
  type : BitVec 8
  cls : BitVec 8
  src : Fin 64
  ssess : BitVec 16
  dsess : BitVec 16
  seq : BitVec 32
  ackReq : BitVec 32
  ackRsp : BitVec 32
  crdReq : BitVec 16
  crdRsp : BitVec 16
  len : BitVec 16
  xid : BitVec 16
  status : BitVec 8
  flags : BitVec 8
  /-- Reserved bytes 30–31. -/
  rsv1 : BitVec 16
  addr : BitVec 64
  aux : BitVec 32
  /-- Reserved bytes 44–47. -/
  rsv2 : BitVec 32
  payload : List Byte
  /-- The MAC finds the FCS valid (R385, R392). -/
  fcsOk : Bool
  deriving DecidableEq, Repr

/-- A fault as a check of 14 Table 14.1 reports it. -/
structure FaultRep where
  unit : BitVec 8
  /-- Caldera the fault lies in, if any. -/
  cal : Option (Fin 4)
  /-- Context that issued the faulting operation, transfer, lookup or fetch, if any (14 R417). -/
  ctx : Option (Fin 64)
  loc : BitVec 32
  /-- The fault was found in a shared dispatcher register rather than in a context or sequencer (Table 14.3). -/
  shared : Bool
  /-- Double-bit error, for a store; the other units ignore it. -/
  double : Bool
  /-- Writing a RESIDENT row back over a damaged copy failed twice (01 R39). -/
  saveBad : Bool
  deriving DecidableEq, Repr

/-- What a fault of the hardware has changed in an array, as the sender of PROMOTION gives it: bits of a chunk register
of a working cell or, at row or column 256, of a check cell, with whether its special flag turned over; or bits of an
accumulator position, whose parity bits stay (02 R77, R96 to R101; log entry 135). -/
inductive Upset where
  | chunk (row col : Fin 257) (flip : BitVec 88) (flag : Bool)
  | slot (pos : Fin 8) (row col : Fin 256) (flip : BitVec 64)
  deriving DecidableEq, Repr

/-- The Caldera of a PROMOTION and what faults have changed in it by then. -/
structure Struck where
  cal : Fin 4
  /-- Without a fault, an empty list. -/
  ups : List Upset
  deriving DecidableEq, Repr

/-- One of the two feeders of a Caldera: into its row halves or its column halves (02 R61). -/
structure Feeder where
  cal : Fin 4
  row : Bool
  deriving DecidableEq, Repr

/-- Mailbox of a command. -/
abbrev Mb := Fin 16

/-- HBP_IREQ_DATA and HBP_IREQ_BE of a register-window write: byte 0 of the access in bits [7:0], its enable in bit 0
(12 R371, Table 12.4). -/
structure WinData where
  data : BitVec 512
  be : BitVec 64
  deriving DecidableEq, Repr

/-- The commands. Rows of ECI commands name the mailbox the firmware takes; rows of slots name the context whose
next slot issues; other rows name what the event is about. -/
inductive Instr where
  -- ECI commands (09 Table 09.12)
  | fwInfo (m : Mb) | partitionSet (m : Mb) | powerState (m : Mb) | powerIdleDone | dumpSet (m : Mb)
  | lcAdvance (m : Mb) | debugChallenge (m : Mb) | debugUnlock (m : Mb) | debugClose (m : Mb)
  | partitionParam (m : Mb) | eventRing (m : Mb) | reset (m : Mb)
  | regionRegister (m : Mb) | regionRelease (m : Mb)
  | contextCreate (m : Mb) | contextDestroy (m : Mb) | descWrite (m : Mb) | contextQuery (m : Mb)
  | contextSet (m : Mb) | contextSeed (m : Mb) | contextHalt (m : Mb) | haltRequest (x : Fin 64)
  | imagePublish (m : Mb) | imageDestroy (m : Mb) | imageReplace (m : Mb) | imageReplaceDone (m : Mb)
  | channelCreate (m : Mb) | channelAdmit (m : Mb) | channelDestroy (m : Mb) | channelQuery (m : Mb)
  | channelResume (m : Mb)
  | streamCreate (m : Mb) | streamDestroy (m : Mb) | streamReset (m : Mb) | streamQuery (m : Mb)
  | streamExport (m : Mb) | exportConfirmed (slot : Fin 4096) | exportTimeout (slot : Fin 4096)
  | streamImport (m : Mb) | arrivalTimeout (a : Fin 16)
  | tableRegister (m : Mb) | tableReload (m : Mb) | tableReloadEffect (t : Fin 64) | tableTimeout (t : Fin 64)
  | tableRelease (m : Mb)
  | semBind (m : Mb) | semUnbind (m : Mb) | semQuery (m : Mb)
  | gradsetAlloc (m : Mb) | gradsetZero (m : Mb) | gradsetRelease (m : Mb)
  -- register window (09 Table 09.1)
  | mbRing (m : Mb) | mbRelease (m : Mb) | mbOverrunClear (m : Mb)
  | forceBlockReset (w : Word) | forcePowerCycle (w : Word)
  | sqDbWrite (i : Fin 256) (w : Word) | cqDbWrite (i : Fin 256) (w : Word) | eqDbWrite (p : Fin 4) (w : Word)
  | intStatusWrite (w : Word) | fatalStatusWrite (w : Word) | timeLoRead
  /-- A register-window write: offset, bytes, data, and whether its parity is good (12 R379). -/
  | registerWrite (ofs : BitVec 24) (size : Nat) (data : WinData) (parOk : Bool)
  -- rings and the dispatcher (09, 10, 11)
  | runChunk (i : Fin 256) | runTask (i : Fin 256) | nop (i : Fin 256)
  | entryEligible (i : Fin 256) (seq : Word)
  | dispatchPlace (c : Fin 4) (g : Grant)
  | restoreComplete (c : Fin 4) | executeStart (c : Fin 4)
  /-- Commit of the executing item; `bad` names the rows whose state write failed twice (01 R36). -/
  | chunkCommit (c : Fin 4) (bad : List (Fin 256))
  /-- Posting on a channel: may the next record go on, may the CQ be fenced now (12 R376). -/
  | completionPost (i : Fin 256) (write fence : Bool)
  | eventPost (p : Fin 4)
  -- bundles and the SEQ slot (07)
  | bundleNop (x : Fin 64) | seqNop (x : Fin 64) | ldi (x : Fin 64) | ldih (x : Fin 64) | addi (x : Fin 64)
  | seqAdd (x : Fin 64) | seqSub (x : Fin 64) | seqAnd (x : Fin 64) | seqOr (x : Fin 64)
  | shli (x : Fin 64) | shri (x : Fin 64) | cmp (x : Fin 64) | cmpi (x : Fin 64)
  | br (x : Fin 64) | brt (x : Fin 64) | brf (x : Fin 64) | loop (x : Fin 64) | leave (x : Fin 64)
  | rdastat (x : Fin 64) | wrastat (x : Fin 64) | setmx (x : Fin 64) | seqEnd (x : Fin 64)
  -- MAT slot (02)
  | mac (x : Fin 64) | promotion (c : Struck)
  | checkCompare (c : Fin 4) (rows cols : List (Fin 257 × BitVec 88))
  | zero (x : Fin 64) | preloadBias (x : Fin 64) | preloadPlane (x : Fin 64) | scale (x : Fin 64)
  | loadDecay (x : Fin 64) | drain (x : Fin 64) | recirc (x : Fin 64) | recircReady (c : Fin 4)
  | save (x : Fin 64) | restore (x : Fin 64) | gacc (x : Fin 64)
  -- VEC slot (06)
  | vecAdd (x : Fin 64) | vecSub (x : Fin 64) | vecMul (x : Fin 64) | fma (x : Fin 64)
  | min (x : Fin 64) | max (x : Fin 64) | abs (x : Fin 64) | neg (x : Fin 64)
  | cmpeq (x : Fin 64) | cmplt (x : Fin 64) | cmple (x : Fin 64) | sel (x : Fin 64)
  | vecMov (x : Fin 64) | movi (x : Fin 64)
  | iadd (x : Fin 64) | isub (x : Fin 64) | iand (x : Fin 64) | ior (x : Fin 64) | ixor (x : Fin 64)
  | ishl (x : Fin 64) | ishr (x : Fin 64)
  | cvt (x : Fin 64) | mxcvt (x : Fin 64) | pwl (x : Fin 64) | pwlslope (x : Fin 64) | gatemul (x : Fin 64)
  | gsum (x : Fin 64) | rmax (x : Fin 64) | rstat (x : Fin 64) | topk (x : Fin 64)
  | vld (x : Fin 64) | vst (x : Fin 64)
  -- SFU slot (06)
  | sfuExp2 (x : Fin 64) | sfuExp (x : Fin 64) | sfuLog2 (x : Fin 64) | sfuReciprocal (x : Fin 64)
  | sfuRsqrt (x : Fin 64) | sfuSqrt (x : Fin 64) | microProgram (x : Fin 64)
  -- MOV and SYN slots, movement (07, 08)
  | feed (x : Fin 64)
  /-- The oldest FEED of the row feeder (`row`) or of the column feeder has moved its last slice. -/
  | feedComplete (c : Feeder) | vent (x : Fin 64) | transferComplete (e : Eng)
  | gather (x : Fin 64) | lookupComplete (c : Fin 4) (n : Fin 16) | atomicAdd (e : Eng)
  /-- Prefetch of the MOV slot of the bundle `n` bundles after the next one due (08 R278). -/
  | prefetch (x : Fin 64) (n : Nat)
  | acq (x : Fin 64) | semGrant (k : Fin 1280) | rel (x : Fin 64) | fence (x : Fin 64)
  /-- A requested line arrives: image, line index, and whether it could be read (07 R243). -/
  | lineFill (c : Fin 4) (img : BitVec 16) (line : Nat) (ok : Bool)
  -- faults, recovery and the ladder (14)
  | watchdog (x : Fin 64) | hungContext (x : Fin 64) | faultDetected (f : FaultRep) | replayStart (c : Fin 4)
  | fenceCaldera (c : Fin 4) | faultLogExpire | scrub (f : FaultRep) | cpWdog
  | contextReset (x : Fin 64) | engineReset (c : Fin 4) | partitionReset (p : Fin 4) | blockReset | powerCycle
  | escLate (n : Nat) | dumpCopy
  -- time base (10)
  /-- A cycle with TBP_VALID = 1: TBP_TIME and TBP_STEP. -/
  | timeSample (t : BitVec 64) (stepStrobe : Bool)
  | holdover
  -- reset, power, life cycle, debug (15)
  | powerOnReset | warmReset | lcValid (code : BitVec 3) | firmwareVerify | secureWipe | wake
  | lcStateChange (code : BitVec 3) (valid : Bool) | lcReqAck | lcReqTimeout | nonceLapse
  | bypass (tdi : Bool) | dstat | obsreg (ofs : Nat) | memrd (store : Nat) (unit : Nat) (word : Nat)
  | memwr (store : Nat) (unit : Nat) (word : Nat) (data : BitVec 64)
  /-- 0 halts, 1 steps one bundle, 2 resumes the context. -/
  | ctxctl (x : Fin 64) (act : Fin 3)
  /-- SCAN selected (`leave` false) or left (`leave` true). -/
  | scan (leave : Bool)
  -- host port (12)
  | linkDown | linkUp | retrainStart | retrainEnd | retrainTimeout | hotReset | functionLevelReset
  | hostCompletion (tag : Fin 256) (status : Fin 4) | hostReadTimeout (tag : Fin 256)
  -- memory port (12)
  | memResponse (n : Fin 16) (tag : Fin 256) (status : Fin 4) (last : Bool)
  | memAck (n : Fin 16) (tag : Fin 256) (status : Fin 4) | memTagTimeout (n : Fin 16) (tag : Fin 256)
  -- light port (13): received frames on port p
  | plumeWrite (p : Fin 2) (f : Frame) | plumeRead (p : Fin 2) (f : Frame) | plumeAdd (p : Fin 2) (f : Frame)
  | doorbell (p : Fin 2) (f : Frame) | state (p : Fin 2) (f : Frame) | cancel (p : Fin 2) (f : Frame)
  | wack (p : Fin 2) (f : Frame) | rdata (p : Fin 2) (f : Frame) | aack (p : Fin 2) (f : Frame)
  | dack (p : Fin 2) (f : Frame) | sresult (p : Fin 2) (f : Frame)
  | link (p : Fin 2) (f : Frame) | nak (p : Fin 2) (f : Frame) | probe (p : Fin 2) (f : Frame)
  | probeReply (p : Fin 2) (f : Frame)
  | retryTimeout (q : Fin 64) | peerLost (q : Fin 64) | portDown (p : Fin 2) | portUp (p : Fin 2)
  -- rows added to the table
  | crpPorNAssert
  /-- A credit returned on channel n: `wd` false a request credit, true a write-beat credit (12 R363). -/
  | memCreditReturn (n : Fin 16) (wd : Bool)
  | resultInPlace (c : Fin 4) (u : Path)
  deriving DecidableEq, Repr

end Sys2Proof
end

