-- ==== Sys2Proof/Decode.lean ====
section
/-! DEFINITION. The command a table word spells: no row of the table gives bits, so no word spells one. -/

namespace Sys2Proof

/-- The command that the low `nbits` bits of `w` spell by the table: none, for every row of spec/opcode_table.json
has an empty field list and no bits. -/
def decodeTableWord (nbits w : Nat) : Option Instr :=
  match nbits, w with
  | _, _ => none

end Sys2Proof
end

