-- ==== Sys2Proof/Machine/Value.lean ====
section
/-! DEFINITION. Floating-point values, and the chunk registers of the array as data (03_arithmetic.md R110 to R112). -/

namespace Sys2Proof.Machine

/-- A floating-point value: NaN, an infinity, or the exact number (−1)^s × m × 2^e. -/
inductive Fv where
  | nan
  | inf (s : Bool)
  | fin (s : Bool) (m : Nat) (e : Int)
  deriving DecidableEq, Repr

/-- A chunk register: the sum C in units of 2^q, and the special value of a flagged chunk (R110 to R112). A working
cell's register is 72 bits wide, a check cell's 88 (02 R96); both are held in 88 bits. -/
structure Chunk where
  c : BitVec 88 := 0
  q : Int := 0
  special : Option Fv := none
  deriving DecidableEq, Repr

/-- The check operand of a k index: the format its elements were written in, and the sum (02 R96, R97). -/
structure CheckOp where
  fmt : Nat := 0
  val : Fv := .fin false 0 0
  deriving DecidableEq, Repr

end Sys2Proof.Machine
end

