-- ==== Sys2Proof/Machine/State.lean ====
section
/-! DEFINITION. The machine's state as plain data, its faults and refusals, and the state after reset. -/

namespace Sys2Proof.Machine

/-- What stops the block model. -/
inductive Fault where
  /-- Raised by `memrd` and `memwr` when the debugger names a word outside every store of 00_scope.md Table 00.4
  (15 R456). Safe: the spec gives no such word. -/
  | noSuchWord
  deriving DecidableEq, Repr

/-- Commands without a meaning. -/
inductive Refusal where
  /-- The command has no meaning yet; raised by a dispatch arm only. Safe: nothing is claimed about it. -/
  | notModelled (mnemonic : String)
  deriving DecidableEq, Repr

/-- FWSTATE (09 Table 09.4). -/
inductive FwState where
  | reset | boot | running | stopped | failed
  deriving DecidableEq, Repr

/-- Stream states (01 Table 01.4). -/
inductive StreamState where
  | free | idle | queued | resident | pinned | migrating | exported | faulted
  deriving DecidableEq, Repr

/-- Channel states (09, CHANNEL_QUERY). -/
inductive ChanState where
  | created | admitted | hostLost | ringError
  deriving DecidableEq, Repr

/-- Mailbox states (09 Table 09.8). -/
inductive MbState where
  | idle | busy | done
  deriving DecidableEq, Repr

/-- Feeder half states (02 Table 02.1). -/
inductive HalfState where
  | empty | filling | ready | inUse
  deriving DecidableEq, Repr

/-- Time base states (10 Table 10.3). -/
inductive TbState where
  | unset | locked | holdover | fault
  deriving DecidableEq, Repr

/-- Power states (15 Table 15.5). -/
inductive PState where
  | active | idle | retain | off
  deriving DecidableEq, Repr

/-- Debug levels (15 Table 15.6). -/
inductive Level where
  | closed | observe | opened
  deriving DecidableEq, Repr

/-- Where the block stands in the reset phases (15 Table 15.2): held by CRP_POR_N, waiting for CRP_LC_VALID
(phase 3), fetching and verifying the firmware (phases 4 and 5), running (after phase 6), verification failed, or
stopped (RETAIN, OFF or END). -/
inductive Phase where
  | held | lifeCycle | boot | running | failed | stopped
  deriving DecidableEq, Repr

/-- Slots of a bundle in header order (07 Table 07.2). -/
inductive SlotK where
  | seq | mat | vec | sfu | mov | syn
  deriving DecidableEq, Repr

/-- Where an accepted work item stands (09 R315, 11 R340). -/
inductive Place where
  | queued | staged | exec
  deriving DecidableEq, Repr

/-- Request kinds of the Memory and Host Ports (12 Tables 12.1 and 12.4). -/
inductive ReqKind where
  | read | write | fence
  deriving DecidableEq, Repr

/-- Who waits for a port request. -/
inductive User where
  | xfer (id : Nat) | look (id : Nat) | exp (slot : Nat)
  | remote (id : Nat)
  /-- A line request of a Caldera (07 R242). -/
  | fetch (cal : Nat) (img : BitVec 16) (line : Nat)
  /-- An add in an atomic unit of the Memory Port (12 R367). -/
  | add (id : Nat)
  /-- The firmware's read of a channel's next ring entry (0) and of its stream list (1) (09 R310, R312). -/
  | entry (ch k : Nat)
  /-- The read of an item's descriptor list (0) and of its reset mask (1) (09 R313). -/
  | item (ch : Nat) (seq : Word) (k : Nat)
  /-- The reads of a mailbox's command, in order (09 R304, 07 R247, 01 R48). -/
  | mbox (m k : Nat)
  /-- Posting on a channel: the data fence (0), the records (1), the CQ's fence (2) (12 R376). -/
  | post (ch k : Nat)
  /-- The event record that goes into a partition's ring (09 R316). -/
  | event (p : Nat)
  /-- The Ashfall copy (14 R436). -/
  | dump
  /-- Nothing any more: the operation has ended, or the request serves every later one. -/
  | gone
  deriving DecidableEq, Repr

/-- A wait of a mailbox command for a later event (09 R298). -/
inductive Wait where
  | none | export_ (slot : Nat) | destroy (slot : Nat) | replace (old new : BitVec 16) | reload (t : Nat)
  | chDestroy (ch : Nat) | resetStep | idle
  /-- The command reads a region: it has asked, and the mailbox stays the next one (log entry 161). -/
  | reads
  deriving DecidableEq, Repr

/-- Direct registers of the CP (09 Table 09.1). -/
structure Cp where
  fwState : FwState := .reset
  fatal : Word := 0
  intStatus : Word := 0
  intEnable : Word := 0
  timeHi : Word := 0
  /-- Data of the last register read completion (12 Table 12.4). -/
  icpl : Word := 0
  /-- Public key of the verified firmware (15 R444). -/
  pubkey : List Byte := []
  deriving DecidableEq, Repr

/-- Time base (10 R318 to R324); times in twelfths of a tick. -/
structure TimeBase where
  st : TbState := .unset
  /-- TIME. -/
  t12 : Nat := 0
  /-- What the estimate still has to advance while TIME stands still (R322). -/
  hold12 : Nat := 0
  backs : Nat := 0
  /-- Since LOCKED was left (R479). -/
  left12 : Nat := 0
  /-- TIME at the last accepted sample, in the units of `t12`: the 100 µs holdover timer runs from it (R321, R322). -/
  mark12 : Nat := 0
  deriving DecidableEq, Repr

/-- A mailbox (09 Table 09.8). -/
structure Mailbox where
  st : MbState := .idle
  overrun : Bool := false
  owner : BitVec 4 := 0
  cmd : Mem := []
  rsp : Mem := []
  wait : Wait := .none
  deriving DecidableEq, Repr

/-- Figures of an admitted channel (09, CHANNEL_ADMIT; 10 R331, R332). -/
structure Adm where
  period : Nat
  deadline : Nat
  phase : Nat
  steps : Nat
  rows : Nat
  entry : Nat
  arrival : Nat
  late : Nat
  /-- Charged cost C (10 R332). -/
  cost : Nat
  deriving DecidableEq, Repr

/-- A channel (09 R301, R309 to R314). -/
structure Chan where
  gen : Nat := 0
  live : Bool := false
  part : Nat := 0
  st : ChanState := .created
  img : BitVec 16 := 0
  sqReg : BitVec 16 := 0
  sqOfs : Nat := 0
  sqLog : Nat := 0
  cqReg : BitVec 16 := 0
  cqOfs : Nat := 0
  cqLog : Nat := 0
  mask : BitVec 64 := 0
  adm : Option Adm := none
  bin : Option Nat := none
  nextSeq : Word := 0
  lastConf : Word := 0
  sqProd : BitVec 16 := 0
  sqCons : BitVec 16 := 0
  cqProd : BitVec 16 := 0
  cqCons : BitVec 16 := 0
  /-- Arrival stamps of the entries not yet taken, in ring order (10 R326). -/
  stamps : List Nat := []
  /-- Records written since the ring was set, for PHASE (09 R314). -/
  wrote : Nat := 0
  /-- Windows for which an entry has been accepted (10 R338, 5). -/
  wins : List Nat := []
  /-- Windows that hold a held entry (10 Table 10.4). -/
  heldWins : List Nat := []
  deriving DecidableEq, Repr

/-- An event record waiting for the ring (09 Table 09.16). -/
structure EvRec where
  code : BitVec 16
  lost : Nat
  time : Nat
  payload : List Byte
  deriving DecidableEq, Repr

/-- A partition (09 R300, R316, R478; 10 R333). -/
structure Part where
  exist : Bool := false
  /-- ADMIT: true for full mode. -/
  full : Bool := false
  exportTo : Nat := 10000
  tableTo : Nat := 10000
  ring : Bool := false
  ringReg : BitVec 16 := 0
  ringOfs : Nat := 0
  ringLog : Nat := 0
  eqProd : BitVec 16 := 0
  eqCons : BitVec 16 := 0
  wrote : Nat := 0
  queue : List EvRec := []
  lost : Nat := 0
  /-- Caldera of each bin, by bin number. -/
  bins : List Nat := []
  spare : Option Nat := none
  /-- Round-robin pointer of the SQ take (11 Table 11.1). -/
  sqPtr : Nat := 0
  deriving DecidableEq, Repr

/-- A region (12 R358). -/
structure Region where
  gen : Nat := 0
  live : Bool := false
  part : Nat := 0
  host : Bool := false
  ro : Bool := false
  base : Nat := 0
  size : Nat := 0
  invalid : Bool := false
  deriving DecidableEq, Repr

/-- A piecewise-linear curve: breakpoints and values, FP32 bits (06 Table 06.4). -/
structure Curve where
  xs : List Word
  ys : List Word
  deriving DecidableEq, Repr

/-- A micro-program: step words and constants (06 Table 06.6). -/
structure Micro where
  steps : List Word
  consts : List Word
  deriving DecidableEq, Repr

/-- A layer record (07 Table 07.18). -/
structure Layer where
  cls : Nat
  recipe : Nat
  dform : Nat
  f32 : Nat
  widthM1 : Nat
  segM1 : Nat
  slot0 : Nat
  expeval : Nat
  din : Nat
  qlen : Nat
  nstate : Nat
  rfmt : Nat
  cfmt : Nat
  gfmt : Nat
  gsf : Nat
  gslot0 : Nat
  ckpt : Nat
  sgrad : Nat
  rsvZero : Bool
  deriving DecidableEq, Repr

/-- A cost record (10 Table 10.5). -/
structure Cost where
  fixed : Nat
  perStep : Nat
  perBlock : Nat
  qb : Nat
  stateB : Nat
  fold : Nat
  interf : Nat
  rsvZero : Bool
  deriving DecidableEq, Repr

/-- An acquisition list entry (07 Table 07.19). -/
structure AcqE where
  sem : Nat
  glob : Bool
  amount : Nat
  deriving DecidableEq, Repr

/-- A gradient tile map entry (05 Table 05.3). -/
structure Tile where
  param : Nat
  trow : Nat
  tcol : Nat
  row : Bool
  p64 : Bool
  frame : Nat
  frow : Nat
  rsvZero : Bool
  deriving DecidableEq, Repr

/-- A published image (07 R246 to R250). -/
structure Image where
  gen : Nat := 0
  live : Bool := false
  part : Nat := 0
  host : Bool := false
  reg : BitVec 16 := 0
  addr : Nat := 0
  size : Nat := 0
  codeSize : Nat := 0
  codeOfs : Nat := 0
  entries : List Nat := []
  yields : List Nat := []
  slots : Nat := 0
  rowHalves : Nat := 0
  colHalves : Nat := 0
  decay : Bool := false
  lanes : Nat := 0
  spadKib : Nat := 0
  fl2 : Bool := false
  training : Bool := false
  curves : List Curve := []
  micros : List Micro := []
  layers : List Layer := []
  tiles : List Tile := []
  costs : List Cost := []
  acqs : List (List AcqE) := []
  wdog : Nat := 0
  ltab : List Word := []
  damaged : Bool := false
  deriving DecidableEq, Repr

/-- Where a table generation lies (08 Table 08.5). -/
structure Loc where
  peer : Option Nat
  reg : BitVec 16
  addr : Nat
  deriving DecidableEq, Repr

/-- An embedding table (08 R282 to R285). -/
structure Table where
  live : Bool := false
  part : Nat := 0
  rowBytes : Nat := 0
  rows : Nat := 0
  bypass : Bool := false
  gen : Nat := 0
  loc : Loc := ⟨none, 0, 0⟩
  oldGen : Nat := 0
  old : Option Loc := none
  /-- Location of the pending reload and the mailbox that waits for it. -/
  pend : Option (Loc × Nat) := none
  deriving DecidableEq, Repr

/-- A gradient set (05, 09 R304). -/
structure GSet where
  gen : Nat := 0
  live : Bool := false
  part : Nat := 0
  chan : Nat := 0
  /-- Generation of the channel when the set was taken: a later channel of that index has no set (09 R301, R304). -/
  chanGen : Nat := 0
  frames : BitVec 32 := 0
  corrupt : Bool := false
  deriving DecidableEq, Repr

/-- A Sinter slot and its slot-table entry (01 Table 01.2). -/
structure Slot where
  st : StreamState := .free
  f32 : Bool := false
  half : Bool := false
  widthM1 : Nat := 0
  resValid : Bool := false
  resCal : Nat := 0
  resRow : Nat := 0
  resSlot : Nat := 0
  /-- Accumulator slots that the resident segment takes (01 R27). -/
  resN : Nat := 0
  gen : BitVec 20 := 0
  seq : Word := 0
  steps : BitVec 64 := 0
  commit : BitVec 64 := 0
  chan : Nat := 0
  chValid : Bool := false
  qdepth : Nat := 0
  part : Nat := 0
  /-- Retired until block reset (14 R423). -/
  retired : Bool := false
  /-- Held for an arrival (13 R401). -/
  held : Bool := false
  /-- An uncorrectable error is known in the committed copy (01 R39). -/
  damaged : Bool := false
  /-- Slot CRC stored at RETAIN entry (15 R449). -/
  crc : Word := 0
  deriving DecidableEq, Repr

/-- A halt record (07 R256). -/
structure Halt where
  ctx : Nat := 0
  img : BitVec 16 := 0
  ofs : Nat := 0
  slot : Nat := 0
  reason : Nat := 0
  detail : Word := 0
  deriving DecidableEq, Repr

/-- A loop stack entry (07 R220). -/
structure LoopE where
  start : Nat
  endOfs : Nat
  count : Nat
  iter : Nat
  idx : Option Nat
  /-- A bundle has started at the end offset in the current iteration (R223). -/
  hit : Bool
  deriving DecidableEq, Repr

/-- The bundle a context is issuing: what is left of it (07 R210). -/
structure Bun where
  ofs : Nat
  len : Nat
  yield : Bool
  words : List Word
  rest : List SlotK
  /-- The loop stack was empty when the context reached the bundle (R252). -/
  outer : Bool := true
  deriving DecidableEq, Repr

/-- A write deferred under 07 R239 and 09 R305. -/
inductive DefWrite where
  | desc (first : Nat) (bytes : List Byte)
  | astat (w : Word)
  | seed (w : Word)
  deriving DecidableEq, Repr

/-- A prefetched MOV slot: the bundle it stands in and the number of that bundle in issue order, counted from the
start of the attempt (08 R279). -/
structure Pre where
  ofs : Nat
  seqNo : Nat
  deriving DecidableEq, Repr

/-- A context (07 Table 07.14, R256; 08 R281; 14 Table 14.7). -/
structure Ctx where
  exist : Bool := false
  pc : Nat := 0
  c : Tab Word := []
  /-- Counters as they stood before the SEQ slot of the bundle being issued (07 R212). -/
  cPrev : Tab Word := []
  k : BitVec 8 := 0
  loops : List LoopE := []
  mxr : Nat := 0
  mxc : Nat := 0
  astat : Word := 0
  sr : Word := 0
  /-- SR_STATE recorded when the work item started (06 R186). -/
  srStart : Word := 0
  bun : Option Bun := none
  /-- Where the bundle being issued sends the context, when its SEQ slot decided it, and whether the bundle there is
  stepped over (07 R223). -/
  goto : Option (Nat × Bool) := none
  /-- The bundle at `pc` is stepped over before the next one issues. -/
  stepOver : Bool := false
  /-- Bundles issued in this attempt. -/
  bundles : Nat := 0
  halted : Bool := false
  last : Halt := {}
  haltReq : Bool := false
  /-- Halted by CTXCTL (15 Table 15.8). -/
  dbgHalt : Bool := false
  /-- One bundle may issue although halted by CTXCTL. -/
  dbgStep : Bool := false
  stalls : Tab (BitVec 48) := []
  /-- A slot issued since the last tick (08 R281). -/
  issued : Bool := false
  /-- Cause for which the oldest unissued slot waits (08 Table 08.4), and the clock since which it does (11 R343). -/
  cause : Nat := 14
  since : Nat := 0
  /-- TIME of the last bundle issued or attempt start, for the watchdog; and when a restore that pauses it began (14
  R427). -/
  beat : Nat := 0
  pausedAt : Nat := 0
  defer : List DefWrite := []
  pre : List Pre := []
  /-- The last 64 bundles issued, oldest first: code offset, image, and the clock of the issue (14 Table 14.7). -/
  trace : List (Nat × BitVec 16 × Nat) := []
  semSave : List (Nat × Nat) := []
  deriving DecidableEq, Repr

/-- A tensor descriptor as decoded (07 Table 07.13); `base` becomes the address of R235 after the counter offset
when an instruction takes it. -/
structure Desc where
  type : Nat
  space : Nat
  fmt : Nat
  ndim : Nat
  transpose : Bool
  indirect : Bool
  idx : Nat
  idim : Nat
  region : BitVec 16
  base : Nat
  sizes : List Nat
  strides : List Int
  limit : Nat
  octr : Nat
  oen : Bool
  ostride : Int
  /-- Reserved bits and the fields of absent dimensions are zero (R234). -/
  rsvZero : Bool
  /-- BASE plus the counter offset, as a signed address. -/
  eff : Int
  deriving DecidableEq, Repr

/-- A MAC run in the bus pipeline (02 R72). -/
structure Run where
  ctx : Nat
  ofs : Nat
  /-- Position and F32 half of the target slot, as `Ops.slotId` numbers them. -/
  slot : Nat
  f32 : Bool
  rh : Nat
  ch : Nat
  rofs : Nat
  cofs : Nat
  k : Nat
  rfmt : Nat
  cfmt : Nat
  /-- Scale tensors with their index values. -/
  rsc : Option (Desc × List Nat)
  csc : Option (Desc × List Nat)
  promoted : Nat
  compared : Nat
  /-- Number in the order of issue to the bus path. -/
  no : Nat
  /-- Image its bundle stands in (03 R125). -/
  img : BitVec 16 := 0
  deriving DecidableEq, Repr

/-- A group handed to the promotion stage and to the compares, until they report (R96 to R101): its run's context,
bundle, slot and index, whether its operands are 16-bit, the 257 × 257 chunk registers by row, and for each compared row
and column the largest exponent of its products. -/
structure Handed where
  ctx : Nat
  ofs : Nat
  slot : Nat
  f32 : Bool
  index : Nat
  wide : Bool
  chunks : List Chunk
  rowG : List (Option Int)
  colG : List (Option Int)
  deriving DecidableEq, Repr

/-- The last mismatch report of a Caldera (R101): context, channel and sequence number of its work item, target slot,
promotion index, and every mismatching row and column; 256 is the check row or column. -/
structure Mismatch where
  ctx : Nat
  item : Option (Nat × Word)
  slot : Nat
  f32 : Bool
  index : Nat
  rows : List Nat
  cols : List Nat
  deriving DecidableEq, Repr

/-- What is left of a vector or SFU instruction whose run is not processed to its end (06 R180): its slot's bits, the
counters it reads, its next register, the registers that the rest reads, and what it took at its issue: the image it was
issued from, with its curves, micro-programs and SFU mode, and the tensor of a VLD or VST with its index values. -/
structure LaneRest where
  w : Nat
  cnt : Tab Word
  m : Nat
  lrd : List Nat
  img : BitVec 16
  tens : Option (Desc × List Nat × Nat)
  deriving DecidableEq, Repr

/-- What a ZERO (kind 0), a PRELOAD bias row (1) or a SCALE (2) does when it reaches its place (02 R73, R81): its
slots, each with whether its issue changed its position's format; the rows of a ZERO; the form of a SCALE; and the
row and column vectors, one for each slot, as read at the issue. -/
structure BusEff where
  kind : Nat
  f32 : Bool
  slots : List (Nat × Bool)
  mask : Nat
  form : Nat
  us : List (List Word)
  vs : List (List Word)
  deriving DecidableEq, Repr

/-- An issued operation that has not reached its place (02 R81, 06 R180). -/
structure Op where
  path : Path
  ctx : Nat
  ofs : Nat
  rd : List Nat
  wr : List Nat
  lwr : List Nat
  /-- Row half that a RECIRC fills. -/
  half : Option Nat
  /-- Lane registers of one row of a DRAIN, or halves of one slot that a RECIRC reads; 0 when the result reaches its
  place whole. -/
  step : Nat
  /-- 0 no decay use, 1 plane-form SCALE, 2 LOADDECAY. -/
  dec : Nat
  /-- Number in the order of issue to the bus path, and what a bus-path operation still does. -/
  no : Nat
  bus : Option BusEff
  rest : Option LaneRest
  /-- Image its bundle stands in (03 R125). -/
  img : BitVec 16 := 0
  deriving DecidableEq, Repr

/-- A feeder half (02 R60, R63). -/
structure Half where
  st : HalfState := .empty
  data : Mem := []
  /-- Check operands of the k indices written (R62), by twice the first slice, plus 1 for the second of two 4-bit
  elements of a slice. -/
  chk : Tab CheckOp := []
  deriving DecidableEq, Repr

/-- A FEED that is moving (02 R61). -/
structure FeedOp where
  ctx : Nat
  half : Nat
  deriving DecidableEq, Repr

/-- A cached code line (07 R241). -/
structure CLine where
  img : BitVec 16
  line : Nat
  data : List Byte
  deriving DecidableEq, Repr

/-- A line request (07 R242, R243). -/
structure Fetch where
  img : BitVec 16
  line : Nat
  tries : Nat
  deriving DecidableEq, Repr

/-- A Vent transfer (08 R258 to R269). -/
structure Xfer where
  id : Nat
  ctx : Nat
  ch : Nat
  seq : Word
  ofs : Nat
  pre : Bool
  add : Bool
  flush : Bool
  src : Desc
  dst : Desc
  scal : Nat
  dcal : Nat
  sidx : List Nat
  didx : List Nat
  sem : Option Nat
  /-- Handle of its destination descriptor. -/
  dsth : Nat
  started : Bool
  /-- Its reads have ended, and its requests to write are made (R260). -/
  wrote : Bool
  /-- Elements of an ADD that have reached their atomic unit. -/
  adds : Nat
  flags : BitVec 5
  err : Bool
  mute : Bool
  /-- Data received from a peer, by source element. -/
  rx : Mem
  /-- Plume requests not yet answered. -/
  acks : Nat
  /-- Image its bundle stands in (03 R125; 07 R256). -/
  img : BitVec 16 := 0
  /-- Elements that have passed their checks, and the check that the next one failed (08 R269). -/
  good : Nat := 0
  stop : Option (Nat × Word) := none
  deriving DecidableEq, Repr

/-- A Tephra lookup (08 R286, R287). -/
structure Lookup where
  id : Nat
  ctx : Nat
  ch : Nat
  seq : Word
  ofs : Nat
  pre : Bool
  table : Nat
  gen : Nat
  idx : List Nat
  dst : Desc
  sem : Option Nat
  err : Bool
  mute : Bool
  rx : Mem
  acks : Nat
  /-- Rows, by element, that have been read from their location. -/
  read : List Nat
  /-- Image its bundle stands in (07 R256). -/
  img : BitVec 16 := 0
  /-- Index values of an indirect destination. -/
  didx : List Nat := []
  /-- Clock of its issue, from which its age counts (11 R343). -/
  since : Nat := 0
  deriving DecidableEq, Repr

/-- A prefetched VENT that waits inside the prefetch unit for a position of its engine (08 R279): the engine's key, the
transfer, and the clock at which it asked. -/
structure Ahead where
  eng : Nat
  t : Xfer
  since : Nat
  deriving DecidableEq, Repr

/-- A row-image of a dispatcher restore: the item's context, the row, the slot-table index of its stream, its number
in the state, and, in the restore buffer, its bytes (11 R345, R347). -/
structure RowImg where
  ctx : Nat
  row : Nat
  slot : Nat
  no : Nat
  bytes : List Byte := []
  deriving DecidableEq, Repr

/-- A Caldera. -/
structure Cal where
  part : Nat := 0
  fenced : Bool := false
  /-- Steps 3 to 7 of the fence are still to come (14 R424). -/
  fenceDue : Bool := false
  held : Bool := true
  /-- Accumulator positions by position, row and column: bits [63:0] are the data; bit 64 and bit 65 are the parity bits
  of the low and the high 4 B half, each as its difference from the parity of the data (02 R77). -/
  acc : Tab (BitVec 66) := []
  /-- Bit m: position m is in F32 format (02 R74). -/
  fmt : BitVec 8 := 0
  /-- Groups promoted whose compares have not reported, oldest first. -/
  groups : List Handed := []
  mismatch : Option Mismatch := none
  /-- Faults that checks of the array have found and FAULT_DETECTED has not reported yet (R77). -/
  found : List FaultRep := []
  /-- Clock at which each path and unit accepts its next operation (02 R79, 06 R181, R200): 0 bus, 1 plane port,
  2 row-read, 3 vector unit, 4 SFUs. -/
  free : Tab Nat := []
  /-- Row-images that the dispatcher restores of the Caldera have still to collect, in order (01 R29, R40). -/
  rest : List RowImg := []
  /-- The restore buffer of 64 KiB: row-images from other quadrants that wait for the plane port (11 R345). -/
  rbuf : List RowImg := []
  /-- Clock since which the Caldera asks for its next row-image from another quadrant (11 R343). -/
  restSince : Nat := 0
  decay : Tab Word := []
  /-- Chunk registers of the working cells, by 256 × row + column (02 R74). -/
  chunk : Tab (BitVec 72) := []
  /-- Chunk registers of the check cells, by 257 × row + column (02 R96). -/
  checks : Tab (BitVec 88) := []
  lanes : Tab Word := []
  written : BitVec 256 := 0
  halves : Tab Half := []
  runs : List Run := []
  ops : List Op := []
  feeds : List FeedOp := []
  spad : Mem := []
  grad : Mem := []
  icache : List CLine := []
  /-- Retired ways, by set: one entry for each way (14 Table 14.3). -/
  icRetired : List Nat := []
  fetches : List Fetch := []
  ve : Tab (List Xfer) := []
  /-- Prefetched VENTs of its contexts that wait inside their prefetch units, in the order of issue (08 R279). -/
  ahead : List Ahead := []
  /-- Pointer of the dispatch-window arbiter (11 R342). -/
  dispPtr : Nat := 0
  lookups : List Lookup := []
  deriving DecidableEq, Repr

/-- A semaphore (08 Table 08.3). -/
structure Sem where
  value : Nat := 0
  /-- 0 unbound, 1 private, 2 shared. -/
  bind : Nat := 0
  ctx : Nat := 0
  sat : Bool := false
  part : Nat := 0
  prod : Nat := 0
  cons : Nat := 0
  ptr : Nat := 0
  deriving DecidableEq, Repr

/-- A recorded acquisition of a shared semaphore: semaphore, amount taken, amount left (08 R274). -/
structure Acq where
  sem : Nat
  taken : Nat
  left : Nat
  deriving DecidableEq, Repr

/-- A ring entry as accepted (09 Table 09.14). -/
structure Entry where
  irq : Bool
  mask : Bool
  steps : Nat
  rows : Nat
  entry : Nat
  wstart : Nat
  deadline : Nat
  user : Word
  dreg : BitVec 16
  dfirst : Nat
  dofs : Nat
  dcount : Nat
  maskh : Nat
  streams : List Word
  deriving DecidableEq, Repr

/-- An accepted work item. -/
structure Item where
  ch : Nat
  seq : Word
  part : Nat
  task : Bool
  e : Entry
  win : Nat
  deadline : Nat
  late : Bool
  eligAt : Nat
  eligible : Bool := false
  place : Place := .queued
  cal : Nat := 0
  ctx : Nat := 0
  slotBase : Nat := 0
  slots : Nat := 0
  halves : BitVec 4 := 0
  decay : Bool := false
  laneBase : Nat := 0
  laneN : Nat := 0
  spadBase : Nat := 0
  spadLen : Nat := 0
  /-- Image the attempt runs on now, and the images its attempts have run on (07 R253). -/
  img : BitVec 16 := 0
  imgStart : BitVec 16 := 0
  imgs : List (BitVec 16) := []
  entered : Bool := false
  /-- The list that a placed item still waits for: 1 its descriptors, 2 its reset mask, 0 none (09 R313). -/
  loading : Nat := 0
  /-- A dispatcher restore is outstanding. -/
  restoring : Bool := false
  replayed : Bool := false
  third : Bool := false
  /-- Attempts started. -/
  attempt : Nat := 0
  /-- SR_STATE when the item first started (06 R186). -/
  sr0 : Option Word := none
  /-- Rows left unused (01 R35). -/
  rowFault : BitVec 256 := 0
  acqs : List Acq := []
  defer : List (Nat × Nat) := []
  tables : List (Nat × Nat) := []
  /-- Bytes of the reset mask, while an item that has read them waits for its next window (09 R313). -/
  maskKeep : List Byte := []
  /-- Descriptors of the entry's list, as read when the item first entered a window (09 R313). -/
  descs : Option (List Byte) := none
  /-- The copy of the reset mask lies in the reservation: MASKH names it (09 R313). -/
  maskIn : Bool := false
  /-- A fence sent it back to its queue: its chunk counts as dispatched for a FORCE command (01 R41). -/
  back : Bool := false
  /-- Bundles issued when the forward phase of its first attempt to end one did so: a replay's ends there too (05
  R161). -/
  fwdAt : Option Nat := none
  /-- Rows with a starting copy of a full-slot state, each with the byte of the scratchpad where it lies (01 R26). -/
  starts : List (Nat × Nat) := []
  ended : Bool := false
  /-- The attempt has been stopped by a fault and waits for its replay (14 R418). -/
  stopped : Bool := false
  /-- The attempt performed an add that R420 excludes from replay. -/
  adds : Bool := false
  /-- The stopped item completes with FAULTED (14 R420, R421). -/
  fail : Bool := false
  /-- The forward phase of a training item has ended (05 R155). -/
  fwdDone : Bool := false
  yields : Nat := 0
  /-- Ports its transfers wrote: Memory Port channels 0 to 15, and 16 for the Host Port (12 R376). -/
  ports : List Nat := []
  /-- Its channel entered HOST_LOST: no record is posted for it (12 R381). -/
  silent : Bool := false
  /-- Yield count and image of each switch that the attempt made, in order (07 R253). -/
  switch : List (Nat × BitVec 16) := []
  halt : Halt := {}
  deriving DecidableEq, Repr

/-- A completion record owed (09 Table 09.15). -/
structure Post where
  ch : Nat
  seq : Word
  status : Nat
  replayed : Bool
  irq : Bool
  astat : Word
  user : Word
  ctx : Nat
  img : BitVec 16
  halt : Halt
  rowFault : BitVec 256
  deadline : Nat
  /-- Ports that the data fence covers (12 R376). -/
  ports : List Nat := []
  /-- Steps of R376 begun: 0 none, 1 the data fence, 2 the record, 3 the CQ's fence. -/
  stage : Nat := 0
  deriving DecidableEq, Repr

/-- An export in progress (01 R45, R46). -/
structure Export where
  slot : Nat
  peer : Option Nat
  host : Bool
  addr : Nat
  bytes : List Byte
  move : BitVec 16
  cancelled : Bool
  /-- The stream faults when the export fails (01 R39). -/
  poisoned : Bool
  deriving DecidableEq, Repr

/-- A peer move held by the receiver (09 R308, 13 R401). -/
structure Arrival where
  no : Nat
  src : Nat
  move : BitVec 16
  slot : Nat
  part : Nat
  hdr : List Byte
  bytes : Nat
  got : Nat
  total : Nat
  xid : BitVec 16
  deriving DecidableEq, Repr

/-- One request to a port (12). -/
structure Burst where
  kind : ReqKind
  host : Bool
  addr : Nat
  len : Nat
  data : List Byte
  deriving DecidableEq, Repr

/-- The requests an operation still wants, in stages; a stage starts when the one before it has ended. -/
structure Job where
  user : User
  stages : List (List Burst)
  err : Bool
  /-- Clock at which its current stage first requested (11 R343). -/
  since : Nat := 0
  /-- Bytes that its READs have returned, by address (12 R361, R371). -/
  rx : Mem := []
  deriving DecidableEq, Repr

/-- An outstanding request with its tag (12 R363, R379). -/
structure Req where
  host : Bool
  chan : Nat
  tag : Nat
  b : Burst
  user : User
  /-- Write data beats of a Memory Port WRITE still to be presented (12 R363). -/
  wd : Nat := 0
  /-- WRITEs handed before a FLUSH_READ, which its completion covers (12 R375). -/
  covers : Nat := 0
  /-- It has ended for its user; the tag stays in use until the last beat, acknowledgment or completion that carries it
  (12 R363, R368, R379). -/
  retired : Bool := false
  deriving DecidableEq, Repr

/-- An add in the atomic unit of a Memory Port channel (08 R289, R290; 12 R367): the transfer or peer's request it
belongs to, the element's address, format and addend, its stage (0 waits for its granule, 1 reads the granule, 2 writes
the element), and the flags it raised. -/
structure AtomOp where
  id : Nat
  user : User
  addr : Nat
  fmt : Nat
  val : List Byte
  stage : Nat
  fl : BitVec 5
  deriving DecidableEq, Repr

/-- Credits of a Memory Port channel (12 R363), the pointers of its two arbiters (11 R342), and the adds in its atomic
unit in the order of their arrival (08 R290). -/
structure MemCh where
  rdPtr : Nat := 0
  wrPtr : Nat := 0
  adds : List AtomOp := []
  reqCrd : Nat := 0
  wdCrd : Nat := 0
  /-- Credits returned since reset. -/
  reqTotal : Nat := 0
  wdTotal : Nat := 0
  deriving DecidableEq, Repr

/-- Host Port link inputs as sampled (12 R380). -/
structure HostPort where
  up : Bool := false
  retrain : Bool := false
  /-- The retrain has lasted 50 ms: requests fail as at a link down until it ends (12 Table 12.6). -/
  expired : Bool := false
  /-- Address of the last WRITE handed (12 R375). -/
  last : Nat := 0
  /-- Pointers of the read path's and the write path's arbiters (11 R342). -/
  rdPtr : Nat := 0
  wrPtr : Nat := 0
  /-- WRITEs handed that no completed flush-read fence covers: address and bytes, oldest first (12 R374, R375). -/
  unfenced : List (Nat × Nat) := []
  deriving DecidableEq, Repr

/-- A Plume frame of ours that is not acknowledged or not yet presented. -/
structure TxFrame where
  f : Frame
  /-- Presented at least once. -/
  sent : Bool
  /-- How often it has been sent again since (R393). -/
  again : Nat
  /-- Frames that its port had sent when it first requested (11 R343). -/
  since : Nat
  deriving DecidableEq, Repr

/-- One class of a peer (13 R392 to R395). -/
structure PClass where
  /-- Next SEQ to send. -/
  tx : Word := 0
  /-- Next SEQ expected. -/
  rx : Word := 0
  nak : Bool := false
  /-- Units the peer has granted, cumulative, and units used. -/
  crd : BitVec 16 := 17
  used : BitVec 16 := 0
  /-- Units granted to the peer, cumulative (R395: 17 are reserved for each peer). -/
  grant : BitVec 16 := 17
  /-- Units of pool grants taken back that are not granted again (R395; log entry 111). -/
  hold : Nat := 0
  queue : List TxFrame := []
  /-- Retry timeouts in a row that have hit the oldest unacknowledged frame (R389). -/
  timeouts : Nat := 0
  deriving DecidableEq, Repr

/-- A peer (13). -/
structure Peer where
  sess : BitVec 16 := 0
  req : PClass := {}
  rsp : PClass := {}
  lost : Bool := false
  /-- The pair has moved to the other port (R389). -/
  alt : Bool := false
  probed : Bool := false
  /-- A frame with the block's session number has been accepted from it: DSESS 0 is no match any more (R392). -/
  known : Bool := false
  /-- The block's clock when a frame of it was last accepted (R395). -/
  heard : Nat := 0
  /-- Grants of 68 units from the pool now lent (R395). -/
  pool : Nat := 0
  /-- Channels its writes have used since its last FLUSH (R398). -/
  wrote : List Nat := []
  /-- Handles of the streams imported from it whose SRESULT OK is not yet acknowledged, with that SRESULT's SEQ
  (R404). -/
  okSlots : List (Word × Word) := []
  /-- Moves answered OK, for a later CANCEL (R403): move number and new handle. -/
  okMoves : List (BitVec 16 × Word) := []
  deriving DecidableEq, Repr

/-- A peer's request that waits for the Memory Port (13 R398): kind 1 WRITE, 2 READ, 3 ADD, of n bytes at an address of
integrator memory. The answer to a muted one is discarded. -/
structure Remote where
  id : Nat
  peer : Nat
  xid : BitVec 16
  kind : Nat
  addr : Nat
  len : Nat
  mute : Bool
  /-- Flags its adds raised, and whether one met a port fault. -/
  fl : BitVec 5 := 0
  err : Bool := false
  deriving DecidableEq, Repr

/-- A doorbell that waits for earlier requests of its sender (13 R400): their identifiers, channel index, PROD, XID. -/
structure Bell where
  peer : Nat
  after : List Nat
  chan : Nat
  prod : BitVec 16
  xid : BitVec 16
  deriving DecidableEq, Repr

/-- A request of ours that a peer has not answered (13 R390 XID): what waits, where its data goes, and its address. -/
structure Asked where
  xid : BitVec 16
  user : User
  ofs : Nat
  peer : Nat
  addr : Nat
  /-- Receive units reserved for the answer (11 R353). -/
  units : Nat
  deriving DecidableEq, Repr

/-- Light Port (13). -/
structure Light where
  up : BitVec 2 := 0
  /-- LTP_OE_RST_N, an output, and the inputs LTP_OE_READY and LTP_OE_FAULT_N as sampled (13 Table 13.1). -/
  oeRstN : BitVec 2 := 0
  oeReady : BitVec 2 := 0
  oeFaultN : BitVec 2 := 0
  session : BitVec 16 := 0
  move : BitVec 16 := 0
  peers : Tab Peer := []
  asked : List Asked := []
  nextXid : BitVec 16 := 0
  remotes : List Remote := []
  bells : List Bell := []
  /-- Link-control frames handed to the port, newest first, one hundred at most, each with its peer. -/
  ctl : List (Nat × Frame) := []
  /-- Pointer of each port's transmit arbiter, and frames it has granted, its clock (11 R342, R343, Table 11.1). -/
  txPtr : Tab Nat := []
  txCount : Tab Nat := []
  deriving DecidableEq, Repr

/-- A fault record (14 Table 14.4). -/
structure FRec where
  unit : BitVec 8
  outcome : Nat
  cal : Nat
  ctx : Nat
  loc : Word
  detail : Word
  deriving DecidableEq, Repr

/-- Fault log and report bookkeeping (14 R423, R430). -/
structure Flt where
  /-- Log entries, oldest first: location key and record. -/
  log : List (List Nat × FRec) := []
  /-- The 64 latest fault records with their COUNT, oldest first (Table 14.7). -/
  recs : List (FRec × Nat) := []
  /-- Faults not posted and clock of the last post, by unit and location. -/
  held : List ((BitVec 8 × Word) × (Nat × Nat)) := []
  /-- Clock at the end of the last block reset (14 R429). -/
  blockEnd : Option Nat := none
  deriving DecidableEq, Repr

/-- Ashfall dump area (14 R435 to R437). -/
structure Dump where
  mem : Mem := []
  held : Bool := false
  /-- DUMP_SET destination. -/
  set : Bool := false
  reg : BitVec 16 := 0
  ofs : Nat := 0
  deriving DecidableEq, Repr

/-- A running escalation step (14 R432): level 1 to 5, its target (context, Caldera or partition), its trigger code
of Table 14.8, the mailboxes that wait for it, and whether a block reset has made its wipe. -/
structure LStep where
  level : Nat
  target : Nat
  trigger : Nat
  mbs : List Nat
  wiped : Bool := false
  deriving DecidableEq, Repr

/-- Life cycle, power and debug (15). -/
structure Life where
  phase : Phase := .held
  /-- Life-cycle state in force, as sampled in phase 3. -/
  lc : BitVec 3 := 0
  /-- CRP_LC_STATE and CRP_LC_VALID. -/
  lcIn : BitVec 3 := 0
  lcValid : Bool := false
  level : Level := .closed
  nonce : BitVec 384 := 0
  /-- LEVEL the nonce was issued for; 0 when no nonce is valid. -/
  nonceFor : Nat := 0
  pstate : PState := .active
  pwrSafe : Bool := false
  lcReq : BitVec 3 := 0
  lcReqValid : Bool := false
  /-- Acknowledged request, until CRP_LC_STATE changes to it. -/
  lcAcked : Bool := false
  /-- A secure wipe is due, with the level it comes up at (none: the default of the state sampled). -/
  wipe : Option (Option Level) := none
  /-- The wipe due ends in OFF (POWER_STATE OFF). -/
  wipeOff : Bool := false
  /-- The level takes the default of Table 15.6 at the next life-cycle phase. -/
  levelDefault : Bool := true
  /-- The reset running is a wake from RETAIN. -/
  waking : Bool := false
  /-- Debug segment instruction selected, its data register, and whether SCAN is selected. -/
  ir : BitVec 8 := 0xFF
  dr : BitVec 64 := 0
  scan : Bool := false
  /-- DBG_SEL and DBG_TRST_N, as the segment last saw them (Table 15.1). -/
  dbgSel : Bool := false
  trstN : Bool := false
  deriving DecidableEq, Repr

/-- Straps (10 R318, 13 R384, 15 R438). -/
structure Straps where
  stepEn : Bool := false
  jumpSel : Nat := 0
  peerId : Fin 64 := 0
  cluster : BitVec 16 := 0
  etype : Bool := false
  fwBase : BitVec 48 := 0
  fwMinVer : BitVec 16 := 0
  fwKeyHash : BitVec 384 := 0
  deviceId : BitVec 128 := 0
  deriving DecidableEq, Repr

/-- The block. -/
structure State where
  /-- Commands waiting, first in first out (the model's own). -/
  pending : List Instr := []
  cp : Cp := {}
  tb : TimeBase := {}
  /-- The block's own clock, twelfths of a nanosecond since reset (00 R9). -/
  clk : Nat := 0
  straps : Straps := {}
  mbs : Tab Mailbox := []
  mbOrder : List Nat := []
  parts : Tab Part := []
  chans : Tab Chan := []
  regions : Tab Region := []
  images : Tab Image := []
  tables : Tab Table := []
  gsets : Tab GSet := []
  slots : Tab Slot := []
  sinter : Mem := []
  ctxs : Tab Ctx := []
  cals : Tab Cal := []
  sems : Tab Sem := []
  vs : Tab (List Xfer) := []
  /-- Pointer of the arbiter of each VS engine's queue (11 Table 11.1). -/
  vsPtr : Tab Nat := []
  /-- Pointer of the arbiter of the Tephra cache's read port (11 Table 11.1). -/
  tephraPtr : Nat := 0
  /-- Pointer of each quadrant's outbound cross-quadrant port, and the clock at which it is free again (11 R342,
  R347). -/
  xqPtr : Tab Nat := []
  xqFree : Tab Nat := []
  /-- CP memory beside the dump area and the slot table: the firmware image as fetched, and the rest (00 Table 00.4, 15
  R440, R445). -/
  cpMem : Mem := []
  /-- Words of cache ways and of the line table that hold nothing now, as a debugger has written them, by store, unit
  and word (15 R456). -/
  spare : Tab (BitVec 64) := []
  l2 : List CLine := []
  /-- Retired ways of the second level, by set: one entry for each way. -/
  l2Retired : List Nat := []
  /-- Tephra sectors, most recent first: table, generation, row, sector, and data (08 R288). -/
  tephra : List ((Nat × Nat × Nat × Nat) × List Byte) := []
  /-- Retired Tephra ways, by set: one entry for each way. -/
  tephraRetired : List Nat := []
  items : List Item := []
  posts : List Post := []
  exports : List Export := []
  arrivals : List Arrival := []
  jobs : List Job := []
  reqs : List Req := []
  mem : Tab MemCh := []
  host : HostPort := {}
  light : Light := {}
  imem : Mem := []
  hmem : Mem := []
  flt : Flt := {}
  dump : Dump := {}
  ladder : List LStep := []
  life : Life := {}
  /-- CRP_PWRCYC_REQ_N is asserted (16 R473). -/
  pwrcyc : Bool := false
  /-- Identifiers given to transfers, lookups, peers' requests and bus-path operations (the model's own). -/
  nid : Nat := 0
  /-- Free values drawn (the model's own, log entry 3). -/
  draws : Nat := 0
  deriving DecidableEq, Repr

/-- The block in power-on reset: CRP_POR_N held, every store wiped (15 R440, R445), every field at its Reset value.
Mailbox 0 reads OWNER 0xF (09 Table 09.8). -/
def State.reset : State := { mbs := [(0, { owner := 0xF })] }

end Sys2Proof.Machine
end

