-- ==== Sys2Proof/Machine/Bits.lean ====
section
/-! DEFINITION. Fields of words, bytes in little-endian order, sparse tables, and the CRC the block uses. -/

namespace Sys2Proof.Machine

/-- Bits hi..lo of a number. -/
def bits (w hi lo : Nat) : Nat := w / 2 ^ lo % 2 ^ (hi + 1 - lo)

/-- Bit n of a number. -/
def bit (w n : Nat) : Bool := w / 2 ^ n % 2 == 1

/-- Two's complement reading of an n-bit number. -/
def signed (n w : Nat) : Int :=
  if w % 2 ^ n < 2 ^ (n - 1) then (w % 2 ^ n : Nat) else (w % 2 ^ n : Nat) - (2 ^ n : Nat)

/-- An integer in n bits, two's complement. -/
def unsigned (n : Nat) (v : Int) : Nat := (v % ((2 ^ n : Nat) : Int)).toNat

/-- 1 for true. -/
def b2n (b : Bool) : Nat := if b then 1 else 0

/-- Number of one bits among the low n bits of w. -/
def popcount (n w : Nat) : Nat := ((List.range n).filter (bit w)).length

/-- Little-endian bytes of w (00 R3). -/
def leBytes (n w : Nat) : List Byte := (List.range n).map fun i => BitVec.ofNat 8 (w / 256 ^ i)

/-- The number little-endian bytes hold. -/
def ofLe : List Byte → Nat
  | [] => 0
  | b :: r => b.toNat + 256 * ofLe r

/-- Entry of a table under a key, d where none is listed. -/
def tget {α : Type} (d : α) (k : Nat) : Tab α → α
  | [] => d
  | (k', v) :: r => if k' = k then v else tget d k r

/-- Set an entry, keeping the keys rising and leaving out an entry equal to d. -/
def tput {α : Type} [DecidableEq α] (d : α) (k : Nat) (v : α) : Tab α → Tab α
  | [] => if v = d then [] else [(k, v)]
  | (k', v') :: r =>
    if k < k' then (if v = d then (k', v') :: r else (k, v) :: (k', v') :: r)
    else if k = k' then (if v = d then r else (k, v) :: r)
    else (k', v') :: tput d k v r

/-- Canonical form: keys strictly rising, no entry equal to d. -/
def twf {α : Type} [DecidableEq α] (d : α) : Tab α → Bool
  | [] => true
  | (k, v) :: r => v ≠ d && r.all (fun e => decide (k < e.1)) && twf d r

/-- The canonical form of a byte memory. -/
def memWf (m : Mem) : Bool := twf 0 m

/-- Byte a of a memory. -/
def loadByte (m : Mem) (a : Nat) : Byte := tget 0 a m

/-- Write byte a. -/
def storeByte (m : Mem) (a : Nat) (b : Byte) : Mem := tput 0 a b m

/-- n bytes from a. -/
def loadBytes (m : Mem) (a n : Nat) : List Byte := (List.range n).map fun i => loadByte m (a + i)

/-- Write bytes from a on. -/
def storeBytes (m : Mem) (a : Nat) : List Byte → Mem
  | [] => m
  | b :: r => storeBytes (storeByte m a b) (a + 1) r

/-- The little-endian number of n bytes from a. -/
def load (m : Mem) (a n : Nat) : Nat := ofLe (loadBytes m a n)

/-- Write a number as n little-endian bytes from a. -/
def store (m : Mem) (a n w : Nat) : Mem := storeBytes m a (leBytes n w)

/-- The bytes of [a, a + n) become 0. -/
def clearRange (m : Mem) (a n : Nat) : Mem := m.filter fun e => e.1 < a || a + n ≤ e.1

/-- The bytes of [a, a + n), moved to start at 0. -/
def slice (m : Mem) (a n : Nat) : Mem :=
  (m.filter fun e => a ≤ e.1 && e.1 < a + n).map fun e => (e.1 - a, e.2)

/-- Entries of m moved up by a. -/
def shiftUp (m : Mem) (a : Nat) : Mem := m.map fun e => (e.1 + a, e.2)

/-- Every key with its entry, for a table whose entries a function changes. -/
def tmap {α : Type} [DecidableEq α] (d : α) (f : Nat → α → α) (t : Tab α) : Tab α :=
  t.foldl (fun acc e => tput d e.1 (f e.1 e.2) acc) []

/-- First index at which a list holds a value that meets p. -/
def findIdx? {α : Type} (p : α → Bool) : List α → Option Nat
  | [] => none
  | a :: r => if p a then some 0 else (findIdx? p r).map (· + 1)

/-- Change the first element that meets p. -/
def updFirst {α : Type} (p : α → Bool) (f : α → α) : List α → List α
  | [] => []
  | a :: r => if p a then f a :: r else a :: updFirst p f r

/-- Remove the first element that meets p. -/
def delFirst {α : Type} (p : α → Bool) : List α → List α
  | [] => []
  | a :: r => if p a then r else a :: delFirst p r

/-- One bit of the reflected CRC-32C register (00 R8). -/
def crcBit (c : Nat) : Nat := Nat.xor (c / 2) (0x82F63B78 * (c % 2))

/-- One byte through the CRC register. -/
def crcByte (c : Nat) (b : Byte) : Nat := (List.range 8).foldl (fun c _ => crcBit c) (Nat.xor c b.toNat)

/-- CRC-32C (00 R8). -/
def crc32c (bs : List Byte) : Nat := Nat.xor (bs.foldl crcByte 0xFFFFFFFF) 0xFFFFFFFF

end Sys2Proof.Machine
end

