-- ==== Sys2Proof/Machine/Crypto.lean ====
section
/-! DEFINITION. The SHA-384 digest and the ECDSA P-384 signature check that the firmware image, LC_ADVANCE and DEBUG_UNLOCK
are verified by (15_lifecycle_power_debug.md R444, R455). The spec names the two functions and gives no text of them: the
model takes them from FIPS 180-4 and FIPS 186-4 (PRESUMED, log entry 10). -/

namespace Sys2Proof.Machine

/-! ### SHA-384 -/

/-- Big-endian number of a byte string. -/
def ofBe (bs : List Byte) : Nat := bs.foldl (fun n b => 256 * n + b.toNat) 0

/-- The n bytes of a number, big-endian. -/
def beBytes (n v : Nat) : List Byte := (leBytes n v).reverse

/-- Round constants: the first 64 bits of the fractional parts of the cube roots of the first 80 primes. -/
def shaK : List (BitVec 64) :=
    [0x428a2f98d728ae22, 0x7137449123ef65cd, 0xb5c0fbcfec4d3b2f, 0xe9b5dba58189dbbc] ++
    [0x3956c25bf348b538, 0x59f111f1b605d019, 0x923f82a4af194f9b, 0xab1c5ed5da6d8118] ++
    [0xd807aa98a3030242, 0x12835b0145706fbe, 0x243185be4ee4b28c, 0x550c7dc3d5ffb4e2] ++
    [0x72be5d74f27b896f, 0x80deb1fe3b1696b1, 0x9bdc06a725c71235, 0xc19bf174cf692694] ++
    [0xe49b69c19ef14ad2, 0xefbe4786384f25e3, 0x0fc19dc68b8cd5b5, 0x240ca1cc77ac9c65] ++
    [0x2de92c6f592b0275, 0x4a7484aa6ea6e483, 0x5cb0a9dcbd41fbd4, 0x76f988da831153b5] ++
    [0x983e5152ee66dfab, 0xa831c66d2db43210, 0xb00327c898fb213f, 0xbf597fc7beef0ee4] ++
    [0xc6e00bf33da88fc2, 0xd5a79147930aa725, 0x06ca6351e003826f, 0x142929670a0e6e70] ++
    [0x27b70a8546d22ffc, 0x2e1b21385c26c926, 0x4d2c6dfc5ac42aed, 0x53380d139d95b3df] ++
    [0x650a73548baf63de, 0x766a0abb3c77b2a8, 0x81c2c92e47edaee6, 0x92722c851482353b] ++
    [0xa2bfe8a14cf10364, 0xa81a664bbc423001, 0xc24b8b70d0f89791, 0xc76c51a30654be30] ++
    [0xd192e819d6ef5218, 0xd69906245565a910, 0xf40e35855771202a, 0x106aa07032bbd1b8] ++
    [0x19a4c116b8d2d0c8, 0x1e376c085141ab53, 0x2748774cdf8eeb99, 0x34b0bcb5e19b48a8] ++
    [0x391c0cb3c5c95a63, 0x4ed8aa4ae3418acb, 0x5b9cca4f7763e373, 0x682e6ff3d6b2b8a3] ++
    [0x748f82ee5defb2fc, 0x78a5636f43172f60, 0x84c87814a1f0ab72, 0x8cc702081a6439ec] ++
    [0x90befffa23631e28, 0xa4506cebde82bde9, 0xbef9a3f7b2c67915, 0xc67178f2e372532b] ++
    [0xca273eceea26619c, 0xd186b8c721c0c207, 0xeada7dd6cde0eb1e, 0xf57d4f7fee6ed178] ++
    [0x06f067aa72176fba, 0x0a637dc5a2c898a6, 0x113f9804bef90dae, 0x1b710b35131c471b] ++
    [0x28db77f523047d84, 0x32caab7b40c72493, 0x3c9ebe0a15c9bebc, 0x431d67c49c100d4c] ++
    [0x4cc5d4becb3e42b6, 0x597f299cfc657e2a, 0x5fcb6fab3ad6faec, 0x6c44198c4a475817]

/-- Initial hash value: the first 64 bits of the fractional parts of the square roots of the 9th to 16th primes. -/
def shaInit : List (BitVec 64) :=
  [0xcbbb9d5dc1059ed8, 0x629a292a367cd507, 0x9159015a3070dd17, 0x152fecd8f70e5939,
   0x67332667ffc00b31, 0x8eb44a8768581511, 0xdb0c2e0d64f98fa7, 0x47b5481dbefa4fa4]

/-- The padded message. -/
def shaPad (m : List Byte) : List Byte :=
  m ++ [0x80#8] ++ List.replicate ((111 + 128 - m.length % 128) % 128) 0#8 ++ beBytes 16 (8 * m.length)

/-- Working variables of a block: the eight of the hash, and the next sixteen words of the message schedule. -/
structure ShaSt where
  v : List (BitVec 64)
  w : List (BitVec 64)

/-- One round. -/
def shaRound (s : ShaSt) (k : BitVec 64) : ShaSt :=
  let v := fun n => s.v.getD n 0
  let w := fun n => s.w.getD n 0
  let r := fun (x : BitVec 64) n => x.rotateRight n
  let t1 := v 7 + (r (v 4) 14 ^^^ r (v 4) 18 ^^^ r (v 4) 41) + ((v 4 &&& v 5) ^^^ (~~~(v 4) &&& v 6)) + k + w 0
  let t2 := (r (v 0) 28 ^^^ r (v 0) 34 ^^^ r (v 0) 39) + ((v 0 &&& v 1) ^^^ (v 0 &&& v 2) ^^^ (v 1 &&& v 2))
  let s0 := r (w 1) 1 ^^^ r (w 1) 8 ^^^ (w 1 >>> 7)
  let s1 := r (w 14) 19 ^^^ r (w 14) 61 ^^^ (w 14 >>> 6)
  { v := [t1 + t2, v 0, v 1, v 2, v 3 + t1, v 4, v 5, v 6], w := s.w.drop 1 ++ [s1 + w 9 + s0 + w 0] }

/-- The hash after one block of 128 bytes. -/
def shaBlock (h : List (BitVec 64)) (b : List Byte) : List (BitVec 64) :=
  let w := (List.range 16).map fun n => BitVec.ofNat 64 (ofBe ((b.drop (8 * n)).take 8))
  let s := shaK.foldl shaRound { v := h, w := w }
  (h.zip s.v).map fun p => p.1 + p.2

/-- The hash after n more blocks of a padded message. -/
def shaBlocks : Nat → List (BitVec 64) → List Byte → List (BitVec 64)
  | 0, h, _ => h
  | n + 1, h, m => shaBlocks n (shaBlock h (m.take 128)) (m.drop 128)

/-- SHA-384 digest of a byte string, 48 bytes. -/
def sha384 (m : List Byte) : List Byte :=
  let q := shaPad m
  ((shaBlocks (q.length / 128) shaInit q).take 6).flatMap fun x => beBytes 8 x.toNat

/-! ### P-384 -/

/-- The field's prime, the curve's b, the group's order, and the base point. -/
def p384P : Nat := 2 ^ 384 - 2 ^ 128 - 2 ^ 96 + 2 ^ 32 - 1
def p384B : Nat := 0xb3312fa7e23ee7e4988e056be3f82d19181d9c6efe8141120314088f5013875ac656398d8a2ed19d2a85c8edd3ec2aef
def p384N : Nat := 0xffffffffffffffffffffffffffffffffffffffffffffffffc7634d81f4372ddf581a0db248b0a77aecec196accc52973
def p384G : Nat × Nat :=
  (0xaa87ca22be8b05378eb1c71ef320ad746e1d3b628ba79b9859f741e082542a385502f25dbf55296c3a545e3872760ab7,
   0x3617de4a96262c6f5d9e98bf9292dc29f8f41dbd289a147ce9da3113b5f0b8c00a60b1ce1d7e819d7a431d7c90ea0e5f)

/-- b to the power e modulo m, with e below 2^n. -/
def powMod (m : Nat) : Nat → Nat → Nat → Nat
  | 0, _, _ => 1 % m
  | n + 1, b, e => (if e % 2 = 1 then b else 1) * powMod m n (b * b % m) (e / 2) % m

/-- Inverse of x modulo a prime of 384 bits. -/
def invMod (m x : Nat) : Nat := powMod m 384 (x % m) (m - 2)

/-- A point of the curve; none is the point at infinity. -/
abbrev EcPoint := Option (Nat × Nat)

/-- The line of slope l through the point at x1, y1 meets the curve again at x2: the sum. -/
def ecChord (l x1 y1 x2 : Nat) : Nat × Nat :=
  let x := (l * l + 2 * p384P - x1 - x2) % p384P
  (x, (l * (x1 + p384P - x) + p384P - y1) % p384P)

/-- Sum of two points. -/
def ecAdd : EcPoint → EcPoint → EcPoint
  | none, q => q
  | p, none => p
  | some (x1, y1), some (x2, y2) =>
    if x1 = x2 then
      if (y1 + y2) % p384P = 0 then none
      else some (ecChord ((3 * x1 * x1 + p384P - 3) * invMod p384P (2 * y1) % p384P) x1 y1 x2)
    else some (ecChord ((y2 + p384P - y1) * invMod p384P (x2 + p384P - x1) % p384P) x1 y1 x2)

/-- k times a point, with k below 2^n. -/
def ecMul : Nat → Nat → EcPoint → EcPoint
  | 0, _, _ => none
  | n + 1, k, q => ecAdd (if k % 2 = 1 then q else none) (ecMul n (k / 2) (ecAdd q q))

/-- The point lies on the curve. -/
def onCurve (q : Nat × Nat) : Bool :=
  decide (q.1 < p384P) && decide (q.2 < p384P)
    && decide ((q.2 * q.2 + 3 * q.1) % p384P = (q.1 * q.1 * q.1 + p384B) % p384P)

/-- An ECDSA P-384 signature over the SHA-384 digest of a message verifies: key x and y, signature r and s, 48 bytes
each, big-endian (R443, R455). -/
def ecdsaOk (key msg sig : List Byte) : Bool :=
  let q := (ofBe (key.take 48), ofBe (key.drop 48))
  let r := ofBe (sig.take 48)
  let s := ofBe (sig.drop 48)
  let w := invMod p384N s
  let e := ofBe (sha384 msg)
  onCurve q && decide (0 < r) && decide (r < p384N) && decide (0 < s) && decide (s < p384N) &&
    match ecAdd (ecMul 384 (e * w % p384N) (some p384G)) (ecMul 384 (r * w % p384N) (some q)) with
    | none => false
    | some v => decide (v.1 % p384N = r)

end Sys2Proof.Machine
end

