-- ==== Sys2Proof/Machine/Float.lean ====
section
/-! DEFINITION. Number formats, rounding, the two additions of the accumulators, conversions (03_arithmetic.md). -/

namespace Sys2Proof.Machine

/-- Arithmetic flags of Table 03.6: bit 0 OVF, 1 INVALID, 2 UFLOW, 3 EINF, 4 SAT. -/
abbrev Fl := BitVec 5

/-- Rounding modes (R120); SR carries the number its lane draws (06 R185). -/
inductive Rm where
  | rne | rtz | sr (v : Nat)
  deriving DecidableEq, Repr

/-- A binary format: fraction bits, exponent bias, largest finite value as mant × 2^ex, and bits in all. -/
structure Fm where
  frac : Nat
  bias : Nat
  mant : Nat
  ex : Int
  width : Nat
  deriving DecidableEq, Repr

def fmF32 : Fm := ⟨23, 127, 2 ^ 24 - 1, 104, 32⟩
def fmBf16 : Fm := ⟨7, 127, 2 ^ 8 - 1, 120, 16⟩
def fmF16 : Fm := ⟨10, 15, 2 ^ 11 - 1, 5, 16⟩
def fmE5m2 : Fm := ⟨2, 15, 7, 13, 8⟩
def fmE4m3 : Fm := ⟨3, 7, 14, 5, 8⟩
def fmE2m1 : Fm := ⟨1, 1, 3, 1, 4⟩

/-- +0. -/
def fZero : Fv := .fin false 0 0

/-- The value of an integer times 2^e. -/
def fOfInt (a e : Int) : Fv := .fin (decide (a < 0)) a.natAbs e

def fIsNan : Fv → Bool
  | .nan => true
  | _ => false

def fIsFin : Fv → Bool
  | .fin _ _ _ => true
  | _ => false

def fIsInf : Fv → Bool
  | .inf _ => true
  | _ => false

def fIsZero : Fv → Bool
  | .fin _ m _ => m == 0
  | _ => false

def fSign : Fv → Bool
  | .nan => false
  | .inf s => s
  | .fin s _ _ => s

/-- Exact negation; NaN stays NaN. -/
def fNeg : Fv → Fv
  | .nan => .nan
  | .inf s => .inf (!s)
  | .fin s m e => .fin (!s) m e

/-- Absolute value. -/
def fAbs : Fv → Fv
  | .nan => .nan
  | .inf _ => .inf false
  | .fin _ m e => .fin false m e

/-- Signed significand of a finite value at exponent g, g at most the value's own. -/
def fAt (s : Bool) (m : Nat) (e g : Int) : Int :=
  let a : Int := (m * 2 ^ (e - g).toNat : Nat)
  if s then -a else a

/-- Exact sum; a zero sum of opposite signs is +0 (R109). -/
def fAdd : Fv → Fv → Fv
  | .nan, _ => .nan
  | _, .nan => .nan
  | .inf s, .inf t => if s = t then .inf s else .nan
  | .inf s, _ => .inf s
  | _, .inf t => .inf t
  | .fin s m e, .fin t n f =>
    let g := min e f
    let a := fAt s m e g + fAt t n f g
    if a = 0 then .fin (s && t) 0 0 else fOfInt a g

/-- Exact difference. -/
def fSub (a b : Fv) : Fv := fAdd a (fNeg b)

/-- Exact product; zero times infinity is NaN. -/
def fMul : Fv → Fv → Fv
  | .nan, _ => .nan
  | _, .nan => .nan
  | .inf s, .inf t => .inf (xor s t)
  | .inf s, .fin t n _ => if n = 0 then .nan else .inf (xor s t)
  | .fin s m _, .inf t => if m = 0 then .nan else .inf (xor s t)
  | .fin s m e, .fin t n f => .fin (xor s t) (m * n) (e + f)

/-- a < b; false when either is NaN. -/
def fLt : Fv → Fv → Bool
  | .nan, _ => false
  | _, .nan => false
  | .inf s, .inf t => s && !t
  | .inf s, .fin _ _ _ => s
  | .fin _ _ _, .inf t => !t
  | .fin s m e, .fin t n f => let g := min e f; decide (fAt s m e g < fAt t n f g)

/-- a = b as numbers. -/
def fEq (a b : Fv) : Bool := !fIsNan a && !fIsNan b && !fLt a b && !fLt b a

/-- a ≤ b. -/
def fLe (a b : Fv) : Bool := fLt a b || fEq a b

/-- Smaller of two values; MIN(−0, +0) = −0 (06 Table 06.1). -/
def fMin (a b : Fv) : Fv :=
  if fIsNan a || fIsNan b then .nan else if fLt a b then a else if fLt b a then b else if fSign a then a else b

/-- Larger of two values; MAX(−0, +0) = +0. -/
def fMax (a b : Fv) : Fv :=
  if fIsNan a || fIsNan b then .nan else if fLt b a then a else if fLt a b then b else if fSign a then b else a

/-- floor(log2) of m × 2^e, m not 0. -/
def fLog2 (m : Nat) (e : Int) : Int := (Nat.log2 m : Int) + e

/-- Exact multiple of 2^e: v × 2^k. -/
def fScale (v : Fv) (k : Int) : Fv :=
  match v with
  | .fin s m e => .fin s m (e + k)
  | w => w

/-- m × 2^e as a whole number of 2^q, rounded (R120, 06 R185). -/
def roundAt (rm : Rm) (m : Nat) (e q : Int) : Nat :=
  if q ≤ e then m * 2 ^ (e - q).toNat
  else
    let d := 2 ^ (q - e).toNat
    let a := m / d
    let r := m % d
    match rm with
    | .rne => if d < 2 * r || (2 * r = d && a % 2 = 1) then a + 1 else a
    | .rtz => a
    | .sr v => if v < 2 ^ 32 * r / d then a + 1 else a

/-- Exponent of the last place of m × 2^e on a format's grid, extended by the subnormal grid. -/
def gridExp (f : Fm) (m : Nat) (e : Int) : Int := max (fLog2 m e) (1 - f.bias) - f.frac

/-- Magnitude n × 2^q exceeds the largest finite value. -/
def overflows (f : Fm) (n : Nat) (q : Int) : Bool := fLt (.fin false f.mant f.ex) (.fin false n q)

/-- Encoding of a magnitude n × 2^q on the grid, at most the largest finite; a subnormal flushes to 0 (R108). -/
def encMag (f : Fm) (n : Nat) (q : Int) : Nat :=
  if n = 0 then 0
  else
    let l := fLog2 n q
    if l < 1 - f.bias then 0
    else (l + f.bias).toNat * 2 ^ f.frac + (n * 2 ^ f.frac / 2 ^ Nat.log2 n - 2 ^ f.frac)

/-- Sign bit of a format. -/
def signBit (f : Fm) (s : Bool) : Nat := if s then 2 ^ (f.width - 1) else 0

/-- Pattern of an infinity in a format that has one. -/
def infCode (f : Fm) (s : Bool) : Nat := signBit f s + (2 ^ (f.width - 1 - f.frac) - 1) * 2 ^ f.frac

/-- Canonical NaN of a format that has infinities (Table 03.1). -/
def nanCode (f : Fm) : Nat := infCode f false + 2 ^ (f.frac - 1)

/-- Largest finite value's pattern. -/
def maxCode (f : Fm) (s : Bool) : Nat := signBit f s + encMag f f.mant f.ex

/-- FP32 pattern of a value rounded to nearest even, with overflow and flush (R113). -/
def rn32 : Fv → Word
  | .nan => 0x7FC00000
  | .inf s => if s then 0xFF800000 else 0x7F800000
  | .fin s m e =>
    let q := gridExp fmF32 m e
    let n := roundAt .rne m e q
    if m = 0 then BitVec.ofNat 32 (signBit fmF32 s)
    else if overflows fmF32 n q then (if s then 0xFF800000 else 0x7F800000)
    else BitVec.ofNat 32 (signBit fmF32 s + encMag fmF32 n q)

/-- Value of an encoding of a format with infinities; subnormals read as zero (R103, R107). -/
def decIeee (f : Fm) (w : Nat) : Fv :=
  let s := bit w (f.width - 1)
  let e := bits w (f.width - 2) f.frac
  let m := w % 2 ^ f.frac
  if e = 2 ^ (f.width - 1 - f.frac) - 1 then (if m = 0 then .inf s else .nan)
  else if e = 0 then .fin s 0 0
  else .fin s (2 ^ f.frac + m) ((e : Int) - f.bias - f.frac)

/-- Value of an encoding of a format without infinities or NaN codes. -/
def decPlain (f : Fm) (w : Nat) : Fv :=
  let s := bit w (f.width - 1)
  let e := bits w (f.width - 2) f.frac
  if e = 0 then .fin s 0 0 else .fin s (2 ^ f.frac + w % 2 ^ f.frac) ((e : Int) - f.bias - f.frac)

/-- Value of an FP32 word. -/
def f32 (w : Word) : Fv := decIeee fmF32 w.toNat

/-- Value rounded to FP32. -/
def rnv (v : Fv) : Fv := f32 (rn32 v)

/-- Value of an E8M0 scale; 0xFF is NaN. -/
def decE8m0 (w : Nat) : Fv := if w % 256 = 255 then .nan else .fin false 1 ((w % 256 : Nat) - 127)

/-- Value of an element of format code c of 07 Table 07.3, from its low bits; P64 has a head and a tail and is not
covered here. -/
def decFmt (c w : Nat) : Fv :=
  match c with
  | 0 => decIeee fmF32 (w % 2 ^ 32)
  | 1 => decIeee fmBf16 (w % 2 ^ 16)
  | 2 => decIeee fmF16 (w % 2 ^ 16)
  | 3 => decIeee fmE5m2 (w % 256)
  | 4 => if w % 128 = 127 then .nan else decPlain fmE4m3 (w % 256)
  | 5 => decPlain fmE2m1 (w % 16)
  | 6 => fOfInt (signed 8 w) 0
  | 7 => fOfInt ((w % 256 : Nat) : Int) 0
  | 8 => fOfInt (signed 4 w) 0
  | 9 => fOfInt ((w % 16 : Nat) : Int) 0
  | 10 => fOfInt (signed 32 w) 0
  | 12 => decE8m0 w
  | _ => fZero

/-- Bits of one element of a format code (07 Table 07.3); 0 for a reserved code. -/
def fmtBits (c : Nat) : Nat :=
  match c with
  | 0 => 32 | 1 => 16 | 2 => 16 | 3 => 8 | 4 => 8 | 5 => 4 | 6 => 8 | 7 => 8 | 8 => 4 | 9 => 4 | 10 => 32
  | 11 => 64 | 12 => 8 | _ => 0

def flOvf : Fl := 1
def flInvalid : Fl := 2
def flUflow : Fl := 4
def flEinf : Fl := 8
def flSat : Fl := 16

/-- Flags of a result written from inputs: OVF for an infinity of finite inputs, INVALID for a NaN of non-NaN
inputs, UFLOW for a zero of a non-zero exact value (Table 03.6, R113). -/
def flagsOf (ins : List Fv) (exact written : Fv) : Fl :=
  (if fIsInf written && ins.all fIsFin then flOvf else 0)
    ||| (if fIsNan written && !(ins.any fIsNan) then flInvalid else 0)
    ||| (if fIsZero written && fIsFin exact && !fIsZero exact then flUflow else 0)

/-- An FP32 operation's result and flags from its inputs and exact value. -/
def op32 (ins : List Fv) (exact : Fv) : Word × Fl := (rn32 exact, flagsOf ins exact (rnv exact))

/-- Rounded sum and exact remainder (R113). -/
def twoSum (a b : Fv) : Fv × Fv :=
  let s := rnv (fAdd a b)
  (s, fSub (fAdd a b) s)

/-- A P64 pair, head and tail. -/
abbrev Pair := Fv × Fv

/-- The silent flush of a tail, and the +0 tail of a zero or non-finite head (R105, R113). -/
def cleanTail (h t : Fv) : Pair :=
  if !fIsFin h || fIsZero h then (h, fZero)
  else match t with
    | .fin s m e => if m = 0 || fLog2 m e < -126 then (h, fZero) else (h, .fin s m e)
    | _ => (h, fZero)

/-- Compensated addition (R113). -/
def p64Add (a b : Pair) : Pair :=
  let h := rnv (fAdd a.1 b.1)
  if !fIsFin a.1 || !fIsFin b.1 || !fIsFin h then (h, fZero)
  else
    let se := twoSum a.1 b.1
    let e := rnv (fAdd (rnv (fAdd se.2 a.2)) b.2)
    let ht := twoSum se.1 e
    cleanTail ht.1 ht.2

/-- Normalisation of a pair that is not (R114). -/
def p64Norm (a : Pair) : Pair :=
  let st := twoSum a.1 a.2
  cleanTail st.1 st.2

/-- Exact value of a pair: the sum of its parts (R105). -/
def pairVal (a : Pair) : Fv := fAdd a.1 a.2

/-- The pair that a write of a P64 value leaves, and its flags (R105, R108): OVF, INVALID and UFLOW of its head. -/
def setPair (a : Pair) : Pair × Fl :=
  let r := p64Norm a
  (r, flagsOf [a.1, a.2] (pairVal a) r.1)

/-- A pair as stored: head in the low word (R74). -/
def decPair (w : Nat) : Pair := (decIeee fmF32 (w % 2 ^ 32), decIeee fmF32 (w / 2 ^ 32 % 2 ^ 32))

/-- The stored form of a pair. -/
def encPair (a : Pair) : Nat := (rn32 a.1).toNat + 2 ^ 32 * (rn32 a.2).toNat

/-- The pair of a value entering a P64 slot at promotion: (rn32 v, rn32 (v − rn32 v)) (R113). -/
def splitPair (v : Fv) : Pair :=
  if fIsFin v then
    let h := rnv v
    if fIsFin h then (h, rnv (fSub v h)) else (h, fZero)
  else (v, fZero)

/-- Promotion of a group value into an F32 slot (R113): the slot's new value and the flags. -/
def promote32 (slot v : Fv) : Fv × Fl :=
  let r := rnv (fAdd slot (rnv v))
  (r, flagsOf [slot, v] (fAdd slot v) r)

/-- Promotion of a group value into a P64 slot (R113). -/
def promote64 (slot : Pair) (v : Fv) : Pair × Fl :=
  let r := p64Add slot (splitPair v)
  (r, flagsOf [pairVal slot, v] (fAdd (pairVal slot) v) r.1)

/-- PRELOAD ADD and the atomic adds into P64 (R114): the stored operand a and the added b, each normalised. -/
def addPair (a b : Pair) : Pair × Fl :=
  let r := p64Add (p64Norm a) (p64Norm b)
  (r, flagsOf [pairVal a, pairVal b] (fAdd (pairVal a) (pairVal b)) r.1)

/-- PRELOAD ADD and the atomic adds into FP32 (R114). -/
def add32 (a b : Fv) : Fv × Fl :=
  let r := rnv (fAdd a b)
  (r, flagsOf [a, b] (fAdd a b) r)

/-- SCALE of an F32 slot (R115), after the zero-decay rule of 02 R86. -/
def scale32 (slot d : Fv) : Fv × Fl :=
  if fIsZero d then (fZero, 0)
  else
    let r := rnv (fMul slot d)
    (r, flagsOf [slot, d] (fMul slot d) r)

/-- SCALE of a P64 slot (R115, 02 R86). -/
def scale64 (slot : Pair) (d : Fv) : Pair × Fl :=
  if fIsZero d then ((fZero, fZero), 0)
  else
    let p := rnv (fMul slot.1 d)
    let r : Pair :=
      if !fIsFin p then (p, fZero)
      else
        let pe := fSub (fMul slot.1 d) p
        let e := rnv (fAdd pe (rnv (fMul slot.2 d)))
        let ht := twoSum p e
        cleanTail ht.1 ht.2
    (r, flagsOf [pairVal slot, d] (fMul (pairVal slot) d) r.1)

/-- Conversion into a format with infinities: FP32, BF16, FP16, E5M2 (Table 03.4). -/
def convIeee (f : Fm) (rm : Rm) (sat : Bool) : Fv → Nat × Fl
  | .nan => (nanCode f, 0)
  | .inf s => (infCode f s, 0)
  | .fin s m e =>
    if m = 0 then (signBit f s, 0)
    else
      let q := gridExp f m e
      let n := roundAt rm m e q
      if overflows f n q then ((if sat || rm = .rtz then maxCode f s else infCode f s), flOvf)
      else (signBit f s + encMag f n q, if encMag f n q = 0 then flUflow else 0)

/-- Conversion into E4M3 (Table 03.4). -/
def convE4m3 (rm : Rm) (sat : Bool) : Fv → Nat × Fl
  | .nan => (0x7F, 0)
  | .inf s => (signBit fmE4m3 s + 0x7F, flEinf)
  | .fin s m e =>
    if m = 0 then (signBit fmE4m3 s, 0)
    else
      let q := gridExp fmE4m3 m e
      let n := roundAt rm m e q
      if overflows fmE4m3 n q then
        (if sat then (maxCode fmE4m3 s, flOvf) else (signBit fmE4m3 s + 0x7F, flOvf ||| flEinf))
      else (signBit fmE4m3 s + encMag fmE4m3 n q, if encMag fmE4m3 n q = 0 then flUflow else 0)

/-- Conversion into E2M1 (Table 03.4). -/
def convE2m1 (rm : Rm) : Fv → Nat × Fl
  | .nan => (0, flSat)
  | .inf s => (maxCode fmE2m1 s, flSat)
  | .fin s m e =>
    if m = 0 then (signBit fmE2m1 s, 0)
    else
      let q := gridExp fmE2m1 m e
      let n := roundAt rm m e q
      if overflows fmE2m1 n q then (maxCode fmE2m1 s, flSat)
      else (signBit fmE2m1 s + encMag fmE2m1 n q, if encMag fmE2m1 n q = 0 then flUflow else 0)

/-- Conversion into an integer of the given range and width (Table 03.4, 06 Table 06.2). -/
def convInt (lo hi : Int) (width : Nat) (rm : Rm) : Fv → Nat × Fl
  | .nan => (0, flSat)
  | .inf s => (unsigned width (if s then lo else hi), flSat)
  | .fin s m e =>
    let n : Int := roundAt rm m e 0
    let v := if s then -n else n
    if v < lo then (unsigned width lo, flSat)
    else if hi < v then (unsigned width hi, flSat)
    else (unsigned width v, 0)

/-- Conversion of an exact value into format code c, bits and flags (R120). -/
def convFmt (c : Nat) (rm : Rm) (sat : Bool) (v : Fv) : Nat × Fl :=
  match c with
  | 0 => convIeee fmF32 rm sat v
  | 1 => convIeee fmBf16 rm sat v
  | 2 => convIeee fmF16 rm sat v
  | 3 => convIeee fmE5m2 rm sat v
  | 4 => convE4m3 rm sat v
  | 5 => convE2m1 rm v
  | 6 => convInt (-128) 127 8 rm v
  | 7 => convInt 0 255 8 rm v
  | 8 => convInt (-8) 7 4 rm v
  | 9 => convInt 0 15 4 rm v
  | 10 => convInt (-(2 ^ 31)) (2 ^ 31 - 1) 32 rm v
  | _ => (0, 0)

/-- Scale of a group of values for a format of largest exponent emax (R121): the E8M0 field. -/
def groupScale (emax : Int) (vs : List Fv) : Nat :=
  let m := vs.foldl (fun a v => if fIsFin v && fLt a (fAbs v) then fAbs v else a) fZero
  match m with
  | .fin _ n e => if n = 0 then 0x7F else (max 0 (min 254 (fLog2 n e - emax + 127))).toNat
  | _ => 0x7F

end Sys2Proof.Machine
end

