-- ==== Sys2Proof/Machine/Ops.lean ====
section
/-! DEFINITION. Named operations over the state: one reader and one writer for each store, time, interrupts,
events, mailbox responses, regions, work items and halts. -/

namespace Sys2Proof.Machine

/-! ### Stores -/

def getCtx (s : State) (x : Nat) : Ctx := tget {} x s.ctxs
def setCtx (s : State) (x : Nat) (c : Ctx) : State := { s with ctxs := tput {} x c s.ctxs }
def updCtx (s : State) (x : Nat) (f : Ctx → Ctx) : State := setCtx s x (f (getCtx s x))

def getCal (s : State) (c : Nat) : Cal := tget {} c s.cals
def setCal (s : State) (c : Nat) (v : Cal) : State := { s with cals := tput {} c v s.cals }
def updCal (s : State) (c : Nat) (f : Cal → Cal) : State := setCal s c (f (getCal s c))

def getChan (s : State) (i : Nat) : Chan := tget {} i s.chans
def setChan (s : State) (i : Nat) (v : Chan) : State := { s with chans := tput {} i v s.chans }
def updChan (s : State) (i : Nat) (f : Chan → Chan) : State := setChan s i (f (getChan s i))

def getRegion (s : State) (i : Nat) : Region := tget {} i s.regions
def setRegion (s : State) (i : Nat) (v : Region) : State := { s with regions := tput {} i v s.regions }

def getImage (s : State) (i : Nat) : Image := tget {} i s.images
def setImage (s : State) (i : Nat) (v : Image) : State := { s with images := tput {} i v s.images }

def getTable (s : State) (i : Nat) : Table := tget {} i s.tables
def setTable (s : State) (i : Nat) (v : Table) : State := { s with tables := tput {} i v s.tables }

def getGset (s : State) (i : Nat) : GSet := tget {} i s.gsets
def setGset (s : State) (i : Nat) (v : GSet) : State := { s with gsets := tput {} i v s.gsets }

def getSlot (s : State) (i : Nat) : Slot := tget {} i s.slots
def setSlot (s : State) (i : Nat) (v : Slot) : State := { s with slots := tput {} i v s.slots }
def updSlot (s : State) (i : Nat) (f : Slot → Slot) : State := setSlot s i (f (getSlot s i))

def getSem (s : State) (k : Nat) : Sem := tget {} k s.sems
def setSem (s : State) (k : Nat) (v : Sem) : State := { s with sems := tput {} k v s.sems }
def updSem (s : State) (k : Nat) (f : Sem → Sem) : State := setSem s k (f (getSem s k))

def getPart (s : State) (p : Nat) : Part := tget {} p s.parts
def setPart (s : State) (p : Nat) (v : Part) : State := { s with parts := tput {} p v s.parts }
def updPart (s : State) (p : Nat) (f : Part → Part) : State := setPart s p (f (getPart s p))

def getMb (s : State) (m : Nat) : Mailbox := tget {} m s.mbs
def setMb (s : State) (m : Nat) (v : Mailbox) : State := { s with mbs := tput {} m v s.mbs }
def updMb (s : State) (m : Nat) (f : Mailbox → Mailbox) : State := setMb s m (f (getMb s m))

def getMemCh (s : State) (n : Nat) : MemCh := tget {} n s.mem
def setMemCh (s : State) (n : Nat) (v : MemCh) : State := { s with mem := tput {} n v s.mem }

def getPeer (s : State) (q : Nat) : Peer := tget {} q s.light.peers
def setPeer (s : State) (q : Nat) (v : Peer) : State :=
  { s with light := { s.light with peers := tput {} q v s.light.peers } }

/-! ### Time, interrupts and events -/

/-- TIME in ticks (10 R320, R321). -/
def timeNow (s : State) : Nat := s.tb.t12 / 12

/-- INT_STATUS bits (09 Table 09.7). -/
def intEvent : Word := 1
def intFault : Word := 2
def intFatal : Word := 4
def intMbox : Word := 8
def intCq : Word := 16

/-- Set bits of INT_STATUS. -/
def raiseInt (s : State) (w : Word) : State := { s with cp := { s.cp with intStatus := s.cp.intStatus ||| w } }

/-- Set bits of FATAL_STATUS, and FATAL in INT_STATUS (09 Tables 09.5 and 09.7). -/
def raiseFatal (s : State) (w : Word) : State :=
  raiseInt { s with cp := { s.cp with fatal := s.cp.fatal ||| w } } intFatal

/-- LAST_STEP of FATAL_STATUS (09 Table 09.5). -/
def setLastStep (s : State) (n : Nat) : State :=
  { s with cp := { s.cp with fatal := (s.cp.fatal &&& 0xFFFFF8FF) ||| BitVec.ofNat 32 (n * 256) } }

/-- Partitions that exist, in order. -/
def liveParts (s : State) : List Nat := (List.range 4).filter fun p => (getPart s p).exist

/-- Event ring and queue of a partition hold no room (09 R316, R309). -/
def evRingFull (q : Part) : Bool :=
  !q.ring || decide (2 ^ q.ringLog - 1 ≤ (q.eqProd - q.eqCons).toNat)

/-- Records the ring still has room for, none without a ring. -/
def evRoom (q : Part) : Nat := if q.ring then 2 ^ q.ringLog - 1 - (q.eqProd - q.eqCons).toNat else 0

/-- An event for one partition: queued, or lost when the queue of 256 and the ring are full (09 R316). The queue of the
model also holds the records the ring has room for and EVENT_POST has not moved yet. -/
def postEvent (s : State) (p : Nat) (code : BitVec 16) (payload : List Byte) : State :=
  let q := getPart s p
  if 256 + evRoom q ≤ q.queue.length then
    setPart s p { q with lost := min (q.lost + 1) 0xFFFFFFFF }
  else
    setPart s p { q with queue := q.queue ++ [{ code, lost := q.lost, time := timeNow s, payload }], lost := 0 }

/-- An event about the block goes to every partition (09 R316). -/
def postBlockEvent (s : State) (code : BitVec 16) (payload : List Byte) : State :=
  (liveParts s).foldl (fun s p => postEvent s p code payload) s

/-! ### Status codes (09 Table 09.13) -/

def stOk := 0x00
def stBadCommand := 0x01
def stReservedField := 0x02
def stBadField := 0x03
def stNotPermitted := 0x04
def stStaleHandle := 0x05
def stNoResource := 0x06
def stObjectBusy := 0x07
def stAuthFailed := 0x08
def stDuplicateStream := 0x10
def stStreamBusy := 0x11
def stStreamExported := 0x12
def stStreamFaulted := 0x13
def stNoSlot := 0x14
def stImportCorrupt := 0x15
def stRegionRange := 0x16
def stCancelled := 0x17
def stImageInvalid := 0x20
def stImageSpace := 0x21
def stImageIncompatible := 0x22
def stMicroprogFull := 0x23
def stImageChanged := 0x24
def stTableBusy := 0x28
def stAdmissionRefused := 0x30
def stGraphCycle := 0x31
def stHalted := 0x38
def stAborted := 0x39
def stFaulted := 0x3A
def stHostLost := 0x40

/-! ### Mailbox responses -/

/-- Byte field of a mailbox command: n bytes from a. -/
def par (s : State) (m a n : Nat) : Nat := load (getMb s m).cmd a n

/-- Write the response and set DONE (09 R297, Table 09.11): opcode and tag echoed, status, FIELD, results. -/
def respond (s : State) (m status field : Nat) (results : List (Nat × Nat × Nat)) : State :=
  let b := getMb s m
  let base := store (store (store (store [] 0 2 (load b.cmd 0 2)) 2 2 (load b.cmd 2 2)) 4 1 status) 6 2 field
  let rsp := results.foldl (fun r e => store r e.1 e.2.1 e.2.2) base
  raiseInt { setMb s m { b with st := .done, rsp := rsp, wait := .none } with
    mbOrder := s.mbOrder.filter (· ≠ m) } intMbox

/-- A command that waits for a later event: its mailbox stays BUSY and the firmware goes on (09 R298). -/
def waitOn (s : State) (m : Nat) (w : Wait) : State :=
  { setMb s m { getMb s m with wait := w } with mbOrder := s.mbOrder.filter (· ≠ m) }

/-- Answer every mailbox whose command waits for w. -/
def answerWait (s : State) (w : Wait) (status : Nat) (results : List (Nat × Nat × Nat)) : State :=
  (List.range 16).foldl (fun s m =>
    if (getMb s m).st = .busy ∧ (getMb s m).wait = w then respond s m status 0 results else s) s

/-! ### Handles, regions and external memory -/

/-- Next value of a generation counter of a width (01 R21, 09 R301): it skips 0. -/
def nextGen (width g : Nat) : Nat := if g + 1 = 2 ^ width then 1 else g + 1

/-- Handle of channel index i (09 Table 09.10). -/
def chanHandle (s : State) (i : Nat) : Nat := i + 256 * (getChan s i).gen

/-- Image handle of index i. -/
def imgHandle (s : State) (i : Nat) : BitVec 16 := BitVec.ofNat 16 (i + 64 * (getImage s i).gen)

/-- Index of an image handle. -/
def imgIdx (h : BitVec 16) : Nat := h.toNat % 64

/-- Image a handle names, whatever its state. -/
def imgOf (s : State) (h : BitVec 16) : Image := getImage s (imgIdx h)

/-- The handle names a live image (R301). -/
def imgLive (s : State) (h : BitVec 16) : Bool :=
  (imgOf s h).live && (imgOf s h).gen == h.toNat / 64

/-- Handle of stream slot i (01 Table 01.1). -/
def streamHandle (s : State) (i : Nat) : Word := BitVec.ofNat 32 (i + 4096 * (getSlot s i).gen.toNat)

/-- Slot of a stream handle. -/
def slotOf (h : Word) : Nat := h.toNat % 4096

/-- The handle passes the check of 01 R22. -/
def streamOk (s : State) (h : Word) : Bool :=
  (getSlot s (slotOf h)).st ≠ .free && (getSlot s (slotOf h)).gen.toNat == h.toNat / 4096 && h ≠ 0

/-- Region index of a handle. -/
def regIdx (h : BitVec 16) : Nat := h.toNat % 1024

/-- The handle names a live region of partition p (09 R301). -/
def regLive (s : State) (p : Nat) (h : BitVec 16) : Bool :=
  let r := getRegion s (regIdx h)
  r.live && r.gen == h.toNat / 1024 && r.part == p

/-- The live region's bytes [ofs, ofs + n) lie inside it. -/
def regFits (s : State) (h : BitVec 16) (ofs n : Nat) : Bool := decide (ofs + n ≤ (getRegion s (regIdx h)).size)

/-- The region a handle names is live, of the handle's generation, and valid (09 R301; 12 R382). -/
def regValid (s : State) (h : BitVec 16) : Bool :=
  let r := getRegion s (regIdx h)
  r.live && r.gen == h.toNat / 1024 && !r.invalid

/-- The host link takes requests or holds them: it is up, and no retrain has timed out (12 R380, Table 12.6). -/
def hostUp (s : State) : Bool := s.host.up && !s.host.expired

/-- External memory: integrator (false) or host (true). -/
def extMem (s : State) (host : Bool) : Mem := if host then s.hmem else s.imem

/-! ### Work items -/

/-- Executing item of a Caldera (11 R340). -/
def execItem (s : State) (c : Nat) : Option Item :=
  s.items.find? fun i => decide (i.place = .exec) && i.cal == c

/-- Staged item of a Caldera. -/
def stagedItem (s : State) (c : Nat) : Option Item :=
  s.items.find? fun i => decide (i.place = .staged) && i.cal == c

/-- An item stands in a dispatch window. -/
def inWindow (i : Item) : Bool := decide (i.place ≠ .queued)

/-- Executing item whose context is x. -/
def itemOf (s : State) (x : Nat) : Option Item :=
  s.items.find? fun i => decide (i.place = .exec) && i.ctx == x

/-- Item of a context, executing or staged. -/
def winItemOf (s : State) (x : Nat) : Option Item := s.items.find? fun i => inWindow i && i.ctx == x

/-- Same item: channel and sequence number (09 R311). -/
def sameItem (i j : Item) : Bool := i.ch == j.ch && i.seq == j.seq

/-- Put back a changed item. -/
def setItem (s : State) (i : Item) : State := { s with items := updFirst (sameItem i) (fun _ => i) s.items }

/-- First of the last n bytes of an item's scratchpad reservation. The spec does not say where in the reservation the
reset mask and the starting copies lie: the model puts the mask at its end and the copies before it (DESIGN CHOICE, log
entry 13). -/
def keepBase (i : Item) (n : Nat) : Nat := i.spadBase + (i.spadLen - n)

/-- Bytes of an item's reset mask (01 R49). -/
def maskBytes (i : Item) : Nat := if i.e.mask then 32 * i.e.steps else 0

/-- The item's copy of its reset mask, word p (01 R38, 09 R313). -/
def maskWord (s : State) (i : Item) (p : Nat) : BitVec 256 :=
  if i.e.mask then BitVec.ofNat 256 (load (getCal s i.cal).spad (keepBase i (maskBytes i) + 32 * p) 32) else 0

/-- Bytes of a memory put into an item's reservation at a; what would lie behind its end is not held. -/
def keepBytes (s : State) (i : Item) (a : Nat) (bs : List Byte) : State :=
  updCal s i.cal fun k => { k with spad := storeBytes k.spad a (bs.take (i.spadBase + i.spadLen - a)) }

/-! ### Halts -/

/-- Halt reasons of 07 Table 07.16. -/
def hReservedField := 0x01
def hBundleLength := 0x02
def hBadOpcode := 0x03
def hBadField := 0x04
def hBranchRange := 0x05
def hLoopDepth := 0x06
def hLoopRange := 0x07
def hLoopExit := 0x08
def hLoopBody := 0x09
def hCodeEnd := 0x0A
def hDescInvalid := 0x10
def hDescShape := 0x11
def hBounds := 0x12
def hIndexRange := 0x13
def hRegionFault := 0x14
def hOperandSpace := 0x15
def hOperandFormat := 0x16
def hFeederGrant := 0x20
def hDecayGrant := 0x21
def hKrunRange := 0x22
def hKrunAlign := 0x23
def hSlotRange := 0x24
def hSlotFormat := 0x25
def hStateExposed := 0x26
def hStateRange := 0x27
def hGradMap := 0x28
def hLaneRange := 0x30
def hSfuFunction := 0x31
def hArithTrap := 0x32
def hFetchError := 0x40
def hImageChanged := 0x41
def hWatchdog := 0x50
def hHaltRequest := 0x51
def hResetAbort := 0x52

/-- Image that the item of a context runs on. -/
def imgNow (s : State) (x : Nat) : BitVec 16 :=
  match winItemOf s x with
  | none => 0
  | some i => i.img

/-- Halt a context (07 R255, R256) for a bundle of an image: the record names the image, the bundle, the slot, the
reason and the detail. A context that is halted keeps its first record. The item it runs takes the record, and a halt
request that is pending goes with it (R257). -/
def haltFrom (s : State) (x : Nat) (img : BitVec 16) (ofs slot reason : Nat) (detail : Word) : State :=
  let c := getCtx s x
  if c.halted then s
  else
    match winItemOf s x with
    | none => s
    | some i =>
      let h : Halt := { ctx := x, img, ofs, slot, reason, detail }
      setItem (setCtx s x { c with halted := true, last := h, haltReq := false }) { i with halt := h }

/-- Halt a context for a bundle of the image its item runs on. -/
def haltCtx (s : State) (x ofs slot reason : Nat) (detail : Word) : State :=
  haltFrom s x (imgNow s x) ofs slot reason detail

/-- Counter n of a context as the current bundle's slots see it (07 R212). -/
def ctr (c : Ctx) (n : Nat) : Word := tget 0 n c.cPrev

/-- Local index and Caldera of a context handle (09 Table 09.10). -/
def ctxCal (x : Nat) : Nat := x / 16

end Sys2Proof.Machine
end

