-- ==== Sys2Proof/Machine/Flags.lean ====
section
/-! DEFINITION. Arithmetic status: raising flags, and the trap (03_arithmetic.md, Arithmetic status). -/

namespace Sys2Proof.Machine

/-- Halt bits of ASTAT that a set of flags meets (03 Table 03.6): INVALID, EINF and SAT. -/
def trapFlags (astat : Word) (f : Fl) : Fl :=
  (if astat.getLsbD 8 then f &&& flInvalid else 0) ||| (if astat.getLsbD 9 then f &&& flEinf else 0)
    ||| (if astat.getLsbD 10 then f &&& flSat else 0)

/-- OR flags that an instruction of an image's bundle raises into a context's ASTAT; a flag whose halt bit is 1 halts it
with ARITH_TRAP, with the lowest such flag as detail (03 R122, R124, R125; 07 R256). -/
def raiseFlags (s : State) (x : Nat) (img : BitVec 16) (ofs slot : Nat) (f : Fl) : State :=
  let a := (getCtx s x).astat
  let s1 := updCtx s x fun c => { c with astat := a ||| f.setWidth 32 }
  let t := (trapFlags a f).setWidth 32
  if trapFlags a f = 0 then s1 else haltFrom s1 x img ofs slot hArithTrap (t &&& -t)

/-- ASTAT after a write of w by WRASTAT (07 R216): bits [4:0] W1C, bits [10:8] RW. -/
def writeAstat (a w : Word) : Word := (a &&& 0x1F &&& ~~~w) ||| (w &&& 0x700)

/-- ASTAT at the start of a work item or a replay (03 R123): bits [4:0] clear. -/
def startAstat (a : Word) : Word := a &&& 0x700

end Sys2Proof.Machine
end

