-- ==== Sys2Proof/Machine/Operands.lean ====
section
/-! DEFINITION. Operand forms: tensor and transfer descriptors, the address of an element and the checks made on an
access (07_programs.md R233 to R239), and elements in memory. -/

namespace Sys2Proof.Machine

/-- A check's failure: halt reason and detail (07 Table 07.16, R256). -/
abbrev Stop := Nat × Word

/-- Byte of the scratchpad where descriptor h of context x stands (R233). -/
def descAddr (x h : Nat) : Nat := Config.spadBytes - (x % 16 + 1) * 65536 + 64 * h

/-- The 512 bits of descriptor h of context x. -/
def descBits (s : State) (x h : Nat) : Nat := load (getCal s (ctxCal x)).spad (descAddr x h) 64

/-- First byte of a scratchpad that holds descriptor tables: programs address nothing from here on (R233). -/
def spadTop : Nat := Config.spadBytes - 16 * 65536

/-- A tensor descriptor from its bits (Table 07.13), with the counters it is read under (R235). -/
def decDesc (c : Ctx) (w : Nat) : Desc :=
  let n := bits w 14 12
  let sz := fun x => bits w (151 + 56 * x) (128 + 56 * x)
  let sd := fun x => bits w (183 + 56 * x) (152 + 56 * x)
  let base := bits w 127 64
  let os := signed 32 (bits w 484 453)
  let oen := bit w 452
  { type := bits w 3 0, space := bits w 7 4, fmt := bits w 11 8, ndim := n, transpose := bit w 15,
    indirect := bit w 16, idx := bits w 26 17, idim := bits w 29 27,
    region := BitVec.ofNat 16 (bits w 47 32), base := base,
    sizes := (List.range n).map sz, strides := (List.range n).map fun x => signed 32 (sd x),
    limit := bits w 447 408, octr := bits w 451 448, oen := oen, ostride := os,
    rsvZero := bits w 31 30 == 0 && bits w 63 48 == 0 && bits w 511 485 == 0 &&
      (List.range 5).all fun x => x < n || (sz x == 0 && sd x == 0),
    eff := if oen then base + (ctr c (bits w 451 448)).toInt * os else base }

/-- Bytes one element of a format occupies as an access unit; a 4-bit pair is one byte (R234). -/
def elemBytes (fmt : Nat) : Nat := max 1 (fmtBits fmt / 8)

/-- Address of element is, index values of an indirected dimension already put in (R235). In a 4-bit format
dimension 0 is packed two elements a byte and STRIDE_0 is ignored (R234). -/
def elemAddr (d : Desc) (is : List Nat) : Int :=
  let ts := (is.zip d.strides).map fun p => (p.1 : Int) * p.2
  let ts := if fmtBits d.fmt = 4 then ((is.headD 0 / 2 : Nat) : Int) :: ts.tail else ts
  d.eff + ts.foldl (· + ·) 0

/-- The element's bytes lie inside [BASE, BASE + LIMIT) (R235). -/
def inLimit (d : Desc) (a : Int) : Bool :=
  decide ((d.base : Int) ≤ a) && decide (a + elemBytes d.fmt ≤ d.base + d.limit)

/-- The element's bytes lie where programs may address them in an on-chip space (R233, 00 Table 00.4). -/
def inStore (d : Desc) (a : Int) : Bool :=
  match d.space with
  | 0 => decide (0 ≤ a) && decide (a + elemBytes d.fmt ≤ spadTop)
  | 1 => decide (0 ≤ a) && decide (a + elemBytes d.fmt ≤ Config.gradBytes)
  | _ => decide (0 ≤ a)

/-- Low word of an address, as a halt's detail. -/
def lowWord (a : Int) : Word := BitVec.ofInt 32 a

/-- The region or peer of a descriptor of space 2, 3 or 4 can be used by partition p (R237, 12 R358, 13 R406). -/
def spaceOk (s : State) (p : Nat) (d : Desc) (write : Bool) : Bool :=
  let r := getRegion s (regIdx d.region)
  match d.space with
  | 0 => true
  | 1 => true
  | 4 =>
    let q := d.region.toNat % 64
    !(getPeer s q).lost && q != s.straps.peerId.val
  | n => regLive s p d.region && !r.invalid && r.host == (n == 3) && !(write && r.ro)

/-- A host region of a descriptor is out of reach while the link is down (12 R382). -/
def linkOk (s : State) (d : Desc) : Bool := decide (d.space ≠ 3) || hostUp s

/-- The element's bytes lie inside the registered region (R237). -/
def inRegion (s : State) (d : Desc) (a : Int) : Bool :=
  let r := getRegion s (regIdx d.region)
  if d.space = 2 ∨ d.space = 3 then
    decide ((r.base : Int) ≤ a) && decide (a + elemBytes d.fmt ≤ r.base + r.size)
  else true

/-- Bounds and region check of one element's address (R235, R237). -/
def checkAddr (s : State) (d : Desc) (a : Int) : Except Stop Unit :=
  if !(inLimit d a && inStore d a) then .error (hBounds, lowWord a)
  else if !inRegion s d a then .error (hRegionFault, lowWord a)
  else .ok ()

/-- Lowest and highest element of an access over counts of each dimension, without an indirected one. -/
def spanOf (d : Desc) (counts : List Nat) : List Nat × List Nat :=
  let f := fun (p : Nat × Int) => (if p.2 < 0 then (p.1 - 1, 0) else (0, p.1 - 1) : Nat × Nat)
  let ps := (counts.zip d.strides).map f
  let ps := if fmtBits d.fmt = 4 then ps.set 0 (0, counts.headD 1 - 1) else ps
  (ps.map (·.1), ps.map (·.2))

/-- Check of a whole access over counts (R237): a direct descriptor at its lowest and highest byte, an indirect one
at every index value that the access reads. -/
def checkAccess (s : State) (d : Desc) (vals counts : List Nat) : Except Stop Unit :=
  let lh := spanOf d counts
  if d.indirect then
    (vals.take (counts.getD d.idim 0)).foldl (fun r v =>
      match r with
      | .error e => .error e
      | .ok () =>
        if (d.sizes.getD d.idim 0) ≤ v then .error (hIndexRange, BitVec.ofNat 32 v)
        else
          match checkAddr s d (elemAddr d (lh.1.set d.idim v)) with
          | .error e => .error e
          | .ok () => checkAddr s d (elemAddr d (lh.2.set d.idim v))) (.ok ())
  else
    match checkAddr s d (elemAddr d lh.1) with
    | .error e => .error e
    | .ok () => checkAddr s d (elemAddr d lh.2)

/-- The copy of an item's reset mask as MASKH names it (09 R313): direct words of 256 bits in step order in the
reservation. A counter offset of the descriptor moves by whole words, counted in its stride (log entry 13). -/
def maskCopy (s : State) (x : Nat) (i : Item) (d : Desc) : Desc :=
  let c0 : Ctx := { cPrev := [(0, BitVec.ofNat 32 i.e.steps), (1, BitVec.ofNat 32 i.e.rows), (2, 1)] }
  let st := d.strides.headD 0
  let ofs := d.eff - (decDesc c0 (descBits s x i.e.maskh)).eff
  let q := if st = 0 then 0 else ofs / st
  let b := keepBase i (maskBytes i)
  { d with space := 0, indirect := false, oen := false, base := b, eff := if q * st = ofs then b + 32 * q else (b : Int) - 1,
           strides := [32], limit := maskBytes i }

/-- The work item of context x whose mask copy handle h names, if any. -/
def maskOwner (s : State) (x h : Nat) : Option Item :=
  (winItemOf s x).filter fun i => i.maskIn && i.e.mask && h == i.e.maskh

/-- A tensor descriptor by handle, checked as every use checks it (R214, R233, R234): handle 0, the type, reserved
bits, a reserved space, a reserved format, and the shape ranges of Table 07.13. -/
def useDesc (s : State) (x h : Nat) : Except Stop Desc :=
  let d := decDesc (getCtx s x) (descBits s x h)
  let bad : Except Stop Desc := .error (hDescInvalid, BitVec.ofNat 32 h)
  if h = 0 ∨ d.type ≠ 1 ∨ 4 < d.space ∨ d.rsvZero = false then bad
  else if 12 < d.fmt then .error (hOperandFormat, BitVec.ofNat 32 h)
  else if d.ndim = 0 ∨ 5 < d.ndim ∨ d.sizes.any (· = 0) ∨ (fmtBits d.fmt = 4 ∧ d.sizes.headD 0 % 2 = 1) then
    .error (hDescShape, BitVec.ofNat 32 h)
  else if d.indirect = true ∧ d.ndim ≤ d.idim then bad
  else
    match maskOwner s x h with
    | some i => .ok (if d.ndim = 1 then maskCopy s x i d else d)
    | none => .ok d

/-- Index values of an index descriptor (R236): INT32, one dimension, direct, in the scratchpad. -/
def indexVals (s : State) (x h : Nat) : Except Stop (List Nat) :=
  match useDesc s x h with
  | .error _ => .error (hDescInvalid, BitVec.ofNat 32 h)
  | .ok d =>
    if d.fmt ≠ 10 ∨ d.ndim ≠ 1 ∨ d.indirect = true ∨ d.space ≠ 0 then .error (hDescInvalid, BitVec.ofNat 32 h)
    else
      match checkAccess s d [] d.sizes with
      | .error e => .error e
      | .ok () =>
        .ok ((List.range (d.sizes.headD 0)).map fun i =>
          load (getCal s (ctxCal x)).spad (elemAddr d [i]).toNat 4)

/-- Index values that a tensor descriptor goes through; none for a direct one. -/
def valsOf (s : State) (x : Nat) (d : Desc) : Except Stop (List Nat) :=
  if d.indirect then indexVals s x d.idx else .ok []

/-- Iteration counts of a descriptor (08 R264, R235). -/
def countsOf (d : Desc) (vals : List Nat) : List Nat :=
  if d.indirect then d.sizes.set d.idim vals.length else d.sizes

/-- Element index with the index value put in. -/
def withVal (d : Desc) (vals is : List Nat) : List Nat :=
  if d.indirect then is.set d.idim (vals.getD (is.getD d.idim 0) 0) else is

/-- Address of element is through the index values. -/
def addrOf (d : Desc) (vals is : List Nat) : Nat := (elemAddr d (withVal d vals is)).toNat

/-- Bits of an element at address a, i its place in a packed pair. -/
def readElem (m : Mem) (fmt a i : Nat) : Nat :=
  if fmtBits fmt = 4 then load m a 1 / (if i % 2 = 1 then 16 else 1) % 16 else load m a (elemBytes fmt)

/-- Write an element's bits. -/
def writeElem (m : Mem) (fmt a i v : Nat) : Mem :=
  if fmtBits fmt = 4 then
    let b := load m a 1
    store m a 1 (if i % 2 = 1 then b % 16 + 16 * (v % 16) else b / 16 * 16 + v % 16)
  else store m a (elemBytes fmt) v

/-- Element is of a scratchpad tensor. -/
def spadElem (m : Mem) (d : Desc) (vals is : List Nat) : Nat :=
  readElem m d.fmt (addrOf d vals is) ((withVal d vals is).headD 0)

/-- All element indices of counts, dimension 0 fastest (08 R262). -/
def iterAll : List Nat → List (List Nat)
  | [] => [[]]
  | n :: r => (iterAll r).flatMap fun t => (List.range n).map (· :: t)

end Sys2Proof.Machine
end

