-- ==== Sys2Proof/Machine/Ports.lean ====
section
/-! DEFINITION. Requests of the Memory Port and the Host Port: jobs, tags, credits, what may be presented, and what a
response does (12_host_and_memory_ports.md). -/

namespace Sys2Proof.Machine

/-- Channel of an integrator memory address (R362). -/
def memChan (a : Nat) : Nat := Nat.xor (bits a 11 8) (bits a 15 12)

/-- Lowest number below 256 not in use. -/
def freeTag (used : List Nat) : Option Nat := (List.range 256).find? fun t => !used.contains t

/-- 64 B granules of n bytes from a. -/
def beatsOf (a n : Nat) : Nat := (a + n - 1) / 64 + 1 - a / 64

/-- Byte ranges share a 64 B granule. -/
def granMeet (a n b m : Nat) : Bool := decide (a / 64 ≤ (b + m - 1) / 64) && decide (b / 64 ≤ (a + n - 1) / 64)

/-- Byte ranges overlap. -/
def rangeMeet (a n b m : Nat) : Bool := decide (a < b + m) && decide (b < a + n)

/-- Split [a, a + bytes) at 256 B boundaries (R362, 12 Table 12.3); the fuel bounds the number of pieces. -/
def splitBursts (kind : ReqKind) (host : Bool) : Nat → Nat → List Byte → Nat → List Burst
  | 0, _, _, _ => []
  | fuel + 1, a, bs, n =>
    if n = 0 then []
    else
      let k := min n (256 - a % 256)
      { kind, host, addr := a, len := k, data := bs.take k } :: splitBursts kind host fuel (a + k) (bs.drop k) (n - k)

/-- Writes of bytes from a. -/
def writeBursts (host : Bool) (a : Nat) (bs : List Byte) : List Burst :=
  splitBursts .write host (bs.length + 1) a bs bs.length

/-- Reads of n bytes from a. -/
def readBursts (host : Bool) (a n : Nat) : List Burst := splitBursts .read host (n + 1) a [] n

/-- The flush-read fence that covers writes (R365, R375): a FENCE on every channel they used, or one FLUSH_READ. -/
def fenceBursts (host : Bool) (ws : List Burst) : List Burst :=
  if host then [{ kind := .fence, host := true, addr := 0, len := 4, data := [] }]
  else ((ws.map fun b => memChan b.addr).eraseDups).map fun n =>
    { kind := .fence, host := false, addr := n, len := 0, data := [] }

/-! ### Who asks, and with what key (11 R342 to R344, Table 11.1) -/

/-- Engines of the block in order: VE0 to VE3 of Calderas 0 to 3, then VS0 to VS3, keyed 0 to 19. -/
def engKey : Eng → Nat
  | .ve c n => 4 * c.val + n.val
  | .vs n => 16 + n.val

/-- Transfers of an engine, by key. -/
def engList (s : State) (k : Nat) : List Xfer :=
  if k < 16 then tget [] (k % 4) (getCal s (k / 4)).ve else tget [] (k - 16) s.vs

/-- Replace an engine's transfers. -/
def setEng (s : State) (k : Nat) (l : List Xfer) : State :=
  if k < 16 then updCal s (k / 4) fun c => { c with ve := tput [] (k % 4) l c.ve }
  else { s with vs := tput [] (k - 16) l s.vs }

/-- Every transfer of the block. -/
def allXfers (s : State) : List Xfer := (List.range 20).flatMap (engList s)

/-- Every lookup of the block. -/
def allLooks (s : State) : List Lookup := (List.range 4).flatMap fun c => (getCal s c).lookups

/-- Change a transfer. -/
def updXfer (s : State) (n : Nat) (f : Xfer → Xfer) : State :=
  (List.range 20).foldl (fun s e =>
    if (engList s e).any (·.id == n) then setEng s e ((engList s e).map fun t => if t.id = n then f t else t) else s) s

/-- Change a transfer or lookup that waits. -/
def updMove (s : State) (u : User) (f : Xfer → Xfer) (g : Lookup → Lookup) : State :=
  match u with
  | .xfer n => updXfer s n f
  | .look n => (List.range 4).foldl (fun s c => updCal s c fun k =>
      { k with lookups := k.lookups.map fun l => if l.id = n then g l else l }) s
  | _ => s

/-- The transfer, lookup or peer's request that a request serves: an add's is the one it belongs to. -/
def ownerOf (s : State) (u : User) : User :=
  match u with
  | .add n => (((s.mem.flatMap fun e => e.2.adds).find? (·.id == n)).map (·.user)).getD .gone
  | u => u

/-- DEADLINE of the work item that a channel and a sequence number name. -/
def itemDeadline (s : State) (ch : Nat) (seq : Word) : Option Nat :=
  (s.items.find? fun i => i.ch == ch && i.seq == seq).map (·.deadline)

/-- Bus address of a channel's next ring entry. -/
def sqPlace (s : State) (i : Nat) : Nat :=
  let c := getChan s i
  (getRegion s (regIdx c.sqReg)).base + c.sqOfs + 64 * (c.sqCons.toNat % 2 ^ c.sqLog)

/-- DEADLINE that a request carries; none is the background key (R343). A line request carries that of the Caldera's
executing item, or else of its staged item; a firmware read that of the entry it serves (12 R377), which the read of the
entry itself cannot know (log entry 161); a post that of the channel's oldest record. -/
def userDeadline (s : State) (u : User) : Option Nat :=
  match ownerOf s u with
  | .xfer n => ((allXfers s).find? (·.id == n)).bind fun t => itemDeadline s t.ch t.seq
  | .look n => ((allLooks s).find? (·.id == n)).bind fun l => itemDeadline s l.ch l.seq
  | .fetch c _ _ =>
    match execItem s c, stagedItem s c with
    | some i, _ => some i.deadline
    | none, some i => some i.deadline
    | none, none => none
  | .item ch seq _ => itemDeadline s ch seq
  | .entry ch 1 => ((s.jobs.find? fun j => decide (j.user = .entry ch 0)).map fun j => load j.rx (sqPlace s ch + 16) 8)
  | .post ch _ => ((s.posts.find? fun o => o.ch == ch).map (·.deadline)).filter (· < 2 ^ 64)
  | _ => none

/-- Engine of a transfer. -/
def engOf (s : State) (n : Nat) : Nat := ((List.range 20).find? fun e => (engList s e).any (·.id == n)).getD 0

/-- Requester index of a user at a Memory Port channel's arbiters: ports of 08 Table 08.7, Tephra, instruction fetch,
the Ashfall copy; exports and the firmware's accesses have no index in Table 11.1 and come after it (log entry 144). -/
def memIndex (s : State) (u : User) : Nat :=
  match ownerOf s u with
  | .xfer n => engOf s n
  | .remote _ => 20
  | .look _ => 21
  | .fetch _ _ _ => 22
  | .dump => 23
  | _ => 24

/-- Requester index of a user at the Host Port's read path (12 R377); the firmware's reads have index 21. -/
def hostRdIndex (s : State) (u : User) : Nat :=
  match ownerOf s u with
  | .xfer n => engOf s n
  | .fetch _ _ _ => 20
  | _ => 21

/-- Requester index of a user at the Host Port's write path (Table 11.1). -/
def hostWrIndex (s : State) (u : User) : Nat :=
  match ownerOf s u with
  | .xfer n => engOf s n
  | .post _ _ => 20
  | .exp _ => 21
  | .event _ => 22
  | _ => 23

/-- Channel of a request to the Memory Port. -/
def burstChan (b : Burst) : Nat :=
  match b.kind with
  | .fence => b.addr
  | _ => memChan b.addr

/-- A request goes by the read path. -/
def isRead (b : Burst) : Bool := decide (b.kind = .read)

/-- Requester index of a request at its arbiter, the arbiter's pointer, its number of requesters, and its aging limit in
twelfths of a nanosecond: 64 FCLK, or 256 HCLK (Table 11.1). -/
def arbiter (s : State) (u : User) (b : Burst) : Nat × Nat × Nat × Nat :=
  if b.host then
    if isRead b then (hostRdIndex s u, s.host.rdPtr, 22, 3072) else (hostWrIndex s u, s.host.wrPtr, 24, 3072)
  else
    let c := getMemCh s (burstChan b)
    (memIndex s u, if isRead b then c.rdPtr else c.wrPtr, 25, 384)

/-- Order of a request at its arbiter: aged requests first, the oldest first; then DEADLINE, the background key last;
then the index from the pointer on (R342, R343). -/
def arbKey (s : State) (j : Job) (b : Burst) : List Nat :=
  let a := arbiter s j.user b
  let place := (a.1 + a.2.2.1 - a.2.1 % a.2.2.1) % a.2.2.1
  if a.2.2.2 ≤ s.clk - j.since then [0, j.since, 0, place]
  else
    match userDeadline s j.user with
    | some d => [1, 0, d, place]
    | none => [1, 1, 0, place]

/-- Lexicographic order. -/
def lexLt : List Nat → List Nat → Bool
  | _, [] => false
  | [], _ => true
  | a :: r, b :: q => decide (a < b) || (a == b && lexLt r q)

/-- The arbiter's pointer moves to the index after the winner (R342). -/
def movePtr (s : State) (u : User) (b : Burst) : State :=
  let a := arbiter s u b
  let p := (a.1 + 1) % a.2.2.1
  if b.host then
    { s with host := if isRead b then { s.host with rdPtr := p } else { s.host with wrPtr := p } }
  else
    let c := getMemCh s (burstChan b)
    setMemCh s (burstChan b) (if isRead b then { c with rdPtr := p } else { c with wrPtr := p })

/-! ### Presenting -/

/-- The controller answers a WRITE, or the add of another user holds the granule: no other request may touch these bytes
of integrator memory now (R364, R367). -/
def granHeld (s : State) (u : User) (a n : Nat) : Bool :=
  (s.reqs.any fun r => !r.host && decide (r.b.kind = .write) && granMeet r.b.addr r.b.len a n)
    || s.mem.any fun e => e.2.adds.any fun o =>
      decide (0 < o.stage) && decide (u ≠ .add o.id) && granMeet o.addr (elemBytes o.fmt) a n

/-- Write data beats are presented while a channel holds beat credits, in the order of their WRITEs (R363). -/
def payBeats (n : Nat) : Nat → List Req → Nat × List Req
  | crd, [] => (crd, [])
  | crd, r :: q =>
    if r.host = false ∧ r.chan = n then
      let k := min crd r.wd
      let p := payBeats n (crd - k) q
      (p.1, { r with wd := r.wd - k } :: p.2)
    else
      let p := payBeats n crd q
      (p.1, r :: p.2)

/-- Present the write data beats that a channel's credits allow. -/
def sendBeats (s : State) (n : Nat) : State :=
  let p := payBeats n (getMemCh s n).wdCrd s.reqs
  { setMemCh s n { getMemCh s n with wdCrd := p.1 } with reqs := p.2 }

/-- Present a request on its Memory Port channel if the flow rules let it (R363, R364, R367). -/
def presentMem (s : State) (u : User) (b : Burst) : Option State :=
  let n := burstChan b
  let ch := getMemCh s n
  let w := match b.kind with
    | .write => beatsOf b.addr b.len
    | _ => 0
  let mine := s.reqs.filter fun r => !r.host && r.chan == n
  if ch.reqCrd = 0 ∨ (b.kind ≠ .fence ∧ granHeld s u b.addr b.len = true) then none
  else (freeTag (mine.map (·.tag))).map fun t =>
    sendBeats { setMemCh s n { ch with reqCrd := ch.reqCrd - 1 } with
      reqs := s.reqs ++ [{ host := false, chan := n, tag := t, b := b, user := u, wd := w }] } n

/-- The FLUSH_READ of R375: 4 B at the address of the last WRITE handed. -/
def flushRead (s : State) : Burst := { kind := .fence, host := true, addr := s.host.last, len := 4, data := [] }

/-- A WRITE is handed to the endpoint controller: it lands, and waits for a fence (R372, R374). -/
def handed (s : State) (a : Nat) (bs : List Byte) : State :=
  { s with hmem := storeBytes s.hmem a bs,
           host := { s.host with unfenced := s.host.unfenced ++ [(a, bs.length)], last := a } }

/-- Hand a WRITE, or present a READ or a FLUSH_READ, on the Host Port (R371 to R375, R380). A READ that overlaps a
WRITE no fence covers waits. -/
def presentHost (s : State) (u : User) (b : Burst) : Option State :=
  if s.host.up = false ∨ s.host.retrain = true then none
  else
    let tags := (s.reqs.filter (·.host)).map (·.tag)
    match b.kind with
    | .write => some (handed s b.addr b.data)
    | .fence => (freeTag tags).map fun t =>
        { s with reqs := s.reqs ++ [{ host := true, chan := 0, tag := t, b := flushRead s, user := u,
                                      covers := s.host.unfenced.length }] }
    | .read =>
      if s.host.unfenced.any (fun w => rangeMeet w.1 w.2 b.addr b.len) then none
      else (freeTag tags).map fun t =>
        { s with reqs := s.reqs ++ [{ host := true, chan := 0, tag := t, b := b, user := u }] }

/-- Present one request. -/
def present (s : State) (u : User) (b : Burst) : Option State :=
  if b.host then presentHost s u b else presentMem s u b

/-- A request of a user is outstanding. -/
def outstanding (s : State) (u : User) : Bool := s.reqs.any fun r => decide (r.user = u)

/-- A stage that has ended gives way to the next one, which requests from now on. -/
def nextStage (s : State) (j : Job) : Job :=
  match j.stages with
  | [] :: r => if outstanding s j.user then j else { j with stages := r.dropWhile (·.isEmpty), since := s.clk }
  | _ => j

/-- What the arbiters may grant: job, place in its stage, order, and the state after it. -/
def grants (s : State) : List (Nat × Nat × List Nat × State) :=
  s.jobs.zipIdx.flatMap fun j => (j.1.stages.headD []).zipIdx.filterMap fun b =>
    (present s j.1.user b.1).map fun t => (j.2, b.2, arbKey s j.1 b.1, movePtr t j.1.user b.1)

/-- The first of them. -/
def firstGrant (s : State) : Option (Nat × Nat × List Nat × State) :=
  (grants s).foldl (fun o g =>
    match o with
    | none => some g
    | some f => if lexLt g.2.2.1 f.2.2.1 then some g else some f) none

/-- The request at place k of job n has been presented. -/
def presented (n k : Nat) (jobs : List Job) : List Job :=
  jobs.zipIdx.map fun j =>
    if j.2 = n then { j.1 with stages := (j.1.stages.headD []).eraseIdx k :: j.1.stages.drop 1 } else j.1

/-- Present one request after the other; the fuel bounds their number. -/
def pumpN : Nat → State → State
  | 0, s => s
  | fuel + 1, s =>
    let s1 := { s with jobs := s.jobs.map (nextStage s) }
    match firstGrant s1 with
    | none => s1
    | some g => pumpN fuel { g.2.2.2 with jobs := presented g.1 g.2.1 g.2.2.2.jobs }

/-- A READ waits for a WRITE of its bytes that no fence covers. -/
def readWaits (s : State) (j : Job) : Bool :=
  (j.stages.headD []).any fun b => b.host && isRead b
    && s.host.unfenced.any fun w => rangeMeet w.1 w.2 b.addr b.len

/-- A fence for the READs that wait for one, unless a fence is under way (R374). -/
def fenceReads (s : State) : State :=
  if s.jobs.any (readWaits s) = true ∧ (s.reqs.any fun r => r.host && decide (r.b.kind = .fence)) = false then
    (presentHost s .gone (flushRead s)).getD s
  else s

/-- Requests the jobs hold. -/
def heldBursts (s : State) : Nat := (s.jobs.map fun j => (j.stages.map fun st => st.length + 1).sum).sum

/-- Present what may be presented now, in the order of the arbiters. -/
def pump (s : State) : State := fenceReads (pumpN (heldBursts s + 1) s)

/-- Start a job. -/
def addJob (s : State) (u : User) (stages : List (List Burst)) : State :=
  pump { s with jobs := s.jobs ++ [{ user := u, stages := stages.dropWhile (·.isEmpty), err := false, since := s.clk }] }

/-- The job of a user, if any. -/
def jobOf (s : State) (u : User) : Option Job := s.jobs.find? fun j => decide (j.user = u)

/-- Every request of a user's job has ended. -/
def jobDone (s : State) (u : User) : Bool :=
  match jobOf s u with
  | none => true
  | some j => j.stages.isEmpty && !outstanding s u

/-- A user's job met an error. -/
def jobErr (s : State) (u : User) : Bool :=
  match jobOf s u with
  | none => false
  | some j => j.err

/-- Bytes that the READs of a user's job have returned, by address. -/
def jobRx (s : State) (u : User) : Mem := ((jobOf s u).map (·.rx)).getD []

/-- Give a user's job returned bytes. -/
def setRx (s : State) (u : User) (m : Mem) : State :=
  { s with jobs := s.jobs.map fun j => if j.user = u then { j with rx := m } else j }




/-- Drop a user's job; its outstanding requests end for nobody. -/
def dropJob (s : State) (u : User) : State :=
  { s with jobs := s.jobs.filter (fun j => decide (j.user ≠ u)),
           reqs := s.reqs.map fun r => if r.user = u then { r with user := .gone } else r }

/-- The requests a user holds and has not presented fail; its job carries the error (R368, R380). -/
def failJob (s : State) (u : User) : State :=
  { s with jobs := s.jobs.map fun j => if j.user = u then { j with stages := [], err := true } else j }

/-- A fence's completion covers the first k WRITEs of those no fence covers (R375). -/
def coverFence (s : State) (k : Nat) : State :=
  { s with host := { s.host with unfenced := s.host.unfenced.drop k },
           reqs := s.reqs.map fun r => { r with covers := r.covers - k } }

/-- Same tag of the same port and channel. -/
def sameTag (q r : Req) : Bool := q.host == r.host && q.chan == r.chan && q.tag == r.tag

/-- A request's tag is free again. -/
def freeReq (s : State) (r : Req) : State := { s with reqs := delFirst (sameTag r) s.reqs }

/-- A request has ended for its user, but beats, an acknowledgment or a completion that carry its tag may still come
(R363, R368, R379). -/
def retireReq (s : State) (r : Req) : State :=
  { s with reqs := updFirst (sameTag r) (fun q => { q with user := .gone, retired := true }) s.reqs }

/-- What an acknowledged WRITE, a completed fence or an answered READ does (R361, R365, R371, R375): a memory WRITE
lands; the data of a READ are those the memory holds as it is answered. -/
def landReq (s : State) (r : Req) : State :=
  match r.b.kind with
  | .write => if r.host then s else { s with imem := storeBytes s.imem r.b.addr r.b.data }
  | .fence => if r.host then coverFence s r.covers else s
  | .read => setRx s r.user (storeBytes (jobRx s r.user) r.b.addr (loadBytes (extMem s r.host) r.b.addr r.b.len))

/-- A request ends (R363, R365, R368): an acknowledged memory WRITE lands, an error fails its job; with `last` its tag
is free again. -/
def endReq (s : State) (r : Req) (ok last : Bool) : State :=
  let s1 := if last then freeReq s r else retireReq s r
  if ok then landReq s1 r else failJob s1 r.user

/-! ### Accesses of the firmware (R374 to R377) -/

/-- The jobs of some users go; their outstanding requests end for nobody. -/
def dropUsers (s : State) (p : User → Bool) : State :=
  { s with jobs := s.jobs.filter (fun j => !p j.user),
           reqs := s.reqs.map fun r => if p r.user then { r with user := .gone } else r }

/-- A read that the firmware makes: asked for or under way, failed, or in place. -/
inductive Got where
  | wait (s : State) | bad | here (m : Mem)
  deriving DecidableEq, Repr

/-- Read ranges of a memory for a user: the first call asks for them, a later one finds their bytes by address, or the
port fault (log entry 161). -/
def fwRead (s : State) (u : User) (host : Bool) (rs : List (Nat × Nat)) : Got :=
  match jobOf s u with
  | none => .wait (addJob s u [rs.flatMap fun r => readBursts host r.1 r.2])
  | some j => if jobDone s u = false then .wait s else if j.err then .bad else .here j.rx

/-- Requests behind those of a user's job, or of a new one. -/
def moreJob (s : State) (u : User) (bs : List Burst) : State :=
  match jobOf s u with
  | none => addJob s u [bs]
  | some _ => pump { s with jobs := s.jobs.map fun j => if j.user = u then { j with stages := j.stages ++ [bs] } else j }

/-- The reads that belong to a channel's next entry. -/
def entryUser (i : Nat) : User → Bool
  | .entry ch _ => ch == i
  | _ => false

/-- The posting of a channel's records. -/
def postUser (i : Nat) : User → Bool
  | .post ch _ => ch == i
  | _ => false

/-- The reads of an item's lists. -/
def itemUser (i : Item) : User → Bool
  | .item ch seq _ => ch == i.ch && seq == i.seq
  | _ => false

/-- The reads of a mailbox's command. -/
def mboxUser (m : Nat) : User → Bool
  | .mbox n _ => n == m
  | _ => false

/-- The event record on its way into a partition's ring. -/
def eventUser (p : Nat) : User → Bool
  | .event q => q == p
  | _ => false

/-- The accesses of a channel end for nobody: its rings are others, or it has none. -/
def dropChan (s : State) (i : Nat) : State := dropUsers s fun u => entryUser i u || postUser i u

end Sys2Proof.Machine
end

