-- ==== Sys2Proof/Machine/Light.lean ====
section
/-! DEFINITION. Sending Plume frames: addresses, the header, sequence numbers, credits, request identifiers, link control
(13_light_port.md). -/

namespace Sys2Proof.Machine

/-- Receive units of a frame with len payload bytes (R395). -/
def unitsOf (len : Nat) : Nat := (48 + len + 255) / 256

/-- Port that serves peer q now (R389). -/
def portOf (s : State) (q : Nat) : Nat :=
  let prim := Nat.xor s.straps.peerId.val q % 2
  if (getPeer s q).alt then 1 - prim else prim

/-- Port p is UP (R387). -/
def portIsUp (s : State) (p : Nat) : Bool := s.light.up.getLsbD p

/-- The class record of a peer. -/
def classOf (p : Peer) (rsp : Bool) : PClass := if rsp then p.rsp else p.req

/-- Replace the class record. -/
def withClass (p : Peer) (rsp : Bool) (c : PClass) : Peer := if rsp then { p with rsp := c } else { p with req := c }

/-- MAC address of port n of peer q of a cluster, 02-7E-CH-CL-PP-0p (R388). -/
def macOf (cluster : BitVec 16) (q n : Nat) : BitVec 48 :=
  0x027E#16 ++ cluster ++ BitVec.ofNat 8 q ++ BitVec.ofNat 8 n

/-- EtherType of the Plume frames of a cluster (R388). -/
def etherType (s : State) : BitVec 16 := if s.straps.etype then 0x88B6 else 0x88B5

/-- The 48 B header of a frame (Table 13.3). -/
def headerBytes (f : Frame) : List Byte :=
  [f.ver, f.type, f.cls, BitVec.ofNat 8 f.src.val] ++ leBytes 2 f.ssess.toNat ++ leBytes 2 f.dsess.toNat
    ++ leBytes 4 f.seq.toNat ++ leBytes 4 f.ackReq.toNat ++ leBytes 4 f.ackRsp.toNat ++ leBytes 2 f.crdReq.toNat
    ++ leBytes 2 f.crdRsp.toNat ++ leBytes 2 f.len.toNat ++ leBytes 2 f.xid.toNat ++ [f.status, f.flags]
    ++ leBytes 2 f.rsv1.toNat ++ leBytes 8 f.addr.toNat ++ leBytes 4 f.aux.toNat ++ leBytes 4 f.rsv2.toNat

/-- What every frame to peer q carries when port n sends it: the addresses, the session that the peer is known by, and
the acknowledgments and credits of both classes (R388, R393). -/
def stamped (s : State) (q n : Nat) (f : Frame) : Frame :=
  let p := getPeer s q
  { f with dst := macOf s.straps.cluster q n, smac := macOf s.straps.cluster s.straps.peerId.val n, etype := etherType s,
           dsess := p.sess, ackReq := p.req.rx, ackRsp := p.rsp.rx, crdReq := p.req.grant, crdRsp := p.rsp.grant }

/-- A frame of the block to peer q over port n, before its message adds to it. -/
def frameOver (s : State) (q n : Nat) : Frame :=
  stamped s q n
    { dst := 0, smac := 0, etype := 0, tagged := false, ver := 1, type := 0, cls := 0, src := s.straps.peerId,
      ssess := s.light.session, dsess := 0, seq := 0, ackReq := 0, ackRsp := 0, crdReq := 0, crdRsp := 0, len := 0,
      xid := 0, status := 0, flags := 0, rsv1 := 0, addr := 0, aux := 0, rsv2 := 0, payload := [], fcsOk := true }

/-- Receive units that the answer to a request takes; the later segments of a state move bring none of their own. -/
def answerUnits (f : Frame) : Nat :=
  if f.type = 2 then unitsOf f.aux.toNat
  else if f.type = 5 ∧ f.aux.extractLsb' 16 8 ≠ 0 then 0
  else 1

/-- Receive units reserved for the answers to the requests of peer q that have been presented (11 R353). -/
def reserved (s : State) (q : Nat) : Nat :=
  let waits := (getPeer s q).req.queue.filter fun t => !t.sent
  ((s.light.asked.filter fun a => a.peer == q && waits.all fun t => t.f.xid != a.xid || decide (answerUnits t.f = 0)).map
    (·.units)).sum

/-- Response units that peer q may fill (R395). -/
def answerRoom (p : Peer) : Nat := 17 + 68 * p.pool

/-- Work waiting at its port's arbiter: the request that a frame to peer q makes, if it still waits for its answer. -/
def frameUser (s : State) (q : Nat) (f : Frame) : User :=
  ((s.light.asked.find? fun a => a.xid == f.xid && a.peer == q).map (·.user)).getD .gone

/-- Requester index of a request frame to peer q at its port's arbiter (11 Table 11.1): the engine of its transfer,
Tephra, exports and their CANCELs, doorbells. -/
def txIndex (s : State) (q : Nat) (f : Frame) : Nat :=
  if f.type = 4 then 22
  else if f.type = 5 ∨ f.type = 6 then 21
  else
    match frameUser s q f with
    | .xfer n => engOf s n
    | .look _ => 20
    | _ => 21

/-- Order of a request frame at its port's arbiter: aged by 64 frames, the oldest first; then DEADLINE, the background
key last; then the index from the pointer on (11 R342, R343, Table 11.1). -/
def txKey (s : State) (q : Nat) (t : TxFrame) : List Nat :=
  let n := portOf s q
  let place := (txIndex s q t.f + 23 - tget 0 n s.light.txPtr % 23) % 23
  if 64 ≤ tget 0 n s.light.txCount - t.since then [0, t.since, 0, place]
  else
    match userDeadline s (frameUser s q t.f) with
    | some d => [1, 0, d, place]
    | none => [1, 1, 0, place]

/-- The first frame of each requester. -/
def txHeads (s : State) (q : Nat) (l : List TxFrame) : List TxFrame :=
  l.foldl (fun a t => if a.any fun u => txIndex s q u.f == txIndex s q t.f then a else a ++ [t]) []

/-- The granted units cover a request frame, and there is room for its answer (R395, 11 R353). -/
def txFits (s : State) (q : Nat) (t : TxFrame) : Bool :=
  let p := getPeer s q
  decide (unitsOf t.f.payload.length ≤ (p.req.crd - p.req.used).toNat)
    && decide (answerUnits t.f ≤ answerRoom p - reserved s q)

/-- Request frames that port n can present now, each with its peer: the first of each requester to each peer. -/
def portFrames (s : State) (n : Nat) : List (Nat × TxFrame) :=
  ((s.light.peers.map (·.1)).filter fun q => portOf s q == n).flatMap fun q =>
    ((txHeads s q ((getPeer s q).req.queue.filter fun t => !t.sent)).filter (txFits s q)).map fun t => (q, t)

/-- The request frame that the arbiter of port n grants next; with `aged` an aged one only. -/
def nextFrame (s : State) (n : Nat) (aged : Bool) : Option (Nat × TxFrame) :=
  ((portFrames s n).filter fun e => !aged || decide (64 ≤ tget 0 n s.light.txCount - e.2.since)).foldl (fun o e =>
    match o with
    | none => some e
    | some d => if lexLt (txKey s e.1 e.2) (txKey s d.1 d.2) then some e else some d) none

/-- Frames not presented yet with their SEQs, from a SEQ on. -/
def renumbered (base : Word) (l : List TxFrame) : List TxFrame :=
  l.zipIdx.map fun e => { e.1 with f := { e.1.f with seq := base + BitVec.ofNat 32 e.2 } }

/-- Port n has granted k more frames. -/
def countFrames (s : State) (n k : Nat) : State :=
  { s with light := { s.light with txCount := tput 0 n (tget 0 n s.light.txCount + k) s.light.txCount } }

/-- Present a request frame to peer q: it takes the next SEQ (R392), and the arbiter's pointer moves behind its
requester. -/
def presentOne (s : State) (q : Nat) (t : TxFrame) : State :=
  let p := getPeer s q
  let c := p.req
  let n := portOf s q
  let rest := delFirst (fun u => decide (u = t)) (c.queue.filter fun u => !u.sent)
  let base := c.tx - BitVec.ofNat 32 (rest.length + 1)
  let t1 := { t with sent := true, f := stamped s q n { t.f with seq := base } }
  let s1 := setPeer s q { p with req := { c with
    used := c.used + BitVec.ofNat 16 (unitsOf t.f.payload.length),
    queue := c.queue.filter (·.sent) ++ t1 :: renumbered (base + 1) rest } }
  countFrames { s1 with light := { s1.light with
    txPtr := tput 0 n ((txIndex s q t.f + 1) % 23) s1.light.txPtr } } n 1

/-- Present request frames over port n one after the other, in the order of its arbiter; the fuel bounds their number.
-/
def presentReqs : Nat → State → Nat → Bool → State
  | 0, s, _, _ => s
  | fuel + 1, s, n, aged =>
    match nextFrame s n aged with
    | none => s
    | some e => presentReqs fuel (presentOne s e.1 e.2) n aged

/-- Present queued responses in order while the granted units cover them (R395). Answers the units used. -/
def presentFrames (stamp : Frame → Frame) (granted used : BitVec 16) : List TxFrame → BitVec 16 × List TxFrame
  | [] => (used, [])
  | t :: r =>
    if t.sent then let q := presentFrames stamp granted used r; (q.1, t :: q.2)
    else
      let u := unitsOf t.f.payload.length
      if u ≤ (granted - used).toNat then
        let q := presentFrames stamp granted (used + BitVec.ofNat 16 u) r
        (q.1, { t with sent := true, f := stamp t.f } :: q.2)
      else (used, t :: r)

/-- Frames of a class that wait to be presented. -/
def waitingFrames (l : List TxFrame) : Nat := (l.filter fun t => !t.sent).length

/-- Present the responses to peer q, which wait for no room. -/
def presentRsp (s : State) (q : Nat) : State :=
  let p := getPeer s q
  let r := presentFrames (stamped s q (portOf s q)) p.rsp.crd p.rsp.used p.rsp.queue
  countFrames (setPeer s q { p with rsp := { p.rsp with used := r.1, queue := r.2 } }) (portOf s q)
    (waitingFrames p.rsp.queue - waitingFrames r.2)

/-- Request frames that wait at port n. -/
def portWaits (s : State) (n : Nat) : Nat :=
  (((s.light.peers.map (·.1)).filter fun q => portOf s q == n).map fun q => waitingFrames (getPeer s q).req.queue).sum

/-- Present what may be presented over port n while it is UP: aged requests, responses, then requests as the port's
arbiter orders them (11 Table 11.1). -/
def presentPort (s : State) (n : Nat) : State :=
  if portIsUp s n then
    let s1 := presentReqs (portWaits s n) s n true
    let s2 := ((s1.light.peers.map (·.1)).filter fun q => portOf s1 q == n).foldl presentRsp s1
    presentReqs (portWaits s2 n) s2 n false
  else s

/-- Present what may be presented over the port that serves peer q. -/
def presentPeer (s : State) (q : Nat) : State := presentPort s (portOf s q)

/-- The pair's waiting requests ask at another port from now on. -/
def askAgain (s : State) (q : Nat) : State :=
  let p := getPeer s q
  let n := tget 0 (portOf s q) s.light.txCount
  setPeer s q { p with req := { p.req with queue := p.req.queue.map fun t => if t.sent then t else { t with since := n } } }

/-- Send a frame of the request or response class; f gives what the message adds to the header. -/
def sendFrame (s : State) (q : Nat) (rsp : Bool) (f : Frame → Frame) : State :=
  let p := getPeer s q
  let c := classOf p rsp
  let m := f (frameOver s q (portOf s q))
  let fr := { m with cls := if rsp then 1 else 0, seq := c.tx, len := BitVec.ofNat 16 m.payload.length }
  presentPeer (setPeer s q (withClass p rsp { c with
    tx := c.tx + 1, queue := c.queue ++ [⟨fr, false, 0, tget 0 (portOf s q) s.light.txCount⟩] })) q

/-- A request of user u waits for its answer from peer q, of n receive units; it answers the XID. -/
def ask (s : State) (q : Nat) (u : User) (ofs addr n : Nat) : BitVec 16 × State :=
  let x := s.light.nextXid
  (x, { s with light := { s.light with nextXid := x + 1,
                                       asked := s.light.asked ++ [⟨x, u, ofs, q, addr, n⟩] } })

/-- Send a request that waits for an answer: what waits, the offset of its data, and its address (R390 XID). -/
def sendRequest (s : State) (q : Nat) (u : User) (ofs addr : Nat) (f : Frame → Frame) : State :=
  let a := ask s q u ofs addr (answerUnits (f (frameOver s q (portOf s q))))
  sendFrame a.2 q false fun fr => { f fr with xid := a.1 }

/-- Send a response (Table 13.4). -/
def sendResponse (s : State) (q : Nat) (type : BitVec 8) (xid : BitVec 16) (status : Nat) (flags : BitVec 8)
    (aux : Word) (payload : List Byte) : State :=
  sendFrame s q true fun fr =>
    { fr with type, xid, status := BitVec.ofNat 8 status, flags, aux, payload }

/-- Send a link-control frame over port n, if it is UP: type, SEQ and FLAGS (Table 13.4). -/
def ctlOver (s : State) (n q : Nat) (type : BitVec 8) (seq : Word) (flags : BitVec 8) : State :=
  if portIsUp s n then
    { s with light := { s.light with
        ctl := ((q, { frameOver s q n with type, cls := 2, seq, flags }) :: s.light.ctl).take 100 } }
  else s

/-- Send a link-control frame over the port that serves the peer. -/
def sendCtl (s : State) (q : Nat) (type : BitVec 8) : State := ctlOver s (portOf s q) q type 0 0

/-- Pieces of at most 4,096 bytes. -/
def chunks4k : Nat → List Byte → List (List Byte)
  | 0, _ => []
  | fuel + 1, bs => if bs = [] then [] else bs.take 4096 :: chunks4k fuel (bs.drop 4096)

/-- STATE frames of the record of slot i to peer q, with a move number and one XID (R401). -/
def sendState (s : State) (i q : Nat) (move : BitVec 16) (rcd : List Byte) : State :=
  let segs := chunks4k (rcd.length + 1) rcd
  let a := ask s q (.exp i) 0 0 1
  (segs.zipIdx).foldl (fun s e => sendFrame s q false fun fr =>
    { fr with type := 5, payload := e.1, xid := a.1,
              aux := BitVec.ofNat 32 (move.toNat + 65536 * e.2 + 16777216 * segs.length) }) a.2

/-- Drop frames of a move that have not been presented (R403). -/
def dropState (s : State) (q : Nat) (move : BitVec 16) : State :=
  let p := getPeer s q
  let keep := fun (t : TxFrame) => t.sent || !(decide (t.f.type = 5) && t.f.aux.setWidth 16 == move)
  let kept := p.req.queue.filter keep
  let rest := kept.filter fun t => !t.sent
  let tx := p.req.tx - BitVec.ofNat 32 (p.req.queue.length - kept.length)
  let queue := kept.filter (·.sent) ++ renumbered (tx - BitVec.ofNat 32 rest.length) rest
  setPeer s q { p with req := { p.req with queue, tx } }

/-- Send CANCEL of the move of slot i (R403). -/
def sendCancel (s : State) (i q : Nat) (move : BitVec 16) : State :=
  sendRequest s q (.exp i) 0 0 fun fr => { fr with type := 6, aux := move.setWidth 32 }

end Sys2Proof.Machine
end

