-- ==== Sys2Proof/Machine/Streams.lean ====
section
/-! DEFINITION. Streams: slots, committed copies, transitions of Table 01.5, export records and exports
(01_streams_and_state.md). -/

namespace Sys2Proof.Machine

/-- Code of a stream state (Table 01.2). -/
def streamCode : StreamState → Nat
  | .free => 0 | .idle => 1 | .queued => 2 | .resident => 3 | .pinned => 4 | .migrating => 5 | .exported => 6
  | .faulted => 7

/-- Bytes of a slot's state (R24). -/
def stateBytes (v : Slot) : Nat := (v.widthM1 + 1) * 256 * (if v.f32 then 4 else 8)

/-- At most 16 KiB (R25). -/
def isHalf (v : Slot) : Bool := decide (stateBytes v ≤ 16384)

/-- First byte of half h of slot i in the Sinter store. -/
def slotBase (i : Nat) (h : Bool) : Nat := i * Config.slotBytes + (if h then 16384 else 0)

/-- The committed copy of slot i (R25, R26). -/
def committed (s : State) (i : Nat) : Mem :=
  let v := getSlot s i
  slice s.sinter (slotBase i (isHalf v && v.half)) (stateBytes v)

/-- Slot-table entry as 32 bytes (Table 01.2); a held slot reads as FREE (13 R401). -/
def slotEntry (v : Slot) : List Byte :=
  leBytes 4 (streamCode v.st + 8 * b2n v.f32 + 16 * b2n v.half + 32 * v.widthM1 + 1024 * b2n v.resValid
      + 2048 * v.resCal + 8192 * v.resRow + 2097152 * v.resSlot)
    ++ leBytes 4 v.gen.toNat ++ leBytes 4 v.seq.toNat ++ leBytes 8 v.steps.toNat ++ leBytes 8 v.commit.toNat
    ++ leBytes 4 (v.chan + 256 * b2n v.chValid + 512 * min v.qdepth 255)

/-- Release a stream's array row (R42): RES_VALID clears; a RESIDENT stream becomes QUEUED or IDLE. -/
def evict (s : State) (i : Nat) : State :=
  updSlot s i fun v =>
    { v with resValid := false,
             st := if v.st = .resident then (if 0 < v.qdepth then .queued else .idle) else v.st }

/-- Free a slot and wipe it; generation counter and retirement stay (Table 01.5, R445). -/
def freeSlot (s : State) (i : Nat) : State :=
  let v := getSlot s i
  { setSlot s i { gen := v.gen, retired := v.retired } with
    sinter := clearRange s.sinter (i * Config.slotBytes) Config.slotBytes }

/-- A stream becomes FAULTED, with its event and cause (R33, 14 R431). -/
def faultStream (s : State) (i cause : Nat) : State :=
  let v := getSlot s i
  postEvent (setSlot s i { v with st := .faulted, resValid := false }) v.part 0x0001
    (leBytes 4 (streamHandle s i).toNat ++ leBytes 1 cause)

/-- A slot that an allocation may take (R48, 13 R401, 14 R423). -/
def slotFree (s : State) (i : Nat) : Bool :=
  let v := getSlot s i
  decide (v.st = .free) && !v.held && !v.retired

/-- Slots of quadrant q that an allocation may take, in order. -/
def freeIn (s : State) (q : Nat) : List Nat := ((List.range 1024).map (q * 1024 + ·)).filter (slotFree s)

/-- Calderas of a partition. -/
def calsOf (s : State) (p : Nat) : List Nat := (List.range 4).filter fun c => (getCal s c).part == p

/-- The slot an allocation takes (R48): the lowest free one of the quadrant asked for, or with 0xFF of the quadrant
of the partition with the most free slots, the lowest quadrant winning a tie. -/
def chooseSlot (s : State) (quads : List Nat) (quad : Nat) : Option Nat :=
  let q := if quad = 0xFF then
      quads.foldl (fun b q => match b with
        | none => some q
        | some b => if (freeIn s b).length < (freeIn s q).length then some q else some b) none
    else some quad
  q.bind fun q => (freeIn s q).head?

/-- The state a new stream starts from (R21, Table 01.5). -/
def newStream (s : State) (i part : Nat) (f32 : Bool) (widthM1 : Nat) : State :=
  let v := getSlot s i
  { setSlot s i { st := .idle, f32, widthM1, part, retired := v.retired, gen := BitVec.ofNat 20 (nextGen 20 v.gen.toNat) } with
    sinter := clearRange s.sinter (i * Config.slotBytes) Config.slotBytes }

/-- Export record of slot i (Table 01.6). -/
def exportRecord (s : State) (i : Nat) : List Byte :=
  let v := getSlot s i
  let body := loadBytes (committed s i) 0 (stateBytes v)
  let head := leBytes 4 0x464C5354 ++ leBytes 2 1 ++ leBytes 1 (b2n v.f32) ++ leBytes 1 v.widthM1
    ++ leBytes 4 v.seq.toNat ++ leBytes 4 (streamHandle s i).toNat ++ leBytes 8 v.steps.toNat
    ++ leBytes 8 v.commit.toNat ++ leBytes 1 s.straps.peerId.val ++ leBytes 3 0 ++ leBytes 4 (crc32c body)
    ++ leBytes 20 0
  head ++ leBytes 4 (crc32c head) ++ leBytes 192 0 ++ body

/-- Bytes of an export record (R43). -/
def recordBytes (v : Slot) : Nat := 256 + stateBytes v

/-- Begin a peer export (R46, 13 R401). -/
def startPeerExport (s : State) (i q : Nat) : State :=
  let rcd := exportRecord s i
  let mv := s.light.move
  let s1 := updSlot (evict s i) i fun v => { v with st := .migrating }
  let e : Export := ⟨i, some q, false, 0, rcd, mv, false, false⟩
  sendState { s1 with light := { s1.light with move := mv + 1 }, exports := s1.exports ++ [e] } i q mv rcd

/-- Drop the export of slot i, and the requests that wait for its SRESULT. -/
def dropExport (s : State) (i : Nat) : State :=
  let l := { s.light with asked := s.light.asked.filter fun a => decide (a.user ≠ .exp i) }
  dropJob { s with exports := s.exports.filter (fun e => e.slot ≠ i), light := l } (.exp i)

/-- An export is confirmed (Table 01.5): slot wiped, EXPORT_DONE with the new handle, 0 for a region. -/
def exportDone (s : State) (i : Nat) (new : Word) : State :=
  let v := getSlot s i
  postEvent (freeSlot (dropExport s i) i) v.part 0x0002
    (leBytes 4 (streamHandle s i).toNat ++ leBytes 4 new.toNat)

/-- An export fails (Table 01.5, R47, R39): the stream is IDLE again, or FAULTED when its copy is known damaged. -/
def exportFail (s : State) (i status : Nat) : State :=
  let v := getSlot s i
  let bad := s.exports.any fun e => e.slot == i && e.poisoned
  let s1 := postEvent (setSlot (dropExport s i) i { v with st := .idle }) v.part 0x0003
    (leBytes 4 (streamHandle s i).toNat ++ leBytes 1 status)
  if bad then faultStream s1 i 0x01 else s1

/-- Begin a region export (R45): bytes 256 on, a fence, bytes 0 to 255, a second fence. While the host link is
down an export to a host region fails (R47, 12 R382). -/
def startRegionExport (s : State) (i : Nat) (reg : BitVec 16) (ofs : Nat) : State :=
  let r := getRegion s (regIdx reg)
  let rcd := exportRecord s i
  let a := r.base + ofs
  let s1 := updSlot (evict s i) i fun v => { v with st := .migrating }
  let w1 := writeBursts r.host (a + 256) (rcd.drop 256)
  let w2 := writeBursts r.host a (rcd.take 256)
  let e : Export := ⟨i, none, r.host, a, rcd, 0, false, false⟩
  let s2 := addJob { s1 with exports := s1.exports ++ [e] } (.exp i)
    [w1, fenceBursts r.host w1, w2, fenceBursts r.host w2]
  if r.host = true ∧ hostUp s = false then exportFail s2 i stHostLost else s2

end Sys2Proof.Machine
end

