-- ==== Sys2Proof/Machine/Items.lean ====
section
/-! DEFINITION. Work items: who is quiescent, completing an item, leaving a window, stopping an attempt, and the
commands that wait for an item (01 R41, 07 R256, 08 R269, R276, 11 R341, 14 R418, R428). -/

namespace Sys2Proof.Machine

/-- A context is quiescent (14 R428): no operation, transfer or lookup it issued, ahead of its turn or in it, is left.
-/
def quiescent (s : State) (x : Nat) : Bool :=
  let c := getCal s (ctxCal x)
  c.runs.all (·.ctx ≠ x) && c.ops.all (·.ctx ≠ x) && c.feeds.all (·.ctx ≠ x) && c.lookups.all (·.ctx ≠ x)
    && c.ahead.all (·.t.ctx ≠ x) && (allXfers s).all (·.ctx ≠ x)

/-- Transfers and lookups of a context that stops: those not started are discarded, the others run on and signal
nothing (08 R269, R273). -/
def muteMoves (s : State) (x : Nat) : State :=
  let s1 := (List.range 20).foldl (fun s k =>
    let l := engList s k
    if l.any (·.ctx == x) then
      setEng s k ((l.filter fun t => t.ctx ≠ x || t.started).map fun t =>
        if t.ctx = x then { t with mute := true } else t)
    else s) s
  updCal s1 (ctxCal x) fun c =>
    { c with lookups := c.lookups.map (fun l => if l.ctx = x then { l with mute := true } else l),
             ahead := c.ahead.filter (·.t.ctx ≠ x) }

/-- The slots that a context's prefetch unit has issued ahead are not reached any more: their transfers and lookups end
as those of a halted item (08 R280). -/
def dropPre (s : State) (x : Nat) : State :=
  let mine := fun (t : Xfer) => t.ctx == x && t.pre
  let s1 := (List.range 20).foldl (fun s k =>
    let l := engList s k
    if l.any mine then
      setEng s k ((l.filter fun t => !mine t || t.started).map fun t => if mine t then { t with mute := true } else t)
    else s) s
  let s2 := updCal s1 (ctxCal x) fun c =>
    { c with lookups := c.lookups.map (fun l => if l.ctx = x ∧ l.pre = true then { l with mute := true } else l),
             ahead := c.ahead.filter fun a => !mine a.t }
  updCtx s2 x fun c => { c with pre := [] }

/-- Key of a semaphore: local i of Caldera c, or global i. -/
def semKey (glob : Bool) (c i : Nat) : Nat := if glob then 1024 + i else 256 * c + i

/-- Payload of SEM_SATURATED (09 Table 09.17). -/
def semPayload (k : Nat) : List Byte :=
  if 1024 ≤ k then leBytes 1 (k - 1024) ++ leBytes 1 1 ++ leBytes 1 0
  else leBytes 1 (k % 256) ++ leBytes 1 0 ++ leBytes 1 (k / 256)

/-- Add n to a semaphore (08 R271): past 65,535 it saturates and the event is posted. -/
def semAdd (s : State) (k n : Nat) : State :=
  let v := getSem s k
  if 65535 < v.value + n then
    postEvent (setSem s k { v with value := 65535, sat := true }) v.part 0x0006 (semPayload k)
  else setSem s k { v with value := v.value + n }

/-- Streams an item names, with their rows, that still pass the handle check. -/
def rowsOf (s : State) (i : Item) : List (Nat × Nat) :=
  ((i.e.streams.zipIdx).filter fun p => streamOk s p.1).map fun p => (p.2, slotOf p.1)

/-- Rows an item uses (01 R35). -/
def usedRows (s : State) (i : Item) : List (Nat × Nat) :=
  (rowsOf s i).filter fun p => !i.rowFault.getLsbD p.1

/-- An item names the stream in slot v. -/
def namesSlot (s : State) (v : Nat) (i : Item) : Bool := i.e.streams.any fun h => h == streamHandle s v

/-- A chunk of the stream in slot v is dispatched. -/
def dispatched (s : State) (v : Nat) : Bool := s.items.any fun i => inWindow i && namesSlot s v i

/-- A chunk of the stream in slot v has entered a window and has not committed or completed: it is dispatched, or a
fence has sent it back to its queue (01 R41; 14 R421, R422). -/
def underway (s : State) (v : Nat) : Bool := s.items.any fun i => (inWindow i || i.back) && namesSlot s v i

/-- One chunk of a stream ends without a commit (Table 01.5, 01 R18). A half-slot stream whose committed copy a scrub
has marked damaged while it was PINNED then stands as R39 has an IDLE or QUEUED stream with that error: it is FAULTED.
R39 itself names only the commit and the replay (DESIGN CHOICE, log entry 155). -/
def endChunk (s : State) (v : Nat) : State :=
  let w0 := getSlot s v
  let d := w0.qdepth - 1
  let out := decide (w0.st = .pinned) && !dispatched s v
  let s1 := updSlot s v fun w =>
    { w with qdepth := d, chValid := w.chValid && decide (0 < d),
             resValid := w.resValid && decide (w.st ≠ .pinned),
             st := if out then (if 0 < d then .queued else .idle)
                   else if w.st = .queued ∧ d = 0 then .idle else w.st }
  if out = true ∧ w0.damaged = true then faultStream s1 v 0x01 else s1

/-- Deferred ECI writes into a context (07 R239, 09 R305) in the order taken. -/
def applyDefer (s : State) (x : Nat) : State :=
  let c := getCtx s x
  let s1 := updCtx s x fun c => { c with defer := [] }
  c.defer.foldl (fun s w =>
    match w with
    | .desc first bs => updCal s (ctxCal x) fun k => { k with spad := storeBytes k.spad (descAddr x first) bs }
    | .astat w => updCtx s x fun c => { c with astat := (c.astat &&& 0x1F) ||| (w &&& 0x700) }
    | .seed w => updCtx s x fun c => { c with sr := w }) s1

/-- Numbers of the halves a grant holds. -/
def halfList (b : BitVec 4) : List Nat := (List.range 4).filter fun h => b.getLsbD h

/-- Halves become EMPTY (02 R66). -/
def emptyHalves (s : State) (c : Nat) (b : BitVec 4) : State :=
  updCal s c fun k => { k with halves := (halfList b).foldl (fun h n => tput {} n {} h) k.halves }

/-- The staged item of a Caldera without an executing item is the one that entered its window first now (11 R340,
R341). -/
def promote (s : State) (c : Nat) : State :=
  match execItem s c, stagedItem s c with
  | none, some i => setItem s { i with place := .exec }
  | _, _ => s

/-- Nothing of a dispatcher restore of an item is under way. -/
def dropRest (s : State) (i : Item) : State :=
  updCal s i.cal fun k =>
    { k with rest := k.rest.filter fun u => u.ctx ≠ i.ctx, rbuf := k.rbuf.filter fun u => u.ctx ≠ i.ctx }

/-- What an item's leaving its window does (02 R66, 07 R239, 11 R341); the item is already out of the list, the reads of
its lists and its restore end for nobody, and a halt request that it has not met has no effect any more (07 R257). -/
def leaveWindow (s : State) (i : Item) : State :=
  promote (applyDefer (updCtx (emptyHalves (dropRest (dropUsers s (itemUser i)) i) i.cal i.halves) i.ctx fun c =>
    { c with haltReq := false }) i.ctx) i.cal

/-- The record an item's completion owes (09 R311); a HOST_LOST channel posts none (12 R381). -/
def owePost (s : State) (i : Item) (status : Nat) : State :=
  if (getChan s i.ch).st = .hostLost ∨ i.silent = true then s
  else { s with posts := s.posts ++ [
      { ch := i.ch, seq := i.seq, status := status, replayed := i.replayed, irq := i.e.irq,
        astat := if inWindow i then (getCtx s i.ctx).astat &&& 0x1F else 0, user := i.e.user, ctx := i.ctx,
        img := i.img, halt := i.halt, rowFault := i.rowFault, deadline := i.deadline, ports := i.ports }] }

/-- The transition of a STREAM_EXPORT whose stream has no chunk left (01 R41, step 3): the export starts, unless its
stream has become FAULTED or its region has gone in the meantime. -/
def forceExport (s : State) (m v : Nat) : State :=
  let c := (getMb s m).cmd
  let h := BitVec.ofNat 16 (load c 14 2)
  if (getSlot s v).st = .faulted then respond s m stStreamFaulted 0 []
  else if load c 13 1 = 1 then respond (startPeerExport s v (load c 20 1)) m stOk 0 []
  else if regLive s (getSlot s v).part h = false then respond s m stStaleHandle 0 []
  else if (getRegion s (regIdx h)).invalid then respond s m stHostLost 0 []
  else respond (startRegionExport s v h (load c 16 4)) m stOk 0 []

/-- Start of the FORCE transitions that waited for a dispatched chunk (01 R41, step 3). -/
def resolveForce (s : State) : State :=
  (List.range 16).foldl (fun s m =>
    let b := getMb s m
    if b.st ≠ .busy then s
    else match b.wait with
      | .export_ v => if underway s v then s else forceExport s m v
      | .destroy v => if underway s v then s else respond (freeSlot s v) m stOk 0 []
      | _ => s) s

/-- Channels whose destroy waits are done once no item and no record of theirs is left (09 R315). -/
def resolveChDestroy (s : State) : State :=
  (List.range 16).foldl (fun s m =>
    let b := getMb s m
    match b.st, b.wait with
    | .busy, .chDestroy ch =>
      if s.items.all (·.ch ≠ ch) ∧ s.posts.all (·.ch ≠ ch) then
        respond (setChan (dropChan s ch) ch { gen := (getChan s ch).gen }) m stOk 0 []
      else s
    | _, _ => s) s

/-- The full-slot states of an item that leaves its window without a commit are again those of its starting copies,
since the attempt may have written them in place (01 R36, R55, Table 01.5). Publication does not check that an image's
SPAD_KIB has room for the starting copies, and the spec does not say what follows where it has not: the model keeps what
fits, and takes the rest of a copy from the scratchpad bytes behind the reservation (DESIGN CHOICE, log entry 157). -/
def putBack (s : State) (i : Item) : State :=
  (usedRows s i).foldl (fun s e =>
    let v := getSlot s e.2
    match i.starts.find? fun p => decide (p.1 = e.1) with
    | none => s
    | some p =>
      if isHalf v = true ∨ v.st ≠ .pinned then s
      else
        { setSlot s e.2 { v with damaged := false } with
          sinter := storeBytes s.sinter (slotBase e.2 false) (loadBytes (getCal s i.cal).spad p.2 (stateBytes v)) })
    s

/-- An item completes without committing (08 R276, Table 01.5): its acquisitions go back, its streams' chunk ends,
its record is owed, its window is left. -/
def finishItem (s : State) (i : Item) (status : Nat) : State :=
  let s0 := if inWindow i then putBack s i else s
  let s1 := owePost { s0 with items := delFirst (sameItem i) s0.items } i status
  let s2 := i.acqs.foldl (fun s a => semAdd s a.sem a.taken) s1
  let s3 := (rowsOf s2 i).foldl (fun s p => endChunk s p.2) s2
  let s4 := if inWindow i then leaveWindow s3 i else s3
  resolveChDestroy (resolveForce s4)

/-- Complete the queued items that meet p, each with a status (01 R41, 09 R315). -/
def cancelQueued (s : State) (p : Item → Bool) (status : Nat) : State :=
  (s.items.filter fun i => p i && !inWindow i).foldl (fun s i => finishItem s i status) s

/-- An ADD transfer adds into integrator memory, a peer, or the scratchpad of another Caldera: R420 of chapter 14
excludes its attempt from replay once it has performed an add. -/
def farAdd (t : Xfer) : Bool :=
  t.add && (t.dst.space == 4 || t.dst.space == 2 || t.dcal != ctxCal t.ctx)

/-- The work item whose attempt issued a transfer has performed an add that excludes it from replay (14 R420). -/
def noteAdd (s : State) (t : Xfer) : State :=
  match winItemOf s t.ctx with
  | some i => if farAdd t = true ∧ i.ch = t.ch ∧ i.seq = t.seq then setItem s { i with adds := true } else s
  | none => s

/-- A halted or failed item completes once its context is quiescent (07 R256, 14 R420, R421). -/
def settle (s : State) (x : Nat) : State :=
  match winItemOf s x with
  | none => s
  | some i =>
    if quiescent s x = false then s
    else if i.halt.reason ≠ 0 then finishItem s i stHalted
    else if i.stopped = true ∧ (i.fail || i.adds) = true then finishItem s i stFaulted
    else s

/-- Halt at an issue: the record, the transfers of R269, and the completion if nothing is left (07 R255, R256). -/
def haltIssue (s : State) (x ofs slot reason : Nat) (detail : Word) : State :=
  settle (muteMoves (haltCtx s x ofs slot reason detail) x) x

/-- Stop an item's attempt (14 R418). -/
def stopAttempt (s : State) (i : Item) : State :=
  let s1 := setItem s { i with stopped := true, ended := false }
  muteMoves (updCtx s1 i.ctx fun c => { c with bun := none, pre := [], cause := 0x10 }) i.ctx

end Sys2Proof.Machine
end

