-- ==== Sys2Proof/Machine/Seq.lean ====
section
/-! DEFINITION. The sequencer: fetch, bundles, issue of a slot, hardware loops, and the SEQ slot
(07_programs.md R207 to R224, R241 to R244). -/

namespace Sys2Proof.Machine

/-! ### Fetch -/

/-- Set of a line in either cache level (R241). -/
def lineSet (img : BitVec 16) (line : Nat) : Nat := Nat.xor (line % 512) (8 * imgIdx img % 512)

/-- The cached line of an image. -/
def cachedLine (ls : List CLine) (img : BitVec 16) (line : Nat) : Option CLine :=
  ls.find? fun l => l.img == img && l.line == line

/-- Code word at offset ofs of an image, from a Caldera's instruction cache. -/
def codeWord (s : State) (c : Nat) (img : BitVec 16) (ofs : Nat) : Option Nat :=
  (cachedLine (getCal s c).icache img (ofs / 256)).map fun l => ofLe ((l.data.drop (ofs % 256)).take 4)

/-- n code words from ofs; none when a line is missing. -/
def codeWords (s : State) (c : Nat) (img : BitVec 16) : Nat → Nat → Option (List Word)
  | 0, _ => some []
  | n + 1, ofs =>
    match codeWord s c img ofs, codeWords s c img n (ofs + 4) with
    | some w, some r => some (BitVec.ofNat 32 w :: r)
    | _, _ => none

/-- Where a code line lies in its image's backing store, when that can be read: memory and address (R243; 12 R382). -/
def linePlace (s : State) (img : BitVec 16) (line : Nat) : Option (Bool × Nat) :=
  let i := imgOf s img
  if regValid s i.reg = true ∧ (i.host = false ∨ hostUp s = true) then
    some (i.host, i.addr + i.codeOfs + 256 * line)
  else none

/-- Request a line from its backing store, through the Memory Port or the Host Port (R242). -/
def readLine (s : State) (c : Nat) (img : BitVec 16) (line : Nat) : State :=
  match linePlace s img line with
  | none => s
  | some p => addJob s (.fetch c img line) [readBursts p.1 p.2 256]

/-- Ask for a line, for a waiting context or as the sequential request of R242: of the second level, and on a miss there
of the backing store. -/
def askLine (s : State) (c : Nat) (img : BitVec 16) (line : Nat) : State :=
  let k := getCal s c
  if (cachedLine k.icache img line).isSome || k.fetches.any (fun f => f.img == img && f.line == line) then s
  else
    let s1 := setCal s c { k with fetches := k.fetches ++ [⟨img, line, 0⟩] }
    if (cachedLine s.l2 img line).isSome then s1 else readLine s1 c img line

/-- Drop a Caldera's request for a line. -/
def dropFetch (s : State) (c : Nat) (img : BitVec 16) (line : Nat) : State :=
  dropJob (updCal s c fun k => { k with fetches := k.fetches.filter fun g => !(g.img == img && g.line == line) })
    (.fetch c img line)

/-- Lines of n bytes of code from ofs that a Caldera does not hold. -/
def missing (s : State) (c : Nat) (img : BitVec 16) (ofs n : Nat) : List Nat :=
  ((List.range ((ofs + n - 1) / 256 + 1 - ofs / 256)).map (ofs / 256 + ·)).filter fun l =>
    (cachedLine (getCal s c).icache img l).isNone

/-- Move the lines of a bundle to the front of the cache's recency order (R241, least recently used). -/
def touchLines (s : State) (c : Nat) (img : BitVec 16) (ofs n : Nat) : State :=
  updCal s c fun k =>
    let used := fun (l : CLine) => l.img == img && decide (ofs / 256 ≤ l.line) && decide (l.line ≤ (ofs + n - 1) / 256)
    { k with icache := k.icache.filter used ++ k.icache.filter fun l => !used l }

/-! ### Bundles -/

/-- Words of each slot (Table 07.2). -/
def slotWords : SlotK → Nat
  | .seq => 1 | .mat => 2 | .vec => 2 | .sfu => 1 | .mov => 2 | .syn => 1

/-- Slots a header's PRESENT names, in header order (R207). -/
def presentSlots (h : Nat) : List SlotK :=
  ([SlotK.seq, .mat, .vec, .sfu, .mov, .syn].zipIdx.filter fun p => bit h p.2).map (·.1)

/-- Number of a slot in a halt record (R256). -/
def slotNo : SlotK → Nat
  | .seq => 0 | .mat => 1 | .vec => 2 | .sfu => 3 | .mov => 4 | .syn => 5

/-- Check of a header at ofs (R208, R477): the first failure, or none. -/
def headerFault (codeSize ofs h : Nat) : Option Nat :=
  let len := bits h 15 8
  if bits h 7 6 ≠ 0 ∨ bits h 31 18 ≠ 0 then some hReservedField
  else if len ≠ 1 + ((presentSlots h).map slotWords).sum then some hBundleLength
  else if codeSize < ofs + 4 * len then some hCodeEnd
  else none

/-- What a context has next. -/
inductive Turn where
  /-- Nothing may issue. -/
  | idle
  /-- The next bundle waits for these lines. -/
  | fetch (s : State) (lines : List Nat)
  /-- The context halts for a header or fetch reason at a code offset (slot 7). -/
  | halt (ofs reason : Nat)
  /-- A bundle with no slot. -/
  | empty (s : State)
  /-- The next slot, its bits, the code offset of its bundle, and the state with that bundle entered. -/
  | slot (s : State) (k : SlotK) (w ofs : Nat)
  deriving DecidableEq, Repr

/-- The context may issue in program order: its item is executing, started, and not stopped (R211, 11 R340). -/
def mayIssue (s : State) (x : Nat) (i : Item) : Bool :=
  let c := getCtx s x
  decide (0 < i.attempt) && !i.restoring && !i.stopped && !c.halted && i.entered
    && !(getCal s (ctxCal x)).fenced && decide (s.life.phase = .running)

/-- Bits of the next slot. -/
def slotBits (k : SlotK) (ws : List Word) : Nat :=
  (ws.headD 0).toNat + (if slotWords k = 2 then 4294967296 * (ws.getD 1 0).toNat else 0)

/-- Turn inside a bundle that has been entered. -/
def turnIn (s : State) (b : Bun) : Turn :=
  match b.rest with
  | [] => .empty s
  | k :: _ => .slot s k (slotBits k b.words) b.ofs

/-- Resolve a bundle to step over (R223): the offset after it, lines to fetch, or a halt. -/
def overBundle (s : State) (c : Nat) (img : BitVec 16) (codeSize ofs : Nat) : Except Turn Nat :=
  if codeSize ≤ ofs then .error (.halt ofs hCodeEnd)
  else
    match codeWord s c img ofs with
    | none => .error (.fetch s [ofs / 256])
    | some h =>
      match headerFault codeSize ofs h with
      | some r => .error (.halt ofs r)
      | none => .ok (ofs + 4 * bits h 15 8)

/-- A bundle at pc starts beyond the innermost loop's end offset, without one having started at that offset in the
current iteration (R223). -/
def outOfLoop (ls : List LoopE) (pc : Nat) : Bool :=
  match ls with
  | [] => false
  | l :: _ => decide (l.endOfs < pc) && !l.hit

/-- A bundle starts at pc: the active loops whose end offset that is have met it in their current iteration (R223). -/
def meetEnds (ls : List LoopE) (pc : Nat) : List LoopE := ls.map fun l => { l with hit := l.hit || l.endOfs == pc }

/-- Enter the bundle at pc (R208, R209, R212, R223, R477). -/
def enterBundle (s : State) (x pc : Nat) (img : BitVec 16) (codeSize : Nat) : Turn :=
  let c := getCtx s x
  if outOfLoop c.loops pc then .halt pc hLoopRange
  else if codeSize ≤ pc then .halt pc hCodeEnd
  else
    match codeWord s (ctxCal x) img pc with
    | none => .fetch s [pc / 256]
    | some h =>
      match headerFault codeSize pc h with
      | some r => .halt pc r
      | none =>
        match codeWords s (ctxCal x) img (bits h 15 8 - 1) (pc + 4) with
        | none => .fetch s (missing s (ctxCal x) img pc (4 * bits h 15 8))
        | some ws =>
          let b : Bun := ⟨pc, bits h 15 8, bit h 17, ws, presentSlots h, c.loops.isEmpty⟩
          let s1 := touchLines (setCtx s x { c with pc := pc, stepOver := false, bun := some b, cPrev := c.c,
                                                    goto := none, dbgStep := false, loops := meetEnds c.loops pc })
            (ctxCal x) img pc (4 * b.len)
          let last := c.trace.getLast?.map fun t => (t.1 / 256, t.2.1)
          let s2 := if last = some (pc / 256, img) ∨ codeSize ≤ (pc / 256 + 1) * 256 then s1
                    else askLine s1 (ctxCal x) img (pc / 256 + 1)
          turnIn s2 b

/-- The forward phase of a training item's attempt ends here, where that of an earlier attempt did (05 R161). -/
def turnsHere (i : Item) (c : Ctx) : Bool := !i.fwdDone && decide (i.fwdAt = some c.bundles)

/-- What context x has next. -/
def nextTurn (s : State) (x : Nat) : Turn :=
  match itemOf s x with
  | none => .idle
  | some i =>
    let c := getCtx s x
    if mayIssue s x i = false then .idle
    else
      match c.bun with
      | some b => turnIn s b
      | none =>
        if i.ended = true ∨ turnsHere i c = true ∨ c.haltReq = true ∨ (c.dbgHalt = true ∧ c.dbgStep = false) then .idle
        else
          let cs := (imgOf s i.img).codeSize
          if c.stepOver then
            match overBundle s (ctxCal x) i.img cs c.pc with
            | .error t => t
            | .ok pc => enterBundle s x pc i.img cs
          else enterBundle s x c.pc i.img cs

/-! ### The end of a bundle -/

/-- Loop-back at the end bundle (R221): where the context continues, the loops left, and the index counter to
write. -/
def loopBack (ofs : Nat) : List LoopE → Option Nat × List LoopE × Option (Nat × Nat)
  | [] => (none, [], none)
  | l :: r =>
    if l.endOfs = ofs then
      if 1 < l.count then
        (some l.start, { l with count := l.count - 1, iter := l.iter + 1, hit := false } :: r, l.idx.map fun d => (d, l.iter + 1))
      else loopBack ofs r
    else (none, l :: r, none)

/-- A replacement of the image that is in progress (R252): its new image. -/
def replacing (s : State) (img : BitVec 16) : Option (BitVec 16) :=
  (List.range 16).findSome? fun m =>
    match (getMb s m).st, (getMb s m).wait with
    | .busy, .replace old new => if old = img then some new else none
    | _, _ => none

/-- The image switch that the bundle just issued makes (R252, R253): new image and code offset. The loop stack is empty
when the context reaches the bundle, and its SEQ slot has pushed no loop. -/
def switchAt (s : State) (i : Item) (b : Bun) (c : Ctx) : Option (BitVec 16 × Nat) :=
  if b.yield = false ∨ b.outer = false ∨ c.loops ≠ [] then none
  else
    let new := if i.replayed ∧ i.third = false then
        (i.switch.find? (·.1 == i.yields + 1)).map (·.2)
      else replacing s i.img
    match new, findIdx? (· == b.ofs) (imgOf s i.img).yields with
    | some n, some y => some (n, (imgOf s n).yields.getD y 0)
    | _, _ => none

/-- The bundle has issued: trace, watchdog, loop-back, image switch, next PC (R210, R221, R252). -/
def endBundle (s : State) (x : Nat) (b : Bun) : State :=
  let c := getCtx s x
  match itemOf s x with
  | none => s
  | some i =>
    let lb := loopBack b.ofs c.loops
    let sw := if i.ended then none else switchAt s i b c
    let seqPc := b.ofs + 4 * b.len
    let tgt : Nat × Bool := match lb.1, c.goto with
      | some p, _ => (p, false)
      | none, some g => g
      | none, none => (seqPc, false)
    let tgt := match sw with
      | some q => (q.2, false)
      | none => tgt
    let cs := match lb.2.2 with
      | some e => tput 0 e.1 (BitVec.ofNat 32 e.2) c.c
      | none => c.c
    let s1 := setCtx s x
      { c with pc := tgt.1, stepOver := tgt.2, bun := none, goto := none, loops := lb.2.1, c := cs,
               bundles := c.bundles + 1, beat := timeNow s, issued := true, cause := 14,
               trace := (c.trace ++ [(b.ofs, i.img, s.clk)]).drop (c.trace.length - 63) }
    let y := if b.yield then i.yields + 1 else i.yields
    match sw with
    | some q =>
      let mark := if i.switch.contains (y, q.1) then i.switch else i.switch ++ [(y, q.1)]
      dropPre (setItem s1 { i with yields := y, img := q.1, imgs := i.imgs ++ [q.1], switch := mark }) x
    | none => setItem s1 { i with yields := y }

/-- The first slot of the bundle has issued (R210). -/
def endSlot (s : State) (x : Nat) : State :=
  let c := getCtx s x
  match c.bun with
  | none => s
  | some b =>
    match b.rest with
    | [] => endBundle s x b
    | k :: r =>
      let b1 := { b with rest := r, words := b.words.drop (slotWords k) }
      let s1 := setCtx s x { c with bun := some b1, issued := true, cause := 14 }
      if c.halted = true ∨ r ≠ [] then s1 else endBundle s1 x b1

/-! ### Issue of a slot -/

/-- What an issue gives: it waits for a cause (08 Table 08.4), halts, takes effect, or has taken it before. -/
inductive Res where
  | wait (cause : Nat)
  | halt (reason : Nat) (detail : Word)
  | done (s : State)
  /-- The context reaches a slot that its prefetch unit has issued before (08 R279): nothing issues in this cycle. -/
  | reached (s : State)
  deriving DecidableEq, Repr

/-- The oldest unissued slot waits. -/
def waitSlot (s : State) (x cause : Nat) : State :=
  updCtx s x fun c => { c with cause := cause, since := if c.cause = cause then c.since else s.clk }

/-- Opcodes each slot knows (Tables 07.4, 07.7, 07.9 to 07.12). -/
def knownOp (k : SlotK) (w : Nat) : Bool :=
  let o := bits w 5 0
  match k with
  | .seq => [0, 1, 2, 3, 4, 5, 6, 7, 8, 9, 0x10, 0x11, 0x18, 0x19, 0x1A, 0x20, 0x21, 0x28, 0x29, 0x2A, 0x3F].contains o
  | .mat => decide (1 ≤ o) && decide (o ≤ 0xB)
  | .vec => [1, 2, 3, 4, 5, 6, 7, 8, 9, 0xA, 0xB, 0xC, 0xD, 0xE, 0x10, 0x11, 0x12, 0x13, 0x14, 0x15, 0x16, 0x18,
      0x19, 0x1A, 0x1B, 0x1C, 0x20, 0x21, 0x22, 0x23, 0x28, 0x29].contains o
  | .sfu => decide (bits w 4 0 ≤ 5) || decide (16 ≤ bits w 4 0)
  | .mov => decide (1 ≤ o) && decide (o ≤ 3)
  | .syn => decide (1 ≤ o) && decide (o ≤ 3)

/-- An opcode that its slot does not know halts the context (R215, R229, R230, Table 07.16). -/
def unknownReason : SlotK → Nat
  | .sfu => hSfuFunction
  | _ => hBadOpcode

/-- Issue of the next slot of context x as a command of slot k whose opcode bits pass `mine`: `f` gets the state with
the bundle entered, the slot's bits and the bundle's offset. When the next slot is another one, nothing happens;
a header that fails its checks, an opcode that no slot instruction has, and a missing line act whichever command
asks (log entry 1). -/
def issueSlot (x : Nat) (k : SlotK) (mine : Nat → Bool) (f : State → Nat → Nat → Res) (s : State) :
    Host.Outcome State Fault Refusal :=
  match nextTurn s x with
  | .idle => .next s
  | .fetch s1 lines =>
    match itemOf s x with
    | none => .next s
    | some i => .next (waitSlot (lines.foldl (fun s l => askLine s (ctxCal x) i.img l) s1) x 0x0E)
  | .halt ofs r => .next (haltIssue s x ofs 7 r 0)
  | .empty _ => .next s
  | .slot s1 k' w ofs =>
    if knownOp k' w = false then .next (haltIssue s1 x ofs (slotNo k') (unknownReason k') 0)
    else if k' ≠ k ∨ mine w = false then .next s
    else
      match f s1 w ofs with
      | .wait c => .next (waitSlot s1 x c)
      | .halt r d => .next (haltIssue s1 x ofs (slotNo k) r d)
      | .done s2 => .next (settle (endSlot s2 x) x)
      | .reached s2 => .next (settle (updCtx (endSlot s2 x) x fun c => { c with issued := (getCtx s x).issued }) x)

/-- BUNDLE_NOP (R208): a bundle with no slot issues. -/
def execBundleNop (x : Fin 64) (s : State) : Host.Outcome State Fault Refusal :=
  match nextTurn s x.val with
  | .idle => .next s
  | .fetch s1 lines =>
    match itemOf s x.val with
    | none => .next s
    | some i => .next (waitSlot (lines.foldl (fun s l => askLine s (ctxCal x.val) i.img l) s1) x.val 0x0E)
  | .halt ofs r => .next (haltIssue s x.val ofs 7 r 0)
  | .empty s1 => .next (endSlot s1 x.val)
  | .slot _ _ _ _ => .next s

/-! ### SEQ slot (R215, Table 07.4) -/

/-- Opcode of a slot. -/
def opIs (o w : Nat) : Bool := bits w 5 0 == o

/-- Counter as the SEQ slot reads it. -/
def seqC (s : State) (x n : Nat) : Word := ctr (getCtx s x) n

/-- Write a counter: in place for the next bundle (R212). -/
def putC (s : State) (x n : Nat) (v : Word) : State := updCtx s x fun c => { c with c := tput 0 n v c.c }

/-- Write a comparator. -/
def putK (s : State) (x n : Nat) (v : Bool) : State :=
  updCtx s x fun c => { c with k := if v then c.k ||| BitVec.ofNat 8 (2 ^ n) else c.k &&& ~~~(BitVec.ofNat 8 (2 ^ n)) }

/-- Bits of w outside a mask of used bits are zero; otherwise RESERVED_FIELD (R215). -/
def seqForm (used w : Nat) (r : Res) : Res :=
  if Nat.land w (Nat.xor used 0xFFFFFFFF) ≠ 0 then .halt hReservedField 0 else r

/-- Signed 18-bit immediate of bits [31:14]. -/
def imm18 (w : Nat) : Word := BitVec.ofInt 32 (signed 18 (bits w 31 14))

/-- An operation of two counters into a third. -/
def seqAlu (x : Nat) (op : Word → Word → Word) (s : State) (w _ofs : Nat) : Res :=
  seqForm 0x0003FFFF w (.done (putC s x (bits w 9 6) (op (seqC s x (bits w 13 10)) (seqC s x (bits w 17 14)))))

/-- COND of CMP and CMPI. -/
def condHolds (c : Nat) (a b : Word) : Bool :=
  match c with
  | 0 => a == b
  | 1 => a != b
  | 2 => a.slt b
  | 3 => a.sle b
  | 4 => a.ult b
  | 5 => a.ule b
  | 6 => b.slt a
  | _ => b.sle a

/-- A bundle at ofs is the end bundle of an active loop (R223). -/
def isEndBundle (s : State) (x ofs : Nat) : Bool := (getCtx s x).loops.any (·.endOfs == ofs)

/-- Checks of a branch target (R218, R223), then its effect when taken. -/
def branch (x : Nat) (taken : Bool) (s : State) (w ofs : Nat) : Res :=
  let t := (ofs : Int) + 4 * signed 18 (bits w 31 14)
  match itemOf s x with
  | none => .done s
  | some i =>
    if isEndBundle s x ofs then .halt hLoopBody 0
    else if t < 0 ∨ ((imgOf s i.img).codeSize : Int) ≤ t then .halt hBranchRange 0
    else
      let out := match (getCtx s x).loops with
        | [] => false
        | l :: _ => decide (t < l.start) || decide ((l.endOfs : Int) < t)
      if out then .halt hLoopExit 0
      else if taken then .done (updCtx s x fun c => { c with goto := some (t.toNat, false) })
      else .done s

/-- LOOP (R220, R223). -/
def seqLoop (x : Nat) (s : State) (w ofs : Nat) : Res :=
  let c := getCtx s x
  let n := (seqC s x (bits w 13 10)).toNat
  let e := ofs + 4 * bits w 31 15
  match itemOf s x, c.bun with
  | some i, some b =>
    let enc := match c.loops with
      | [] => false
      | l :: _ => decide (l.endOfs < e)
    if isEndBundle s x ofs then .halt hLoopBody 0
    else if e < ofs + 4 * b.len ∨ (imgOf s i.img).codeSize ≤ e ∨ enc = true then .halt hLoopRange 0
    else if n = 0 then .done (updCtx s x fun c => { c with goto := some (e, true) })
    else if 4 ≤ c.loops.length then .halt hLoopDepth 0
    else
      let d := if bit w 14 then some (bits w 9 6) else none
      let l : LoopE := ⟨ofs + 4 * b.len, e, n, 0, d, false⟩
      let s1 := updCtx s x fun c => { c with loops := l :: c.loops }
      .done (match d with
        | some d => putC s1 x d 0
        | none => s1)
  | _, _ => .done s

/-- LEAVE (R224). -/
def seqLeave (x : Nat) (s : State) (w _ofs : Nat) : Res :=
  match (getCtx s x).loops with
  | [] => .halt hLoopExit 0
  | l :: r =>
    if (getCtx s x).k.getLsbD (bits w 8 6) then
      .done (updCtx s x fun c => { c with loops := r, goto := some (l.endOfs, true) })
    else .done s

/-- NOP: none. -/
def execSeqNop (x : Fin 64) : State → Host.Outcome State Fault Refusal :=
  issueSlot x.val .seq (opIs 0x00) fun s w _ => seqForm 0x0000003F w (.done s)

/-- LDI: Cd := IMM. -/
def execLdi (x : Fin 64) : State → Host.Outcome State Fault Refusal :=
  issueSlot x.val .seq (opIs 0x01) fun s w _ => seqForm 0xFFFFC3FF w (.done (putC s x.val (bits w 9 6) (imm18 w)))

/-- LDIH: Cd := IMM × 2^14 + Cd mod 2^14. -/
def execLdih (x : Fin 64) : State → Host.Outcome State Fault Refusal :=
  issueSlot x.val .seq (opIs 0x02) fun s w _ => seqForm 0xFFFFC3FF w
    (.done (putC s x.val (bits w 9 6)
      (BitVec.ofNat 32 (bits w 31 14 * 16384 + (seqC s x.val (bits w 9 6)).toNat % 16384))))

/-- ADDI: Cd := Cs + IMM. -/
def execAddi (x : Fin 64) : State → Host.Outcome State Fault Refusal :=
  issueSlot x.val .seq (opIs 0x03) fun s w _ =>
    .done (putC s x.val (bits w 9 6) (seqC s x.val (bits w 13 10) + imm18 w))

/-- ADD. -/
def execSeqAdd (x : Fin 64) : State → Host.Outcome State Fault Refusal :=
  issueSlot x.val .seq (opIs 0x04) (seqAlu x.val (· + ·))

/-- SUB. -/
def execSeqSub (x : Fin 64) : State → Host.Outcome State Fault Refusal :=
  issueSlot x.val .seq (opIs 0x05) (seqAlu x.val (· - ·))

/-- AND. -/
def execSeqAnd (x : Fin 64) : State → Host.Outcome State Fault Refusal :=
  issueSlot x.val .seq (opIs 0x06) (seqAlu x.val (· &&& ·))

/-- OR. -/
def execSeqOr (x : Fin 64) : State → Host.Outcome State Fault Refusal :=
  issueSlot x.val .seq (opIs 0x07) (seqAlu x.val (· ||| ·))

/-- SHLI. -/
def execShli (x : Fin 64) : State → Host.Outcome State Fault Refusal :=
  issueSlot x.val .seq (opIs 0x08) fun s w _ => seqForm 0x0007FFFF w
    (.done (putC s x.val (bits w 9 6) (seqC s x.val (bits w 13 10) <<< bits w 18 14)))

/-- SHRI. -/
def execShri (x : Fin 64) : State → Host.Outcome State Fault Refusal :=
  issueSlot x.val .seq (opIs 0x09) fun s w _ => seqForm 0x0007FFFF w
    (.done (putC s x.val (bits w 9 6) (seqC s x.val (bits w 13 10) >>> bits w 18 14)))

/-- CMP: Kd := COND(Cs, Ct). -/
def execCmp (x : Fin 64) : State → Host.Outcome State Fault Refusal :=
  issueSlot x.val .seq (opIs 0x10) fun s w _ => seqForm 0x001FFDFF w
    (.done (putK s x.val (bits w 8 6)
      (condHolds (bits w 16 14) (seqC s x.val (bits w 13 10)) (seqC s x.val (bits w 20 17)))))

/-- CMPI: Kd := COND(Cs, IMM). -/
def execCmpi (x : Fin 64) : State → Host.Outcome State Fault Refusal :=
  issueSlot x.val .seq (opIs 0x11) fun s w _ => seqForm 0xFFFFFDFF w
    (.done (putK s x.val (bits w 8 6)
      (condHolds (bits w 16 14) (seqC s x.val (bits w 13 10)) (BitVec.ofInt 32 (signed 15 (bits w 31 17))))))

/-- BR. -/
def execBr (x : Fin 64) : State → Host.Outcome State Fault Refusal :=
  issueSlot x.val .seq (opIs 0x18) fun s w ofs => seqForm 0xFFFFC03F w (branch x.val true s w ofs)

/-- BRT: branch if K = 1. -/
def execBrt (x : Fin 64) : State → Host.Outcome State Fault Refusal :=
  issueSlot x.val .seq (opIs 0x19) fun s w ofs => seqForm 0xFFFFC1FF w
    (branch x.val ((getCtx s x.val).k.getLsbD (bits w 8 6)) s w ofs)

/-- BRF: branch if K = 0. -/
def execBrf (x : Fin 64) : State → Host.Outcome State Fault Refusal :=
  issueSlot x.val .seq (opIs 0x1A) fun s w ofs => seqForm 0xFFFFC1FF w
    (branch x.val (!(getCtx s x.val).k.getLsbD (bits w 8 6)) s w ofs)

/-- LOOP. -/
def execLoop (x : Fin 64) : State → Host.Outcome State Fault Refusal :=
  issueSlot x.val .seq (opIs 0x20) (seqLoop x.val)

/-- LEAVE. -/
def execLeave (x : Fin 64) : State → Host.Outcome State Fault Refusal :=
  issueSlot x.val .seq (opIs 0x21) fun s w ofs => seqForm 0x000001FF w (seqLeave x.val s w ofs)

/-- RDASTAT: Cd := ASTAT. -/
def execRdastat (x : Fin 64) : State → Host.Outcome State Fault Refusal :=
  issueSlot x.val .seq (opIs 0x28) fun s w _ => seqForm 0x000003FF w
    (.done (putC s x.val (bits w 9 6) (getCtx s x.val).astat))

/-- WRASTAT (R216). -/
def execWrastat (x : Fin 64) : State → Host.Outcome State Fault Refusal :=
  issueSlot x.val .seq (opIs 0x29) fun s w _ => seqForm 0x00003C3F w
    (.done (updCtx s x.val fun c => { c with astat := writeAstat c.astat (seqC s x.val (bits w 13 10)) }))

/-- SETMX: MXR := HROW, MXC := HCOL. -/
def execSetmx (x : Fin 64) : State → Host.Outcome State Fault Refusal :=
  issueSlot x.val .seq (opIs 0x2A) fun s w _ => seqForm 0x03FFFFFF w
    (.done (updCtx s x.val fun c => { c with mxr := bits w 15 6, mxc := bits w 25 16 }))

/-- END (R219): the bundle is the last of the item. -/
def execSeqEnd (x : Fin 64) : State → Host.Outcome State Fault Refusal :=
  issueSlot x.val .seq (opIs 0x3F) fun s w _ => seqForm 0x0000003F w
    (.done (match itemOf s x.val with
      | some i => setItem s { i with ended := true }
      | none => s))

end Sys2Proof.Machine
end

