-- ==== Sys2Proof/Machine/Array.lean ====
section
/-! DEFINITION. The matrix array: slots and their formats, planes, products and promotions, feeder halves, and the
order of operations on slots (02_matrix_array.md, 03_arithmetic.md). -/

namespace Sys2Proof.Machine

/-! ### An operation at issue -/

/-- Issue of an operation: what its checks give, the cause it waits for if any, and its effect. -/
def opRes {α : Type} (chk : Except Stop α) (wait : α → Option Nat) (eff : α → State) : Res :=
  match chk with
  | .error e => .halt e.1 e.2
  | .ok a =>
    match wait a with
    | some c => .wait c
    | none => .done (eff a)

/-- Check that a condition does not hold. -/
def stopIf (c : Prop) [Decidable c] (reason : Nat) (detail : Word) : Except Stop Unit :=
  if c then .error (reason, detail) else .ok ()

/-! ### Slots (R74 to R76) -/

/-- Position of accumulator slot n of the Caldera's storage: P64 slot n is position n, F32 slot n half of
position n / 2 (R74, R75). -/
def posOf (f32 : Bool) (n : Nat) : Nat := if f32 then n / 2 else n

/-- The 4 B halves of positions that a slot takes: half h of position p is 2 p + h. -/
def slotHalves (f32 : Bool) (n : Nat) : List Nat := if f32 then [n] else [2 * n, 2 * n + 1]

/-- Halves of several slots. -/
def slotsHalves (f32 : Bool) (ns : List Nat) : List Nat := ns.flatMap (slotHalves f32)

/-- Storage number of slot n of an item's window (R75). -/
def absSlot (i : Item) (f32 : Bool) (n : Nat) : Nat := if f32 then 2 * i.slotBase + n else i.slotBase + n

/-- Slots n0 to n0 + cnt − 1 of the window, as storage numbers; SLOT_RANGE outside it (R75). -/
def slotRange (i : Item) (f32 : Bool) (n0 cnt : Nat) : Except Stop (List Nat) :=
  if ((List.range cnt).map (n0 + ·)).any fun n => decide (i.slots ≤ posOf f32 n) then .error (hSlotRange, 0)
  else .ok ((List.range cnt).map fun m => absSlot i f32 (n0 + m))

/-- Position p is in F32 format. -/
def isF32 (k : Cal) (p : Nat) : Bool := k.fmt.getLsbD p

/-- The slots are in the format their positions hold (R76). -/
def slotFormat (k : Cal) (f32 : Bool) (ns : List Nat) : Except Stop Unit :=
  if ns.any fun n => isF32 k (posOf f32 n) != f32 then .error (hSlotFormat, 0) else .ok ()

/-- Slots an operation names that must be in the format it names. -/
def slotsIn (k : Cal) (i : Item) (f32 : Bool) (n0 cnt : Nat) : Except Stop (List Nat) :=
  match slotRange i f32 n0 cnt with
  | .error e => .error e
  | .ok ns =>
    match slotFormat k f32 ns with
    | .error e => .error e
    | .ok () => .ok ns

/-- Slots that hold the carried state of an item's streams (R78, R250): layer record 0's. -/
def stateSlots (s : State) (i : Item) : List Nat :=
  match (imgOf s i.img).layers with
  | [] => []
  | l :: _ =>
    let f := l.f32 == 1
    (List.range (l.segM1 + 1)).map fun n => absSlot i f ((if f then 2 * l.slot0 else l.slot0) + n)

/-- Slot n holds part of a carried state segment (R90): not any more once a training item's forward phase has ended
(05 R155), and never for a task, which carries no stream state (07 R250). -/
def holdsState (s : State) (i : Item) (f32 : Bool) (n : Nat) : Bool :=
  let f := match (imgOf s i.img).layers with
    | [] => false
    | l :: _ => l.f32 == 1
  !i.task && !i.fwdDone && (slotHalves f32 n).any (slotsHalves f (stateSlots s i)).contains

/-! ### Cells and planes -/

/-- Key of a cell's position in the accumulator storage. -/
def accKey (p r c : Nat) : Nat := (p * 256 + r) * 256 + c

/-- Accumulator positions with their parity bits (R77). -/
abbrev Acc := Tab (BitVec 66)

/-- Bits of slot n in cell (r, c): 64 in P64, 32 in F32. -/
def cellBits (acc : Acc) (f32 : Bool) (n r c : Nat) : Nat :=
  let w := (tget 0 (accKey (posOf f32 n) r c) acc).toNat
  if f32 then (if n % 2 = 0 then w % 2 ^ 32 else w / 2 ^ 32 % 2 ^ 32) else w % 2 ^ 64

/-- Write the bits of slot n in cell (r, c), with the parity of each half written (R77). -/
def putCell (acc : Acc) (f32 : Bool) (n r c v : Nat) : Acc :=
  let k := accKey (posOf f32 n) r c
  let w := (tget 0 k acc).toNat
  let lo := w % 2 ^ 32
  let hi := w / 2 ^ 32 % 2 ^ 32
  let par := w / 2 ^ 64
  let v' := if f32 then
      (if n % 2 = 0 then v % 2 ^ 32 + 2 ^ 32 * hi + 2 ^ 64 * (par / 2 * 2)
       else lo + 2 ^ 32 * (v % 2 ^ 32) + 2 ^ 64 * (par % 2))
    else v % 2 ^ 64
  tput 0 k (BitVec.ofNat 66 v') acc

/-- A read of slot n in cell (r, c) finds a parity error (R77). -/
def badCell (acc : Acc) (f32 : Bool) (n r c : Nat) : Bool :=
  let w := (tget 0 (accKey (posOf f32 n) r c) acc).toNat
  if f32 then bit w (64 + n % 2) else bit w 64 || bit w 65

/-- Parity of the n low bits of v. -/
def parityOf (n v : Nat) : Bool := (List.range n).foldl (fun a b => xor a (bit v b)) false

/-- Positions whose stored bits a fault has changed; the parity bits stay (R77). -/
def upsetSlots (acc : Acc) (ups : List Upset) : Acc :=
  ups.foldl (fun acc u =>
    match u with
    | .chunk _ _ _ _ => acc
    | .slot p r c x =>
      let k := accKey p.val r.val c.val
      let par := b2n (parityOf 32 x.toNat) + 2 * b2n (parityOf 32 (x.toNat / 2 ^ 32))
      tput 0 k (tget 0 k acc ^^^ BitVec.ofNat 66 (x.toNat + 2 ^ 64 * par)) acc) acc

/-- Rows and columns of the 65,536 working cells. -/
def cells : List (Nat × Nat) := (List.range 65536).map fun n => (n / 256, n % 256)

/-- Write slot n in the cells of a list, each from its old bits. -/
def setCells (acc : Acc) (f32 : Bool) (n : Nat) (g : Nat → Nat → Nat → Nat) (ps : List (Nat × Nat)) :
    Acc :=
  ps.foldl (fun a p => putCell a f32 n p.1 p.2 (g p.1 p.2 (cellBits acc f32 n p.1 p.2))) acc

/-- Value of a slot's bits; an F32 value is a pair with tail +0. -/
def decSlot (f32 : Bool) (w : Nat) : Pair := if f32 then (decIeee fmF32 (w % 2 ^ 32), fZero) else decPair w

/-- Bits of a slot's value. -/
def encSlot (f32 : Bool) (a : Pair) : Nat := if f32 then (rn32 a.1).toNat else encPair a

/-- Cells in which a read of slot n finds no parity error. -/
def goodCells (acc : Acc) (f32 : Bool) (n : Nat) : List (Nat × Nat) := cells.filter fun p => !badCell acc f32 n p.1 p.2

/-- Every row. -/
def allRows : List Nat := List.range 256

/-- The fault that a read of rows of slots finds, by its first cell with a parity error (R77, 14 Table 14.1). -/
def parityFault (k : Cal) (c x : Nat) (f32 : Bool) (ns rows : List Nat) : Option FaultRep :=
  (ns.findSome? fun n => cells.find? fun p => rows.contains p.1 && badCell k.acc f32 n p.1 p.2).map fun p =>
    { unit := 0x12, cal := some (Fin.ofNat 4 c), ctx := some (Fin.ofNat 64 x),
      loc := BitVec.ofNat 32 (p.1 + 256 * p.2 + 65536), shared := false, double := false, saveBad := false }

/-- An operation of context x has read rows of slots: a parity error waits for its report (R77). -/
def noteParity (s : State) (x : Nat) (f32 : Bool) (ns rows : List Nat) : State :=
  updCal s (ctxCal x) fun k => { k with found := k.found ++ (parityFault k (ctxCal x) x f32 ns rows).toList }

/-- Change slot n in every cell by an operation on values, but where its read finds a parity error (R77); the flags of
every cell are ORed (03 R122). -/
def planeOp (acc : Acc) (f32 : Bool) (n : Nat) (op : Nat → Nat → Pair → Pair × Fl) :
    Acc × Fl :=
  (setCells acc f32 n (fun r c w => encSlot f32 (op r c (decSlot f32 w)).1) (goodCells acc f32 n),
   (goodCells acc f32 n).foldl (fun f p => f ||| (op p.1 p.2 (decSlot f32 (cellBits acc f32 n p.1 p.2))).2) 0)

/-- Change several slots in ascending order (R80); op also gets the place of the slot in the range. -/
def planesOp (acc : Acc) (f32 : Bool) (ns : List Nat) (op : Nat → Nat → Nat → Pair → Pair × Fl) :
    Acc × Fl :=
  ns.zipIdx.foldl (fun a e => let r := planeOp a.1 f32 e.1 (op e.2); (r.1, a.2 ||| r.2)) (acc, 0)

/-- The other F32 slot of a position. -/
def otherHalf (n : Nat) : Nat := if n % 2 = 0 then n + 1 else n - 1

/-- The position of slot n is in a format (R76). -/
def setFmt (k : Cal) (f32 : Bool) (n : Nat) : Cal :=
  let b := BitVec.ofNat 8 (2 ^ posOf f32 n)
  { k with fmt := if f32 then k.fmt ||| b else k.fmt &&& ~~~b }

/-- Set the format of slot n's position (R76): a position that becomes F32 has +0 in its other F32 slot. Rows that the
operation does not write then hold their old bits, read in the new format: the spec does not say what they hold, and
this is the model's choice (DESIGN CHOICE, log entry 137). -/
def reformat (k : Cal) (f32 : Bool) (n : Nat) : Cal :=
  if isF32 k (posOf f32 n) = f32 then k
  else if f32 then
    { setFmt k f32 n with acc := setCells k.acc true (otherHalf n) (fun _ _ _ => 0) cells }
  else setFmt k f32 n

/-- Set slot n to given bits in every cell, with its format. -/
def setSlotPlane (k : Cal) (f32 : Bool) (n : Nat) (g : Nat → Nat → Nat) : Cal :=
  let k1 := reformat k f32 n
  { k1 with acc := setCells k1.acc f32 n (fun r c _ => g r c) cells }

/-- Set one row of slot n to given bits, with its format. -/
def setSlotRow (k : Cal) (f32 : Bool) (n r : Nat) (g : Nat → Nat) : Cal :=
  let k1 := reformat k f32 n
  { k1 with acc := setCells k1.acc f32 n (fun _ c _ => g c) ((List.range 256).map fun c => (r, c)) }

/-- FP32 bits as the block reads them: a subnormal as zero of its sign (03 R107). -/
def flush32 (w : Nat) : Nat := (rn32 (decIeee fmF32 (w % 2 ^ 32))).toNat

/-! ### Feeder halves (R60 to R67) -/

/-- Feeder half h: 0 RH0, 1 RH1, 2 CH0, 3 CH1. -/
def halfOf (k : Cal) (h : Nat) : Half := tget {} h k.halves

/-- Byte of slice sl, line i, of a half's panel. -/
def sliceByte (hf : Half) (sl i : Nat) : Nat := (loadByte hf.data (256 * sl + i)).toNat

/-- Byte of slice sl, line i, of half h. -/
def halfByte (k : Cal) (h sl i : Nat) : Nat := sliceByte (halfOf k h) sl i

/-- Set a half's state. -/
def setHalf (k : Cal) (h : Nat) (st : HalfState) : Cal :=
  { k with halves := tput {} h { halfOf k h with st := st } k.halves }

/-- FP32 value of line i over the 4 slices from sl (R83, R85). -/
def halfWord (k : Cal) (h sl i : Nat) : Nat :=
  halfByte k h sl i + 256 * halfByte k h (sl + 1) i + 65536 * halfByte k h (sl + 2) i
    + 16777216 * halfByte k h (sl + 3) i

/-- The half is granted to the item (R67). -/
def halfGrant (i : Item) (h : Nat) : Except Stop Unit := stopIf (i.halves.getLsbD h = false) hFeederGrant 0

/-- The half may be read (R64, R68). -/
def halfReadable (k : Cal) (h : Nat) : Bool :=
  decide ((halfOf k h).st = .ready) || decide ((halfOf k h).st = .inUse)

/-- Operations into half h that are incomplete: FEEDs and RECIRCs. -/
def fillers (k : Cal) (h : Nat) : Nat :=
  (k.feeds.filter (·.half == h)).length + (k.ops.filter (·.half == some h)).length

/-- The half is READY when nothing fills it any more (R61, Table 02.1). -/
def fillEnds (k : Cal) (h : Nat) : Cal :=
  if fillers k h = 0 ∧ (halfOf k h).st = .filling then setHalf k h .ready else k

/-! ### Operands of a MAC -/

/-- Width class of a MAC operand format in bits; 0 for a format no MAC takes (R71). -/
def macWidth (f : Nat) : Nat :=
  match f with
  | 1 => 16 | 2 => 16 | 3 => 8 | 4 => 8 | 5 => 4 | 6 => 8 | 7 => 8 | 8 => 4 | 9 => 4 | _ => 0

/-- The format is an integer one. -/
def isInt (f : Nat) : Bool := decide (6 ≤ f) && decide (f ≤ 10)

/-- Slices of k indices at a format's width (R60, Table 02.2). -/
def slicesOf (f k : Nat) : Nat :=
  match macWidth f with
  | 4 => (k + 1) / 2
  | 16 => 2 * k
  | _ => k

/-- Bits of element k of line i in a half, its panel at slice ofs (R58, R60). -/
def operandBits (hf : Half) (ofs f i ix : Nat) : Nat :=
  match macWidth f with
  | 4 => sliceByte hf (ofs + ix / 2) i / (if ix % 2 = 1 then 16 else 1) % 16
  | 16 => sliceByte hf (ofs + 2 * ix) i + 256 * sliceByte hf (ofs + 2 * ix + 1) i
  | _ => sliceByte hf (ofs + ix) i

/-- A MAC operand's value: BF16 to INT4 with FP inputs flushed (03 R107). -/
def operandVal (f w : Nat) : Fv := decFmt f w

/-- Largest floor(log2) of the non-zero finite products of a group (03 R111). -/
def groupExp (ps : List (Fv × Fv)) : Option Int :=
  ps.foldl (fun g p =>
    match fMul p.1 p.2 with
    | .fin _ m e =>
      if m = 0 then g
      else match g with
        | none => some (fLog2 m e)
        | some x => some (max x (fLog2 m e))
    | _ => g) none

/-- A product truncated toward zero to a multiple of 2^q. -/
def truncAt (q : Int) (v : Fv) : Fv :=
  match v with
  | .fin s m e => if e < q then .fin s (m / 2 ^ (q - e).toNat) q else .fin s m e
  | w => w

/-- A group's exact sum, or its special value, and whether it is INVALID (03 R110 to R112). -/
def groupSum (wide : Bool) (ps : List (Fv × Fv)) : Fv × Fl :=
  let pr := ps.map fun p => fMul p.1 p.2
  let zi := ps.any fun p => fIsNan (fMul p.1 p.2) && !fIsNan p.1 && !fIsNan p.2
  if pr.any fIsNan then (.nan, if zi then flInvalid else 0)
  else if pr.any (fun v => fIsInf v && fSign v) && pr.any (fun v => fIsInf v && !fSign v) then (.nan, flInvalid)
  else
    match pr.find? fIsInf with
    | some v => (v, 0)
    | none =>
      let ts := if wide then
          match groupExp ps with
          | some g => pr.map (truncAt (g - 64))
          | none => pr
        else pr
      (ts.foldl fAdd fZero, 0)

/-- E8M0 field of group g of a line's scale tensor (R65): element 256 g + i of it. -/
def scaleOf (m : Mem) (d : Option (Desc × List Nat)) (g i : Nat) : Option Nat :=
  d.map fun d => (loadByte m (addrOf d.1 d.2 [256 * g + i])).toNat

/-- Exponent of a scale, with the MXINT8 factor (03 R106, R113). -/
def scaleExp (f : Nat) (b : Option Nat) : Int :=
  match b with
  | none => 0
  | some b => (b : Int) - 127 - (if f = 6 ∨ f = 7 then 6 else 0)

/-! ### Check operands, chunk registers and compares (R62, R96 to R101) -/

/-- Where the check operand of k index ix of a panel at slice ofs is held. -/
def chkKey (f ofs ix : Nat) : Nat :=
  match macWidth f with
  | 4 => 2 * (ofs + ix / 2) + ix % 2
  | 16 => 2 * (ofs + 2 * ix)
  | _ => 2 * (ofs + ix)

/-- A value truncated toward zero to a 40-bit significand (R97). -/
def trunc40 (v : Fv) : Fv :=
  match v with
  | .fin _ m e => truncAt (fLog2 m e - 39) v
  | w => w

/-- The check operand of k index ix: the sum over the 256 lines of the elements after the input flush and before MX
scaling, exact in the 4-bit and 8-bit formats, with a 40-bit significand in the 16-bit ones (R96, R97; log entry 136).
-/
def lineSum (hf : Half) (f ofs ix : Nat) : Fv :=
  let v := ((List.range 256).map fun i => operandVal f (operandBits hf ofs f i ix)).foldl fAdd fZero
  if macWidth f = 16 then trunc40 v else v

/-- Check operands that hold no byte of n slices from slice ofs; a 16-bit one holds two slices. -/
def keepChecks (ofs n : Nat) (t : Tab CheckOp) : Tab CheckOp :=
  t.filter fun e =>
    let last := e.1 / 2 + (if macWidth e.2.fmt = 16 then 1 else 0)
    decide (last < ofs) || decide (ofs + n ≤ e.1 / 2)

/-- A half with the check operands of the n k indices of a panel that its feeder has just written (R62). -/
def withChecks (hf : Half) (f ofs n : Nat) : Half :=
  let kept := keepChecks ofs (slicesOf f n) hf.chk
  { hf with chk := (List.range n).foldl (fun t ix => tput {} (chkKey f ofs ix) ⟨f, lineSum hf f ofs ix⟩ t) kept }

/-- The check operand that a MAC of format f takes for k index ix: the one its feeder wrote, or, for elements written in
another format, the sum of the elements as the MAC reads them (DESIGN CHOICE, log entry 136). -/
def checkOperand (hf : Half) (f ofs ix : Nat) : Fv :=
  let e := tget {} (chkKey f ofs ix) hf.chk
  if e.fmt = f then e.val else lineSum hf f ofs ix

/-- Element of a line that a run reads from a half; line 256 is the check operand (R96). -/
def lineElem (hf : Half) (f ofs r ix : Nat) : Fv :=
  if r < 256 then operandVal f (operandBits hf ofs f r ix) else checkOperand hf f ofs ix

/-- Products of group g of a run in cell (r, c), check row and column and corner included, as pairs (R59, R96). -/
def groupPairs (k : Cal) (run : Run) (g r c : Nat) : List (Fv × Fv) :=
  ((List.range (min 32 (run.k - 32 * g))).map (32 * g + ·)).map fun ix =>
    (lineElem (halfOf k run.rh) run.rfmt run.rofs r ix, lineElem (halfOf k (2 + run.ch)) run.cfmt run.cofs c ix)

/-- Exponent of the last place of a format's elements, for the windows of 03 Table 03.2. -/
def elemQ (f : Nat) : Int :=
  match f with
  | 3 => -16 | 4 => -9 | 5 => -1 | _ => 0

/-- A finite value in units of 2^q, exact where it is a multiple of 2^q. -/
def chunkInt (q : Int) (v : Fv) : Int :=
  match v with
  | .fin s m e =>
    let a : Int := ((if q ≤ e then m * 2 ^ (e - q).toNat else m / 2 ^ (q - e).toNat : Nat) : Int)
    if s then -a else a
  | _ => 0

/-- A chunk register with a group's sum, or with its special value (03 R110 to R112). -/
def groupChunk (wide : Bool) (q0 : Int) (ps : List (Fv × Fv)) : Chunk :=
  let v := (groupSum wide ps).1
  let q := if wide then (match groupExp ps with
      | some g => g - 64
      | none => 0) else q0
  if fIsFin v then { c := BitVec.ofInt 88 (chunkInt q v), q := q } else { q := q, special := some v }

/-- Value of a chunk register, unscaled. -/
def chunkVal (t : Chunk) : Fv := t.special.getD (fOfInt t.c.toInt t.q)

/-- A chunk register with the bits that faults have changed; a working cell's has 72 bits. A flag that turns on comes
with the special value NaN (log entry 135). -/
def upsetChunk (ups : List Upset) (r c : Nat) (t : Chunk) : Chunk :=
  ups.foldl (fun t u =>
    match u with
    | .slot _ _ _ _ => t
    | .chunk row col x flag =>
      if row.val = r ∧ col.val = c then
        { t with c := if r < 256 ∧ c < 256 then ((t.c ^^^ x).setWidth 72).signExtend 88 else t.c ^^^ x,
                 special := if flag then (if t.special.isSome then none else some .nan) else t.special }
      else t) t

/-- The chunk register of cell (r, c) at the end of group g of a run. -/
def chunkAt (k : Cal) (run : Run) (g : Nat) (ups : List Upset) (r c : Nat) : Chunk :=
  upsetChunk ups r c (groupChunk (macWidth run.rfmt == 16) (elemQ run.rfmt + elemQ run.cfmt) (groupPairs k run g r c))

/-- The registers of all 257 × 257 cells at the end of a run's next group (R74, R96). -/
def sumGroup (k : Cal) (run : Run) (ups : List Upset) : Cal :=
  let reg := fun n => (chunkAt k run run.promoted ups (n / 257) (n % 257)).c
  (List.range (257 * 257)).foldl (fun q n =>
    if n / 257 < 256 ∧ n % 257 < 256 then
      { q with chunk := tput 0 (256 * (n / 257) + n % 257) ((reg n).setWidth 72) q.chunk }
    else { q with checks := tput 0 n (reg n) q.checks }) k

/-- The number that the register of cell (r, c) holds: 72 bits of a working cell, 88 of a check cell. -/
def cellChunk (k : Cal) (r c : Nat) : BitVec 88 :=
  if r < 256 ∧ c < 256 then (tget 0 (256 * r + c) k.chunk).signExtend 88 else tget 0 (257 * r + c) k.checks

/-- The chunk of cell (r, c) of a group as its register holds it. -/
def regChunk (k : Cal) (run : Run) (g : Nat) (ups : List Upset) (r c : Nat) : Chunk :=
  { chunkAt k run g ups r c with c := cellChunk k r c }

/-- The group value that promotion g of a run adds in cell (r, c), from the cells' registers, with the group's flags
(03 R106, R110 to R113). The scale bytes are read from the scratchpad at the promotion: R65 says who fetches them and
through which port, and not when (DESIGN CHOICE, log entry 147). -/
def groupVal (k : Cal) (run : Run) (g : Nat) (ups : List Upset) (r c : Nat) : Fv × Fl :=
  let sr := scaleOf k.spad run.rsc g r
  let sc := scaleOf k.spad run.csc g c
  let v := chunkVal (regChunk k run g ups r c)
  let f := (groupSum (macWidth run.rfmt == 16) (groupPairs k run g r c)).2
  if sr = some 255 ∨ sc = some 255 then (.nan, f)
  else (fScale v (scaleExp run.rfmt sr + scaleExp run.cfmt sc), f)

/-- Larger of two exponents, where there are any. -/
def maxExp (a b : Option Int) : Option Int :=
  match a, b with
  | some x, some y => some (max x y)
  | none, y => y
  | x, none => x

/-- The next group of a run as handed over, for its compares (R96, R98, R99). -/
def handOver (k : Cal) (run : Run) (ups : List Upset) : Handed :=
  let g := run.promoted
  let ex := fun r c => groupExp (groupPairs k run g r c)
  let line := fun (f : Nat → Option Int) => (List.range 257).foldl (fun a n => maxExp a (f n)) none
  { ctx := run.ctx, ofs := run.ofs, slot := run.slot, f32 := run.f32, index := g, wide := macWidth run.rfmt == 16,
    chunks := (List.range (257 * 257)).map fun n => regChunk k run g ups (n / 257) (n % 257),
    rowG := (List.range 257).map fun r => line fun c => ex r c,
    colG := (List.range 257).map fun c => line fun r => ex r c }

/-- The chunk register of cell (r, c) of a group. -/
def handedChunk (h : Handed) (r c : Nat) : Chunk := h.chunks.getD (257 * r + c) {}

/-- A compare passes: the chunks of a line against its check cell, exactly or within the tolerance of R99; where any
chunk is flagged, by the flags alone (R98 to R100). A 16-bit line whose products are all zero has no G (03 R111), and
R99 then gives no tolerance: the model asks for a difference of 0 (DESIGN CHOICE, log entry 148). -/
def lineAgrees (wide : Bool) (g : Option Int) (ts : List Chunk) (chk : Chunk) : Bool :=
  if ts.any (·.special.isSome) then chk.special.isSome
  else if chk.special.isSome then false
  else
    let d := fAbs (fSub ((ts.map chunkVal).foldl fAdd fZero) (chunkVal chk))
    if wide then
      match g with
      | some g => fLe d (.fin false 1 (g - 16))
      | none => fIsZero d
    else fIsZero d

/-- Rows of a group whose compare fails; row 256 is the check row against the corner (R98). -/
def missedRows (h : Handed) : List Nat :=
  (List.range 257).filter fun r =>
    !lineAgrees h.wide (h.rowG.getD r none) ((List.range 256).map fun c => handedChunk h r c) (handedChunk h r 256)

/-- Columns of a group whose compare fails; column 256 is the check column against the corner. -/
def missedCols (h : Handed) : List Nat :=
  (List.range 257).filter fun c =>
    !lineAgrees h.wide (h.colG.getD c none) ((List.range 256).map fun r => handedChunk h r c) (handedChunk h 256 c)

/-- Promotions of a run of length K (Table 02.2). -/
def groupsOf (k : Nat) : Nat := (k + 31) / 32

/-- One cell's promotion (03 R113). -/
def promoteCell (f32 : Bool) (slot : Pair) (v : Fv) : Pair × Fl :=
  if f32 then let r := promote32 slot.1 v; ((r.1, fZero), r.2) else promote64 slot v

/-! ### Order on slots (R81) -/

/-- Lists share a number. -/
def meets (a b : List Nat) : Bool := a.any b.contains

/-- An operation that reads halves rd and writes halves wr of slots waits for an earlier operation of its item
(R81); bus-path operations do not wait for one another, since the bus path keeps them in order (R73, R79). -/
def slotWait (k : Cal) (x : Nat) (bus : Bool) (rd wr : List Nat) : Bool :=
  (k.ops.any fun o => o.ctx == x && !(bus && decide (o.path = .bus)) &&
      (meets wr (o.rd ++ o.wr) || meets rd o.wr))
    || (!bus && k.runs.any fun r => r.ctx == x && decide (r.promoted < groupsOf r.k) &&
      meets (rd ++ wr) (slotHalves r.f32 r.slot))

/-- The halves of positions that a format-setting operation writes: those of its slots and, where it turns a position
from P64 to F32, the other half of that position (R76). -/
def formatHalves (k : Cal) (f32 : Bool) (ns : List Nat) : List Nat :=
  slotsHalves f32 ns ++ (if f32 then (ns.filter fun n => !isF32 k (posOf true n)).map otherHalf else [])

/-- Number of a path or unit in `Cal.free`. -/
def pathNo : Path → Nat
  | .bus => 0 | .plane => 1 | .row => 2 | .vec => 3 | .sfu => 4

/-- A path or unit of context x's Caldera has not ended an earlier operation's occupancy (R79, 06 R181, R200). -/
def pathBusy (s : State) (x : Nat) (u : Path) : Bool := decide (s.clk < tget 0 (pathNo u) (getCal s (ctxCal x)).free)

/-- A path or unit is occupied for n ACLK cycles from now on. -/
def occupy (s : State) (x : Nat) (u : Path) (n : Nat) : State :=
  updCal s (ctxCal x) fun k => { k with free := tput 0 (pathNo u) (s.clk + Config.aclkUnits * n) k.free }

/-- Wait of a MAT slot on a path, by the lowest code of 08 Table 08.4: a half's state, the bus pipeline, the order on
slots, the plane port, the row-read path. -/
def matWait (s : State) (x : Nat) (u : Path) (half order : Bool) : Option Nat :=
  let busy := pathBusy s x u
  if half then some 2
  else if u = .bus ∧ busy = true then some 3
  else if order then some 4
  else if u = .plane ∧ busy = true then some 5
  else if u = .row ∧ busy = true then some 6
  else none

/-- A MAT slot whose bits at or above n are not all zero halts (R225, Table 07.16). -/
def slotForm (n w : Nat) : Except Stop Unit := stopIf (2 ^ n ≤ w) hReservedField 0

/-- Raise flags of an operation that an image's bundle at ofs issued in slot number sl; a trap stops the context's
transfers (03 R125, 08 R269). -/
def raiseFrom (s : State) (x : Nat) (img : BitVec 16) (ofs sl : Nat) (f : Fl) : State :=
  let s1 := raiseFlags s x img ofs sl f
  if (getCtx s1 x).halted then muteMoves s1 x else s1

/-- Raise flags at the issue of an operation. -/
def raiseAt (s : State) (x ofs sl : Nat) (f : Fl) : State := raiseFrom s x (imgNow s x) ofs sl f

/-- An array operation's record. -/
def arrayOp (path : Path) (x ofs : Nat) (rd wr : List Nat) : Op :=
  { path, ctx := x, ofs, rd, wr, lwr := [], step := 0, half := none, dec := 0, no := 0, bus := none,
    rest := none }

/-- Issue of a bus-path operation of n cycles (R73, R81): it takes its number, and acts when it reaches its place. Its
slots' positions have their format from now on. -/
def addBus (s : State) (x n : Nat) (o : Op) (e : BusEff) : State :=
  occupy (updCal { s with nid := s.nid + 1 } (ctxCal x) fun k =>
    { e.slots.foldl (fun k q => setFmt k e.f32 q.1) k with
      ops := k.ops ++ [{ o with no := s.nid, bus := some e, img := imgNow s x }] })
    x .bus n

/-- Slots with whether a format-setting operation changes the format of their position; the second F32 slot of a
position finds it changed already. -/
def fmtChanges (k : Cal) (f32 : Bool) : List Nat → List (Nat × Bool)
  | [] => []
  | n :: r => (n, isF32 k (posOf f32 n) != f32) :: fmtChanges (setFmt k f32 n) f32 r

/-- Record an issued operation that occupies its path or unit for n cycles. -/
def addOp (s : State) (x n : Nat) (o : Op) : State :=
  occupy (updCal s (ctxCal x) fun k => { k with ops := k.ops ++ [{ o with img := imgNow s x }] }) x o.path n

end Sys2Proof.Machine
end

