-- ==== Sys2Proof/Machine/Mat.lean ====
section
/-! DEFINITION. The MAT slot (02_matrix_array.md, Accumulator operations; 05 R171; 07 Table 07.7), promotions, compares
and results of the array. -/

namespace Sys2Proof.Machine

/-! ### MAC (R68 to R73) -/

/-- A scale tensor of a MAC or RECIRC that covers n bytes, with its index values (R65, 07 R214, R235, R238): handle 0 is
missing, the wrong space is OPERAND_SPACE, a format other than E8M0 OPERAND_FORMAT, the wrong shape DESC_SHAPE. -/
def scaleTensor (s : State) (x h n : Nat) : Except Stop (Desc × List Nat) := do
  let d ← useDesc s x h
  stopIf (d.space ≠ 0) hOperandSpace (BitVec.ofNat 32 h)
  stopIf (d.fmt ≠ 12) hOperandFormat (BitVec.ofNat 32 h)
  let vals ← valsOf s x d
  stopIf (d.ndim ≠ 1 ∨ (countsOf d vals).headD 0 < n) hDescShape (BitVec.ofNat 32 h)
  checkAccess s d vals [n]
  return (d, vals)

/-- A MAC's k-run: range, alignment and panels inside their halves (R70, Table 02.2, 07 R226). -/
def kRun (wd k rofs cofs rf cf : Nat) (scaled : Bool) : Except Stop Unit := do
  stopIf ((if wd = 4 then 8192 else if wd = 8 then 4096 else 2048) < k ∨ k = 0 ∨ (wd = 4 ∧ k < 2)) hKrunRange 0
  stopIf ((wd = 4 ∧ (k % 2 = 1 ∨ rofs % 2 = 1 ∨ cofs % 2 = 1)) ∨ (wd = 16 ∧ (rofs % 2 = 1 ∨ cofs % 2 = 1))
    ∨ (scaled = true ∧ k % 32 ≠ 0)) hKrunAlign 0
  stopIf (4096 < rofs + slicesOf rf k ∨ 4096 < cofs + slicesOf cf k) hBadField 0

/-- MAC at issue: the run it would start (R67, R70, R71, R106, R217, R226). -/
def macCheck (x : Nat) (i : Item) (s : State) (w ofs : Nat) : Except Stop Run := do
  slotForm 60 w
  let rh := bits w 11 11
  let ch := bits w 12 12
  let rf := bits w 53 50
  let cf := bits w 57 54
  let k := bits w 49 37 + 1
  let rs := bit w 58
  let cs := bit w 59
  let f32 := bit w 10
  halfGrant i rh
  halfGrant i (2 + ch)
  stopIf (macWidth rf = 0 ∨ macWidth rf ≠ macWidth cf ∨ isInt rf ≠ isInt cf) hOperandFormat 0
  stopIf (macWidth rf = 16 ∧ (rs = true ∨ cs = true)) hOperandFormat 0
  kRun (macWidth rf) k (bits w 24 13) (bits w 36 25) rf cf (rs || cs)
  let rd ← if rs then (scaleTensor s x (getCtx s x).mxr (256 * groupsOf k)).map some else .ok none
  let cd ← if cs then (scaleTensor s x (getCtx s x).mxc (256 * groupsOf k)).map some else .ok none
  let ns ← slotsIn (getCal s (ctxCal x)) i f32 (bits w 9 6) 1
  return { ctx := x, ofs, slot := ns.headD 0, f32, rh, ch, rofs := bits w 24 13, cofs := bits w 36 25, k, rfmt := rf,
           cfmt := cf, rsc := rd, csc := cd, promoted := 0, compared := 0, no := s.nid, img := i.img }

/-- MAC waits (R64, R68, R81). -/
def macWait (x : Nat) (s : State) (r : Run) : Option Nat :=
  let k := getCal s (ctxCal x)
  matWait s x .bus (!(halfReadable k r.rh && halfReadable k (2 + r.ch)))
    (slotWait k x true (slotHalves r.f32 r.slot) (slotHalves r.f32 r.slot))

/-- The run starts: its halves are IN_USE (Table 02.1), and its product cycles occupy the bus path (Table 02.2). -/
def macEffect (x : Nat) (s : State) (r : Run) : State :=
  occupy (updCal { s with nid := s.nid + 1 } (ctxCal x) fun k =>
    { setHalf (setHalf k r.rh .inUse) (2 + r.ch) .inUse with runs := k.runs ++ [r] })
    x .bus (slicesOf r.rfmt r.k)

/-- MAC (R68): a run enters the bus pipeline. -/
def execMac (x : Fin 64) : State → Host.Outcome State Fault Refusal :=
  issueSlot x.val .mat (opIs 0x01) fun s w ofs =>
    match itemOf s x.val with
    | none => .done s
    | some i => opRes (macCheck x.val i s w ofs) (macWait x.val s) (macEffect x.val s)

/-- The oldest run with promotions left. -/
def openRun (k : Cal) : Option Run := k.runs.find? fun r => decide (r.promoted < groupsOf r.k)

/-- Half h is READY again unless a run with products left reads it (Table 02.1). -/
def releaseHalf (k : Cal) (h : Nat) : Cal :=
  let reads := fun (r : Run) => decide (r.promoted < groupsOf r.k) && (r.rh == h || 2 + r.ch == h)
  if (halfOf k h).st = .inUse ∧ k.runs.any reads = false then setHalf k h .ready else k

/-- One promotion of run r: the group's sums in the cells' registers (R74), every cell of its slot (03 R113), the flags,
the halves when it is the last, and the group handed to the compares. -/
def promoteRun (s : State) (c : Nat) (r : Run) (ups : List Upset) : State :=
  let k := sumGroup (getCal s c) r ups
  let q := planeOp k.acc r.f32 r.slot fun row col a =>
    let v := groupVal k r r.promoted ups row col
    let p := promoteCell r.f32 a v.1
    (p.1, p.2 ||| v.2)
  let runs := updFirst (fun t => decide (t = r)) (fun t => { t with promoted := t.promoted + 1 }) k.runs
  let k1 := releaseHalf (releaseHalf { k with acc := q.1, runs := runs, groups := k.groups ++ [handOver k r ups],
                                              found := k.found ++ (parityFault k c r.ctx r.f32 [r.slot] allRows).toList }
    r.rh) (2 + r.ch)
  settle (raiseFrom (setCal s c k1) r.ctx r.img r.ofs 1 q.2) r.ctx

/-- An earlier bus-path operation has not reached its place: the bus path keeps its order (R73, R79). -/
def runWaits (k : Cal) (r : Run) : Bool := k.ops.any fun o => o.bus.isSome && decide (o.no < r.no)

/-- PROMOTION (R113): the next group of the oldest run enters its slot, behind the earlier operations of the bus path.
What faults have changed in accumulator positions changes whether or not a group is due (log entry 135). -/
def execPromotion (c : Struck) (s : State) : Host.Outcome State Fault Refusal :=
  let s0 := updCal s c.cal.val fun k => { k with acc := upsetSlots k.acc c.ups }
  match openRun (getCal s0 c.cal.val) with
  | none => .next s0
  | some r => if runWaits (getCal s0 c.cal.val) r then .next s0 else .next (promoteRun s0 c.cal.val r c.ups)

/-! ### ZERO (R82) -/

/-- The 256-bit mask word a ZERO reads (R82). -/
def zeroMask (x : Nat) (s : State) (h : Nat) : Except Stop Nat :=
  if h = 0 then .ok (2 ^ 256 - 1)
  else do
    let d ← useDesc s x h
    stopIf (d.space ≠ 0) hDescInvalid (BitVec.ofNat 32 h)
    stopIf (d.ndim ≠ 1) hDescShape (BitVec.ofNat 32 h)
    let vals ← valsOf s x d
    stopIf (d.indirect = true ∧ d.sizes.headD 0 ≤ vals.headD 0) hIndexRange (BitVec.ofNat 32 (vals.headD 0))
    let a := elemAddr d (withVal d vals [0])
    stopIf (a < d.base ∨ (d.base + d.limit : Int) < a + 32 ∨ (spadTop : Int) < a + 32 ∨ a < 0) hBounds (lowWord a)
    return load (getCal s (ctxCal x)).spad a.toNat 32

/-- ZERO at issue: format, slots, mask. -/
def zeroCheck (x : Nat) (i : Item) (s : State) (w : Nat) : Except Stop (Bool × List Nat × Nat) := do
  slotForm 25 w
  let ns ← slotRange i (bit w 10) (bits w 9 6) (bits w 14 11 + 1)
  let m ← zeroMask x s (bits w 24 15)
  return (bit w 10, ns, m)

/-- ZERO's issue. -/
def zeroEffect (x : Nat) (s : State) (ofs : Nat) (a : Bool × List Nat × Nat) : State :=
  addBus s x 1 (arrayOp .bus x ofs [] (formatHalves (getCal s (ctxCal x)) a.1 a.2.1))
    ⟨0, a.1, fmtChanges (getCal s (ctxCal x)) a.1 a.2.1, a.2.2, 0, [], []⟩

/-- A ZERO in place: slot n is +0 in the rows of a mask, and the others are not written; a position whose format changes
is +0 whole (R76, R82). -/
def zeroSlot (k : Cal) (e : BusEff) (q : Nat × Bool) : Cal :=
  let acc := if q.2 then
      setCells (if e.f32 then setCells k.acc true (otherHalf q.1) (fun _ _ _ => 0) cells else k.acc) e.f32 q.1
        (fun _ _ _ => 0) cells
    else setCells k.acc e.f32 q.1 (fun _ _ _ => 0) (cells.filter fun p => bit e.mask p.1)
  { k with acc := acc }

/-- ZERO (R82). -/
def execZero (x : Fin 64) : State → Host.Outcome State Fault Refusal :=
  issueSlot x.val .mat (opIs 0x02) fun s w ofs =>
    match itemOf s x.val with
    | none => .done s
    | some i => opRes (zeroCheck x.val i s w)
        (fun a => matWait s x.val .bus false (slotWait (getCal s (ctxCal x.val)) x.val true []
          (formatHalves (getCal s (ctxCal x.val)) a.1 a.2.1)))
        (zeroEffect x.val s ofs)

/-! ### PRELOAD (R83, R84) -/

/-- PRELOAD bias row at issue: format, slots, half and offset. -/
def biasCheck (i : Item) (w : Nat) : Except Stop (Bool × List Nat × Nat × Nat) := do
  slotForm 28 w
  let ns ← slotRange i (bit w 10) (bits w 9 6) (bits w 14 11 + 1)
  let h := 2 + bits w 15 15
  halfGrant i h
  stopIf (4096 < bits w 27 16 + 4 * ns.length) hBadField 0
  return (bit w 10, ns, h, bits w 27 16)

/-- Vectors of a half, one of 4 slices for each of n slots, from a slice offset (R83, R85). -/
def halfVecs (k : Cal) (h ofs n : Nat) : List (List Word) :=
  (List.range n).map fun p => (List.range 256).map fun c => BitVec.ofNat 32 (halfWord k h (ofs + 4 * p) c)

/-- PRELOAD bias row's issue. -/
def biasEffect (x : Nat) (s : State) (ofs : Nat) (a : Bool × List Nat × Nat × Nat) : State :=
  let k := getCal s (ctxCal x)
  addBus s x (4 * a.2.1.length) (arrayOp .bus x ofs [] (formatHalves k a.1 a.2.1))
    ⟨1, a.1, fmtChanges k a.1 a.2.1, 0, 0, [], halfVecs k a.2.2.1 a.2.2.2 a.2.1.length⟩

/-- A PRELOAD bias row in place: every row of slot p of the range is the bias row (R83). -/
def biasSlot (k : Cal) (e : BusEff) (p : Nat) (q : Nat × Bool) : Cal :=
  let k1 := if q.2 = true ∧ e.f32 = true then
      { k with acc := setCells k.acc true (otherHalf q.1) (fun _ _ _ => 0) cells }
    else k
  { k1 with acc := setCells k1.acc e.f32 q.1 (fun _ c _ => flush32 ((e.vs.getD p []).getD c 0).toNat) cells }

/-- PRELOAD bias row (R83). -/
def execPreloadBias (x : Fin 64) : State → Host.Outcome State Fault Refusal :=
  issueSlot x.val .mat (opIs 0x03) fun s w ofs =>
    match itemOf s x.val with
    | none => .done s
    | some i => opRes (biasCheck i w)
        (fun a => matWait s x.val .bus (!halfReadable (getCal s (ctxCal x.val)) a.2.2.1)
          (slotWait (getCal s (ctxCal x.val)) x.val true [] (formatHalves (getCal s (ctxCal x.val)) a.1 a.2.1)))
        (biasEffect x.val s ofs)

/-- Cycles that n slots occupy the plane port (Table 02.5). -/
def planeCycles (f32 : Bool) (n : Nat) : Nat := (if f32 then 64 else 128) * n

/-- A plane tensor of n planes in the scratchpad (07 R238): FP32 or P64, 256 × 256, dimension 2 of size at least n. -/
def planeTensor (s : State) (x h n : Nat) (single : Bool) : Except Stop (Desc × List Nat) := do
  let d ← useDesc s x h
  stopIf (d.space ≠ 0) hDescInvalid (BitVec.ofNat 32 h)
  stopIf (d.fmt ≠ 0 ∧ d.fmt ≠ 11) hOperandFormat (BitVec.ofNat 32 h)
  let vals ← valsOf s x d
  let cs := countsOf d vals
  stopIf (d.ndim < 2 ∨ cs.getD 0 0 ≠ 256 ∨ cs.getD 1 0 ≠ 256 ∨ (1 < n ∧ cs.getD 2 1 < n)
    ∨ (single = true ∧ (cs.drop 2).any (· ≠ 1) = true)) hDescShape (BitVec.ofNat 32 h)
  checkAccess s d vals ([256, 256, n, 1, 1].take d.ndim)
  return (d, vals)

/-- Value of a plane tensor at plane p, row r, column c. -/
def planeVal (m : Mem) (d : Desc) (vals : List Nat) (p r c : Nat) : Pair :=
  let v := spadElem m d vals ([c, r, p, 0, 0].take d.ndim)
  if d.fmt = 11 then decPair v else (decIeee fmF32 v, fZero)

/-- PRELOAD plane at issue: ADD, format, slots, tensor. -/
def planeCheck (x : Nat) (i : Item) (s : State) (w : Nat) :
    Except Stop (Bool × Bool × List Nat × Desc × List Nat) := do
  slotForm 26 w
  let f32 := bit w 10
  let add := bit w 15
  let ns ← if add then slotsIn (getCal s (ctxCal x)) i f32 (bits w 9 6) (bits w 14 11 + 1)
           else slotRange i f32 (bits w 9 6) (bits w 14 11 + 1)
  let t ← planeTensor s x (bits w 25 16) (bits w 14 11 + 1) false
  stopIf (t.1.fmt = 11 ∧ f32 = true) hOperandFormat (BitVec.ofNat 32 (bits w 25 16))
  return (add, f32, ns, t)

/-- What a SET writes for a plane value, and its flags (R84, 03 R105, R107, R108): an FP32 value as it is, with a +0
tail in P64; a P64 value normalised. -/
def setPlane (f32 : Bool) (fmt : Nat) (v : Pair) : Nat × Fl :=
  if f32 = true ∨ fmt ≠ 11 then ((rn32 v.1).toNat, 0)
  else let r := setPair v; (encPair r.1, r.2)

/-- PRELOAD plane's effect (R84, 03 R114): SET replaces, ADD adds with the slot's addition. -/
def planeEffect (x : Nat) (s : State) (ofs : Nat) (a : Bool × Bool × List Nat × Desc × List Nat) : State :=
  let k := getCal s (ctxCal x)
  let f32 := a.2.1
  let ns := a.2.2.1
  let val := fun p r c => planeVal k.spad a.2.2.2.1 a.2.2.2.2 p r c
  let n := planeCycles f32 ns.length
  if a.1 then
    let hs := slotsHalves f32 ns
    let q := planesOp k.acc f32 ns fun p r c v =>
      if f32 then let t := add32 v.1 (val p r c).1; ((t.1, fZero), t.2) else addPair v (val p r c)
    raiseAt (addOp (setCal (noteParity s x f32 ns allRows) (ctxCal x)
      { getCal (noteParity s x f32 ns allRows) (ctxCal x) with acc := q.1 }) x n (arrayOp .plane x ofs hs hs)) x ofs 1 q.2
  else
    let v := fun p r c => setPlane f32 a.2.2.2.1.fmt (val p r c)
    let fl := (List.range ns.length).foldl (fun f p => cells.foldl (fun f e => f ||| (v p e.1 e.2).2) f) 0
    raiseAt (addOp (setCal s (ctxCal x) (ns.zipIdx.foldl (fun k' e =>
      setSlotPlane k' f32 e.1 fun r c => (v e.2 r c).1) k)) x n (arrayOp .plane x ofs [] (formatHalves k f32 ns)))
      x ofs 1 fl

/-- PRELOAD plane (R84). -/
def execPreloadPlane (x : Fin 64) : State → Host.Outcome State Fault Refusal :=
  issueSlot x.val .mat (opIs 0x04) fun s w ofs =>
    match itemOf s x.val with
    | none => .done s
    | some i => opRes (planeCheck x.val i s w)
        (fun a => matWait s x.val .plane false
          (slotWait (getCal s (ctxCal x.val)) x.val false [] (formatHalves (getCal s (ctxCal x.val)) a.2.1 a.2.2.1)))
        (planeEffect x.val s ofs)

/-! ### SCALE and the decay plane (R85 to R87) -/

/-- A SCALE at issue: form, format, slots, and the halves and offsets of its vectors. -/
def scaleCheck (x : Nat) (i : Item) (s : State) (w : Nat) : Except Stop (Nat × Bool × List Nat) := do
  slotForm 43 w
  let form := bits w 16 15
  let ns ← slotsIn (getCal s (ctxCal x)) i (bit w 10) (bits w 9 6) (bits w 14 11 + 1)
  stopIf (form = 3 ∧ i.decay = false) hDecayGrant 0
  if form < 2 then halfGrant i (bits w 17 17)
  if form = 0 ∨ form = 2 then halfGrant i (2 + bits w 18 18)
  stopIf ((form < 2 ∧ 4096 < bits w 30 19 + 4 * ns.length)
    ∨ ((form = 0 ∨ form = 2) ∧ 4096 < bits w 42 31 + 4 * ns.length)) hBadField 0
  return (form, bit w 10, ns)

/-- Decay of cell (r, c) for slot p of the range (R85). -/
def decayVal (k : Cal) (e : BusEff) (p r c : Nat) : Fv :=
  let u := f32 ((e.us.getD p []).getD r 0)
  let v := f32 ((e.vs.getD p []).getD c 0)
  match e.form with
  | 0 => rnv (fMul u v)
  | 1 => u
  | 2 => v
  | _ => f32 (tget 0 (256 * r + c) k.decay)

/-- SCALE waits (R64, R81, R87). -/
def scaleWait (x w : Nat) (s : State) (a : Nat × Bool × List Nat) : Option Nat :=
  let k := getCal s (ctxCal x)
  let hs := slotsHalves a.2.1 a.2.2
  matWait s x .bus ((decide (a.1 < 2) && !halfReadable k (bits w 17 17))
      || ((a.1 == 0 || a.1 == 2) && !halfReadable k (2 + bits w 18 18)))
    (slotWait k x true hs hs || (a.1 == 3 && k.ops.any fun o => o.ctx == x && o.dec == 2))

/-- SCALE's issue. -/
def scaleEffect (x w ofs : Nat) (s : State) (a : Nat × Bool × List Nat) : State :=
  let k := getCal s (ctxCal x)
  let hs := slotsHalves a.2.1 a.2.2
  let n := a.2.2.length
  let us := if a.1 < 2 then halfVecs k (bits w 17 17) (bits w 30 19) n else []
  let vs := if a.1 = 0 ∨ a.1 = 2 then halfVecs k (2 + bits w 18 18) (bits w 42 31) n else []
  addBus s x (if a.1 = 3 then n else 4 * n) { arrayOp .bus x ofs hs hs with dec := if a.1 = 3 then 1 else 0 }
    ⟨2, a.2.1, a.2.2.map fun n => (n, false), 0, a.1, us, vs⟩

/-- A SCALE in place: every cell of each slot times its decay (R85, R86, 03 R115), with the flags. -/
def scaleSlots (k : Cal) (e : BusEff) : Cal × Fl :=
  let q := planesOp k.acc e.f32 (e.slots.map (·.1)) fun p r c v =>
    let d := decayVal k e p r c
    if e.f32 then let t := scale32 v.1 d; ((t.1, fZero), t.2) else scale64 v d
  ({ k with acc := q.1 }, q.2)

/-- What a bus-path operation does in its place. -/
def busEffect (k : Cal) (e : BusEff) : Cal × Fl :=
  match e.kind with
  | 0 => (e.slots.foldl (fun k q => zeroSlot k e q) k, 0)
  | 1 => (e.slots.zipIdx.foldl (fun k q => biasSlot k e q.2 q.1) k, 0)
  | _ => scaleSlots k e

/-- SCALE (R85). -/
def execScale (x : Fin 64) : State → Host.Outcome State Fault Refusal :=
  issueSlot x.val .mat (opIs 0x05) fun s w ofs =>
    match itemOf s x.val with
    | none => .done s
    | some i => opRes (scaleCheck x.val i s w) (scaleWait x.val w s) (scaleEffect x.val w ofs s)

/-- LOADDECAY at issue: its plane (R67, R87). -/
def decayCheck (x : Nat) (i : Item) (s : State) (w : Nat) : Except Stop (Desc × List Nat) := do
  slotForm 16 w
  stopIf (i.decay = false) hDecayGrant 0
  let t ← planeTensor s x (bits w 15 6) 1 true
  stopIf (t.1.fmt ≠ 0) hOperandFormat (BitVec.ofNat 32 (bits w 15 6))
  return t

/-- The decay registers take the plane (R87). -/
def decayEffect (x ofs : Nat) (s : State) (t : Desc × List Nat) : State :=
  addOp (updCal s (ctxCal x) fun k =>
    { k with decay := cells.foldl (fun d p =>
        tput 0 (256 * p.1 + p.2) (rn32 (planeVal k.spad t.1 t.2 0 p.1 p.2).1) d) k.decay }) x 64
    { arrayOp .plane x ofs [] [] with dec := 2 }

/-- LOADDECAY (R87): it waits for earlier plane-form SCALEs. -/
def execLoadDecay (x : Fin 64) : State → Host.Outcome State Fault Refusal :=
  issueSlot x.val .mat (opIs 0x06) fun s w ofs =>
    match itemOf s x.val with
    | none => .done s
    | some i => opRes (decayCheck x.val i s w)
        (fun _ => matWait s x.val .plane false ((getCal s (ctxCal x.val)).ops.any fun o => o.ctx == x.val && o.dec == 1))
        (decayEffect x.val ofs s)

/-! ### DRAIN (R88 to R90) -/

/-- A DRAIN: mode, format, slot, first row, rows, first lane register of the Caldera. -/
structure DrainArgs where
  mode : Nat
  f32 : Bool
  slot : Nat
  r0 : Nat
  n : Nat
  base : Nat
  deriving DecidableEq, Repr

/-- Lane registers a DRAIN writes for each row. -/
def drainStep (mode : Nat) : Nat := if mode = 0 then 2 else 1

/-- DRAIN at issue. -/
def drainCheck (x : Nat) (i : Item) (s : State) (w : Nat) : Except Stop DrainArgs := do
  slotForm 37 w
  let mode := bits w 12 11
  let f32 := bit w 10
  let n := bits w 28 21 + 1
  stopIf (mode = 3) hBadField 0
  stopIf ((mode = 2) ≠ (f32 = true)) hSlotFormat 0
  let ns ← slotsIn (getCal s (ctxCal x)) i f32 (bits w 9 6) 1
  stopIf (256 < bits w 20 13 + n) hBadField 0
  stopIf (mode = 0 ∧ ns.any (holdsState s i f32) = true) hStateExposed 0
  stopIf (i.laneN < bits w 36 29 + drainStep mode * n) hLaneRange 0
  return { mode, f32, slot := ns.headD 0, r0 := bits w 20 13, n, base := i.laneBase + bits w 36 29 }

/-- Registers a DRAIN writes, in order. -/
def drainRegs (a : DrainArgs) : List Nat := (List.range (drainStep a.mode * a.n)).map (a.base + ·)

/-- Write a lane register of the Caldera. -/
def putLanes (k : Cal) (reg : Nat) (v : Nat → Word) : Cal :=
  { k with lanes := (List.range 256).foldl (fun l j => tput 0 (256 * reg + j) (v j) l) k.lanes,
           written := k.written ||| BitVec.ofNat 256 (2 ^ reg) }

/-- Row m of a DRAIN in its registers (R88): raw values. -/
def drainRow (acc : Acc) (a : DrainArgs) (k : Cal) (m : Nat) : Cal :=
  let w := fun j => cellBits acc a.f32 a.slot (a.r0 + m) j
  let k1 := putLanes k (a.base + drainStep a.mode * m) fun j => BitVec.ofNat 32 (w j)
  if a.mode = 0 then putLanes k1 (a.base + 2 * m + 1) fun j => BitVec.ofNat 32 (w j / 2 ^ 32) else k1

/-- DRAIN's effect. -/
def drainEffect (x ofs : Nat) (s : State) (a : DrainArgs) : State :=
  addOp (updCal (noteParity s x a.f32 [a.slot] ((List.range a.n).map (a.r0 + ·))) (ctxCal x) fun k =>
      (List.range a.n).foldl (drainRow k.acc a) k) x a.n
    { arrayOp .row x ofs (slotHalves a.f32 a.slot) [] with lwr := drainRegs a, step := drainStep a.mode }

/-- Registers that the rest of an instruction's run still reads (06 R180). -/
def lateReads (o : Op) : List Nat :=
  match o.rest with
  | none => []
  | some r => r.lrd

/-- An instruction that reads registers rd and writes registers wr waits for an earlier one of the context (06 R180):
one that still writes any of them, or still reads one it writes. -/
def laneBusy (ops : List Op) (x : Nat) (rd wr : List Nat) : Bool :=
  ops.any fun o => o.ctx == x && (meets (rd ++ wr) o.lwr || meets wr (lateReads o))

/-- DRAIN waits for its slot (cause 4), the row-read path (cause 6), then for its target registers (cause 7). -/
def drainWait (x : Nat) (s : State) (a : DrainArgs) : Option Nat :=
  let k := getCal s (ctxCal x)
  match matWait s x .row false (slotWait k x false (slotHalves a.f32 a.slot) []) with
  | some c => some c
  | none => if laneBusy k.ops x [] (drainRegs a) then some 7 else none

/-- DRAIN (R88). -/
def execDrain (x : Fin 64) : State → Host.Outcome State Fault Refusal :=
  issueSlot x.val .mat (opIs 0x07) fun s w ofs =>
    match itemOf s x.val with
    | none => .done s
    | some i => opRes (drainCheck x.val i s w) (drainWait x.val s) (drainEffect x.val ofs s)

/-! ### RECIRC (R93, R94) -/

/-- A RECIRC: format of the slots, slots, target half, slice offset, target format, scale tensor. -/
structure RecircArgs where
  f32 : Bool
  slots : List Nat
  half : Nat
  ofs : Nat
  fmt : Nat
  scale : Option (Desc × List Nat)
  deriving DecidableEq, Repr

/-- Format code of TFMT (07 Table 07.7). -/
def recircFmt (t : Nat) : Nat :=
  match t with
  | 0 => 1 | 1 => 2 | 2 => 4 | _ => 3

/-- RECIRC at issue (R67, R80, R226, R238). -/
def recircCheck (x : Nat) (i : Item) (s : State) (w : Nat) : Except Stop RecircArgs := do
  slotForm 40 w
  let n := bits w 14 11 + 1
  let t := bits w 29 28
  let h := bits w 39 30
  stopIf (8 < n) hBadField 0
  stopIf ((2 ≤ t) ≠ (h ≠ 0)) hBadField 0
  halfGrant i (bits w 15 15)
  let ns ← slotsIn (getCal s (ctxCal x)) i (bit w 10) (bits w 9 6) n
  stopIf (4096 < bits w 27 16 + 256 * n * (if 2 ≤ t then 1 else 2)) hBadField 0
  let sc ← if 2 ≤ t then (scaleTensor s x h (2048 * n)).map some else .ok none
  return { f32 := bit w 10, slots := ns, half := bits w 15 15, ofs := bits w 27 16, fmt := recircFmt t, scale := sc }

/-- The value of channel j of slot p, row r, of a RECIRC: the full pair or the F32 value (R93). -/
def recircVal (acc : Acc) (a : RecircArgs) (p r j : Nat) : Fv :=
  let v := decSlot a.f32 (cellBits acc a.f32 (a.slots.getD p 0) r j)
  if a.f32 then v.1 else pairVal v

/-- Largest exponent of E4M3 and E5M2 for R121. -/
def recircEmax (fmt : Nat) : Int := if fmt = 4 then 8 else 15

/-- Scale of group g of slot p, row r (03 R121); 127 for the 16-bit formats. -/
def recircScale (acc : Acc) (a : RecircArgs) (p r g : Nat) : Nat :=
  match a.scale with
  | none => 127
  | some _ => groupScale (recircEmax a.fmt) ((List.range 32).map fun e => recircVal acc a p r (32 * g + e))

/-- Operand bits and flags of channel j (03 R121: RNE with SAT). -/
def recircElem (acc : Acc) (a : RecircArgs) (p r j : Nat) : Nat × Fl :=
  convFmt a.fmt .rne true (fScale (recircVal acc a p r j) (127 - (recircScale acc a p r (j / 32) : Int)))

/-- The image a RECIRC writes: slices of the half. -/
def recircImage (acc : Acc) (a : RecircArgs) (m : Mem) : Mem :=
  (List.range a.slots.length).foldl (fun m p => cells.foldl (fun m e =>
    let v := (recircElem acc a p e.1 e.2).1
    let ix := 256 * p + e.2
    if a.scale.isSome then storeByte m (256 * (a.ofs + ix) + e.1) (BitVec.ofNat 8 v)
    else storeByte (storeByte m (256 * (a.ofs + 2 * ix) + e.1) (BitVec.ofNat 8 v))
      (256 * (a.ofs + 2 * ix + 1) + e.1) (BitVec.ofNat 8 (v / 256))) m) m

/-- The scales a RECIRC writes: group 8 p + g of row r at element 256 (8 p + g) + r of its scale tensor. -/
def recircScales (acc : Acc) (a : RecircArgs) (m : Mem) : Mem :=
  match a.scale with
  | none => m
  | some d =>
    (List.range (8 * a.slots.length)).foldl (fun m g => (List.range 256).foldl (fun m r =>
      storeByte m (addrOf d.1 d.2 [256 * g + r]) (BitVec.ofNat 8 (recircScale acc a (g / 8) r (g % 8)))) m) m

/-- Flags of a RECIRC. -/
def recircFlags (acc : Acc) (a : RecircArgs) : Fl :=
  (List.range a.slots.length).foldl (fun f p =>
    cells.foldl (fun f e => f ||| (recircElem acc a p e.1 e.2).2) f) 0

/-- RECIRC's effect: the half is FILLING until the image is complete, with its check operands (R62, R94). -/
def recircEffect (x ofs : Nat) (s : State) (a : RecircArgs) : State :=
  let k := getCal s (ctxCal x)
  let hf : Half := { halfOf k a.half with st := .filling, data := recircImage k.acc a (halfOf k a.half).data }
  let hf := withChecks hf a.fmt a.ofs (256 * a.slots.length)
  let s1 := updCal (noteParity s x a.f32 a.slots allRows) (ctxCal x) fun k1 =>
    { k1 with halves := tput {} a.half hf k.halves, spad := recircScales k.acc a k.spad }
  raiseAt (addOp s1 x (256 * a.slots.length)
    { arrayOp .row x ofs (slotsHalves a.f32 a.slots) [] with half := some a.half, step := if a.f32 then 1 else 2 })
    x ofs 1 (recircFlags k.acc a)

/-- RECIRC (R93). -/
def execRecirc (x : Fin 64) : State → Host.Outcome State Fault Refusal :=
  issueSlot x.val .mat (opIs 0x08) fun s w ofs =>
    match itemOf s x.val with
    | none => .done s
    | some i => opRes (recircCheck x.val i s w)
        (fun a => matWait s x.val .row (decide ((halfOf (getCal s (ctxCal x.val)) a.half).st = .inUse))
          (slotWait (getCal s (ctxCal x.val)) x.val false (slotsHalves a.f32 a.slots) []))
        (recircEffect x.val ofs s)

/-- The first operation of a path that has not reached its place. -/
def firstOp (k : Cal) (u : Path) : Option Op := k.ops.find? fun o => decide (o.path = u)

/-- RECIRC_READY (R94): the first operation of the Caldera's row-read path is a RECIRC, and it is in place. Behind an
earlier operation of the path, which keeps its order (R79), no RECIRC is. -/
def execRecircReady (c : Fin 4) (s : State) : Host.Outcome State Fault Refusal :=
  let k := getCal s c.val
  match firstOp k .row with
  | none => .next s
  | some o =>
    match o.half with
    | none => .next s
    | some h =>
      .next (settle (setCal s c.val (fillEnds { k with ops := delFirst (fun p => decide (p = o)) k.ops } h)) o.ctx)

/-! ### SAVE and RESTORE (R91, R92) -/

/-- A program SAVE or RESTORE: format, slots, first row-image, and the rows with their Sinter slots. -/
structure SegArgs where
  f32 : Bool
  slots : List Nat
  first : Nat
  rows : List (Nat × Nat)
  deriving DecidableEq, Repr

/-- SAVE or RESTORE at issue: only segments of a state with S < W, inside the segment (R92). A SAVE names slots in the
format they hold (R76). -/
def segCheck (x : Nat) (i : Item) (s : State) (save : Bool) (w : Nat) : Except Stop SegArgs := do
  slotForm 20 w
  let f32 := bit w 10
  let n := bits w 14 11 + 1
  let ns ← if save then slotsIn (getCal s (ctxCal x)) i f32 (bits w 9 6) n else slotRange i f32 (bits w 9 6) n
  match (imgOf s i.img).layers with
  | [] => .error (hStateRange, 0)
  | l :: _ =>
    let sg := l.segM1 + 1
    stopIf (i.task = true ∨ l.widthM1 ≤ l.segM1 ∨ l.widthM1 + 1 < (bits w 19 15 + 1) * sg ∨ sg < n) hStateRange 0
    stopIf ((l.f32 = 1) ≠ (f32 = true)) hSlotFormat 0
    return { f32, slots := ns, first := bits w 19 15 * sg, rows := usedRows s i }

/-- Bytes of a row-image (01 R24). -/
def imageBytes (f32 : Bool) : Nat := if f32 then 1024 else 2048

/-- Bits of channel c in row-image n of a state that starts at byte a. -/
def imageWord (m : Mem) (f32 : Bool) (a n c : Nat) : Nat :=
  load m (a + n * imageBytes f32 + (if f32 then 4 else 8) * c) (if f32 then 4 else 8)

/-- What a restore writes for a value of a row-image: a P64 pair that is not normalised is normalised as it enters the
slot (03 R105). -/
def restoreBits (f32 : Bool) (w : Nat) : Nat := if f32 then w else encPair (p64Norm (decPair w))

/-- Flags of that normalisation (03 R108). -/
def restoreFlags (f32 : Bool) (w : Nat) : Fl := if f32 then 0 else (setPair (decPair w)).2

/-- Put row-images first on of the state at byte a of m into slots of row r (R91). -/
def restoreRow (k : Cal) (m : Mem) (f32 : Bool) (slots : List Nat) (first r a : Nat) : Cal :=
  slots.zipIdx.foldl (fun k e =>
    setSlotRow k f32 e.1 r fun c => restoreBits f32 (imageWord m f32 a (first + e.2) c)) k

/-- Flags of putting row-images first on of the state at byte a of m into n slots. -/
def restoreRowFlags (m : Mem) (f32 : Bool) (n first a : Nat) : Fl :=
  (List.range n).foldl (fun f e => (List.range 256).foldl (fun f c =>
    f ||| restoreFlags f32 (imageWord m f32 a (first + e) c)) f) 0

/-- Write row r of slots to row-images first on of the state at byte a of m (R91). -/
def saveRow (k : Cal) (m : Mem) (f32 : Bool) (slots : List Nat) (first r a : Nat) : Mem :=
  slots.zipIdx.foldl (fun m e => (List.range 256).foldl (fun m c =>
    store m (a + (first + e.2) * imageBytes f32 + (if f32 then 4 else 8) * c) (if f32 then 4 else 8)
      (cellBits k.acc f32 e.1 r c)) m) m

/-- Byte where a commit save of slot v writes: the uncommitted half of a half-slot state, or the slot in place
(01 R36, R92). -/
def saveBase (s : State) (v : Nat) : Nat := slotBase v (isHalf (getSlot s v) && !(getSlot s v).half)

/-- The committed copy of slot v for an item: memory and first byte; of a full-slot state its starting copy in the
scratchpad (01 R26, R38, R92). -/
def commitBase (s : State) (i : Item) (row v : Nat) : Mem × Nat :=
  if isHalf (getSlot s v) then (s.sinter, slotBase v (getSlot s v).half)
  else
    match i.starts.find? fun p => decide (p.1 = row) with
    | some p => ((getCal s i.cal).spad, p.2)
    | none => (s.sinter, slotBase v false)

/-- Cycles that the rows of a SAVE or RESTORE occupy the plane port (01 R29): 4 KiB an ACLK cycle for a slot of the
Caldera's own quadrant, 1 KiB an FCLK cycle, 6/5 of an ACLK cycle's length to 5/5, for another's. -/
def segCycles (c : Nat) (a : SegArgs) : Nat :=
  (a.rows.map fun r =>
    let n := a.slots.length * imageBytes a.f32
    if r.2 / 1024 = c then n else n * 24 / 5).sum / 4096 + 1

/-- SAVE (R92): row-images to the slots' uncommitted copies. -/
def execSave (x : Fin 64) : State → Host.Outcome State Fault Refusal :=
  issueSlot x.val .mat (opIs 0x09) fun s w ofs =>
    match itemOf s x.val with
    | none => .done s
    | some i => opRes (segCheck x.val i s true w)
        (fun a => matWait s x.val .plane false
          (slotWait (getCal s (ctxCal x.val)) x.val false (slotsHalves a.f32 a.slots) []))
        (fun a => addOp { noteParity s x.val a.f32 a.slots (a.rows.map (·.1)) with sinter := a.rows.foldl (fun m r =>
            saveRow (getCal s (ctxCal x.val)) m a.f32 a.slots a.first r.1 (saveBase s r.2)) s.sinter } x.val
          (segCycles (ctxCal x.val) a)
          (arrayOp .plane x.val ofs (slotsHalves a.f32 a.slots) []))

/-- RESTORE (R92): row-images from the committed copies. A row that the reset mask names at step 0 gets its committed
copy too where a program restores a later segment of it: 01 R40 rule 1 and 04 R149 speak of the dispatcher's restore
only, and this is the model's choice (DESIGN CHOICE, log entry 140). -/
def execRestore (x : Fin 64) : State → Host.Outcome State Fault Refusal :=
  issueSlot x.val .mat (opIs 0x0A) fun s w ofs =>
    match itemOf s x.val with
    | none => .done s
    | some i => opRes (segCheck x.val i s false w)
        (fun a => matWait s x.val .plane false (slotWait (getCal s (ctxCal x.val)) x.val false []
          (formatHalves (getCal s (ctxCal x.val)) a.f32 a.slots)))
        (fun a => raiseAt (addOp (updCal s (ctxCal x.val) fun k => a.rows.foldl (fun k r =>
            restoreRow k (commitBase s i r.1 r.2).1 a.f32 a.slots a.first r.1 (commitBase s i r.1 r.2).2) k) x.val
          (segCycles (ctxCal x.val) a)
          (arrayOp .plane x.val ofs [] (formatHalves (getCal s (ctxCal x.val)) a.f32 a.slots))) x.val ofs 1
          (a.rows.foldl (fun f r =>
            f ||| restoreRowFlags (commitBase s i r.1 r.2).1 a.f32 a.slots.length a.first (commitBase s i r.1 r.2).2) 0))

/-! ### GACC (05 R171) -/

/-- Bytes of a tile (05 R169). -/
def tileBytes (t : Tile) : Nat := if t.row then 1024 else if t.p64 then 524288 else 262144

/-- Byte of the scratchpad where delta e of an item starts: deltas lie in tile order from the start of the item's
reservation. The tile map is that of the image the context runs on now, also where a switch (07 R252) has left the image
whose deltas were set to +0 at the start: the spec does not say which map holds (DESIGN CHOICE, log entry 141). -/
def deltaAddr (s : State) (i : Item) (e : Nat) : Nat :=
  i.spadBase + (((imgOf s i.img).tiles.take e).map tileBytes).sum

/-- GACC at issue: format, slot, address of the delta (R171). -/
def gaccCheck (x : Nat) (i : Item) (s : State) (w : Nat) : Except Stop (Bool × Nat × Nat) := do
  slotForm 23 w
  let f32 := bit w 10
  let ns ← slotsIn (getCal s (ctxCal x)) i f32 (bits w 9 6) 1
  stopIf (ns.any (holdsState s i f32) = true) hStateExposed 0
  match (imgOf s i.img).tiles[bits w 22 11]? with
  | none => .error (hGradMap, 0)
  | some t =>
    stopIf (t.row = true) hGradMap 0
    stopIf (t.p64 = f32) hSlotFormat 0
    return (f32, ns.headD 0, deltaAddr s i (bits w 22 11))

/-- One element of a delta or total plus a value, with the addition of its format (03 R114). -/
def addElem (f32 : Bool) (m : Mem) (a : Nat) (v : Pair) : Mem × Fl :=
  let old := decSlot f32 (load m a (if f32 then 4 else 8))
  let r := if f32 then let t := add32 old.1 v.1; ((t.1, fZero), t.2) else addPair old v
  (store m a (if f32 then 4 else 8) (encSlot f32 r.1), r.2)

/-- A slot added into its delta. -/
def gaccEffect (x ofs : Nat) (s : State) (a : Bool × Nat × Nat) : State :=
  let k := getCal s (ctxCal x)
  let q := cells.foldl (fun (r : Mem × Fl) p =>
    let t := addElem a.1 r.1 (a.2.2 + (if a.1 then 4 else 8) * (256 * p.1 + p.2))
      (decSlot a.1 (cellBits k.acc a.1 a.2.1 p.1 p.2))
    (t.1, r.2 ||| t.2)) (k.spad, 0)
  raiseAt (addOp (updCal (noteParity s x a.1 [a.2.1] allRows) (ctxCal x) fun k => { k with spad := q.1 }) x (planeCycles a.1 1)
    (arrayOp .plane x ofs (slotHalves a.1 a.2.1) [])) x ofs 1 q.2

/-- GACC (R171). -/
def execGacc (x : Fin 64) : State → Host.Outcome State Fault Refusal :=
  issueSlot x.val .mat (opIs 0x0B) fun s w ofs =>
    match itemOf s x.val with
    | none => .done s
    | some i => opRes (gaccCheck x.val i s w)
        (fun a => matWait s x.val .plane false
          (slotWait (getCal s (ctxCal x.val)) x.val false (slotHalves a.1 a.2.1) []))
        (gaccEffect x.val ofs s)

/-! ### Results in place (R81, 06 R180, R200) -/

/-- What is left of an operation after one more result: a DRAIN gives a row at a time, a vector or SFU instruction a
register of its run, a RECIRC ends the reading of a slot at a time and stays until its half is READY. -/
def opAfter (o : Op) : Option Op :=
  if o.half.isSome then some { o with rd := o.rd.drop o.step }
  else if o.step = 0 ∨ o.lwr.length ≤ o.step then none
  else some { o with lwr := o.lwr.drop o.step }

/-- An earlier run has promotions to make: the bus path keeps its order (R73, R79). -/
def busWaits (k : Cal) (o : Op) : Bool :=
  o.bus.isSome && k.runs.any fun r => decide (r.promoted < groupsOf r.k) && decide (r.no < o.no)

/-- The next result of operation o reaches its place. -/
def placeResult (s : State) (c : Nat) (o : Op) : State :=
  let k := getCal s c
  let ops := match opAfter o with
    | none => delFirst (fun p => decide (p = o)) k.ops
    | some o' => updFirst (fun p => decide (p = o)) (fun _ => o') k.ops
  let q := match o.bus with
    | none => (k, (0 : Fl))
    | some e => busEffect k e
  let bad := match o.bus with
    | some e => if e.kind = 2 then (parityFault k c o.ctx e.f32 (e.slots.map (·.1)) allRows).toList else []
    | none => []
  settle (raiseFrom (setCal s c { q.1 with ops := ops, found := q.1.found ++ bad }) o.ctx o.img o.ofs 1 q.2) o.ctx

end Sys2Proof.Machine
end

