-- ==== Sys2Proof/Machine/Vec.lean ====
section
/-! DEFINITION. The VEC slot: lane registers, elementwise operations, conversions, curves, reductions, loads and
stores (06_vector_and_functions.md R176 to R198; 07 R227 to R229). -/

namespace Sys2Proof.Machine

/-! ### Lane registers and the frame of a vector instruction -/

/-- Lane j of register reg of the Caldera; a register not written since its grant reads +0 (R178). -/
def laneVal (k : Cal) (reg j : Nat) : Word := if k.written.getLsbD reg then tget 0 (256 * reg + j) k.lanes else 0

/-- Registers first to first + n − 1 lie in the item's range (R177). -/
def laneIn (i : Item) (first n : Nat) : Except Stop Unit := stopIf (i.laneN < first + n) hLaneRange 0

/-- Fields of a VEC slot (07 Table 07.8). -/
def vD (w : Nat) : Nat := bits w 13 6
def vA (w : Nat) : Nat := bits w 21 14
def vB (w : Nat) : Nat := bits w 29 22
def vC (w : Nat) : Nat := bits w 37 30
def vRun (w : Nat) : Nat := bits w 41 38 + 1
def vOpt (w : Nat) : Nat := bits w 63 44

/-- Bits outside the fields an operation uses are zero (R227, Table 07.16). -/
def vecForm (used w : Nat) : Except Stop Unit :=
  stopIf (Nat.land w (Nat.xor used (2 ^ 64 - 1)) ≠ 0) hReservedField 0

/-- Bits of OP, D, A and RUN. -/
def useA : Nat := 0x000003C0003FFFFF
/-- Bits of B and BB. -/
def useB : Nat := 0x000004003FC00000
/-- Bits of C and CB. -/
def useC : Nat := 0x0000083FC0000000
/-- OPT bits hi..lo. -/
def useOpt (hi lo : Nat) : Nat := (2 ^ (hi + 1) - 2 ^ lo) * 2 ^ 44

/-- What a vector instruction does: the register ranges it reads and writes, relative to the item's range, the range
that every register of its run uses whole, the unit's cycles for a register, the tensor of a VLD or VST as its issue
takes it, and its work on register m of the run, from the Caldera and SR_STATE. -/
structure VecOp where
  reads : List (Nat × Nat)
  writes : List (Nat × Nat)
  whole : Option (Nat × Nat) := none
  run : Nat
  cost : Nat := 1
  tens : Option (Desc × List Nat × Nat) := none
  work : Cal → Word → Nat → Cal × Word × Fl

/-- Every register of a vector instruction lies in the range (R177). -/
def vecLanes (i : Item) (o : VecOp) : Except Stop Unit :=
  (o.reads ++ o.writes).foldl (fun r p =>
    match r with
    | .error e => .error e
    | .ok () => laneIn i p.1 p.2) (.ok ())

/-- Storage numbers of the registers that register m of the run uses of the given ranges (R180): all of a broadcast one
or of the range used whole, two of a range of pairs, two neighbours for a P64 pair, else one. -/
def regsAt (i : Item) (o : VecOp) (rs : List (Nat × Nat)) (m : Nat) : List Nat :=
  rs.flatMap fun r =>
    let ns :=
      if o.whole = some r then List.range r.2
      else if r.2 = 1 then [0]
      else if r.2 = 2 * o.run then [2 * m, 2 * m + 1]
      else if r.2 = o.run + 1 then [m, m + 1]
      else [m]
    ns.map (i.laneBase + r.1 + ·)

/-- Register m of the run finds its registers free of earlier instructions (R180). -/
def stepFree (ops : List Op) (x : Nat) (i : Item) (o : VecOp) (m : Nat) : Bool :=
  !laneBusy ops x (regsAt i o o.reads m) (regsAt i o o.writes m)

/-- A unit still has registers of an earlier instruction's run to process: it accepts its next instruction behind them
(R181, R200). -/
def unitHeld (k : Cal) (u : Path) : Bool := k.ops.any fun o => decide (o.path = u) && o.rest.isSome

/-- A vector or SFU instruction waits for the registers of the first register of its run, then for its unit (R180, R181,
R200; 08 Table 08.4). -/
def vecWait (u : Path) (x : Nat) (i : Item) (s : State) (o : VecOp) : Option Nat :=
  if stepFree (getCal s (ctxCal x)).ops x i o 0 = false then some 7
  else if pathBusy s x u || unitHeld (getCal s (ctxCal x)) u then some (if u = .sfu then 9 else 8)
  else none

/-- Registers of the run, from m on, that are free one after the other. -/
def freeSteps (ops : List Op) (x : Nat) (i : Item) (o : VecOp) : Nat :=
  ((List.range o.run).takeWhile (stepFree ops x i o)).length

/-- The first n registers of the run in order, each as an instruction of its own (R180, R181). -/
def vecWork (x : Nat) (s : State) (o : VecOp) (n : Nat) : Cal × Word × Fl :=
  (List.range n).foldl (fun a m =>
    let r := o.work a.1 a.2.1 m
    (r.1, r.2.1, a.2.2 ||| r.2.2)) (getCal s (ctxCal x), (getCtx s x).sr, 0)

/-- What is left of an instruction from register m of its run on. -/
def restFrom (i : Item) (o : VecOp) (w : Nat) (cnt : Tab Word) (m : Nat) : Option LaneRest :=
  if m < o.run then
    some { w, cnt, m, lrd := ((List.range o.run).drop m).flatMap fun n => regsAt i o o.reads n, img := i.img,
           tens := o.tens }
  else none

/-- Record of a vector-unit or SFU instruction of which n registers are processed: the registers it writes, register by
register of its run. -/
def laneOp (path : Path) (x ofs : Nat) (i : Item) (s : State) (w : Nat) (o : VecOp) (n : Nat) : Op :=
  { path, ctx := x, ofs, rd := [], wr := [], lwr := (List.range o.run).flatMap (regsAt i o o.writes),
    step := (regsAt i o o.writes 0).length,
    half := none, dec := 0, no := 0, bus := none, rest := restFrom i o w (getCtx s x).cPrev n }

/-- Effect of a vector or SFU instruction (R181, R182, R200): it processes the registers of its run that are free; the
others follow as theirs become free. -/
def laneEffect (u : Path) (sl x ofs : Nat) (i : Item) (s : State) (w : Nat) (o : VecOp) : State :=
  let n := freeSteps (getCal s (ctxCal x)).ops x i o
  let q := vecWork x s o n
  raiseAt (addOp (updCtx (setCal s (ctxCal x) q.1) x fun c => { c with sr := q.2.1 }) x (o.cost * o.run)
    (laneOp u x ofs i s w o n)) x ofs sl q.2.2

/-- Effect of a vector instruction. -/
def vecEffect (x ofs : Nat) (i : Item) (s : State) (w : Nat) (o : VecOp) : State := laneEffect .vec 2 x ofs i s w o

/-- Issue of a vector instruction whose form gives a VecOp. -/
def vecIssue (x : Nat) (op : Nat) (form : Item → State → Nat → Except Stop VecOp) :
    State → Host.Outcome State Fault Refusal :=
  issueSlot x .vec (opIs op) fun s w ofs =>
    match itemOf s x with
    | none => .done s
    | some i => opRes (do let o ← form i s w; vecLanes i o; return o) (vecWait .vec x i s) (vecEffect x ofs i s w)

/-! ### Elementwise operations (Table 06.1) -/

/-- Register m of a source; a broadcast one does not step (R227). -/
def srcReg (n m : Nat) (bcast : Bool) : Nat := if bcast then n else n + m

/-- Registers of a source run. -/
def srcSpan (n run : Nat) (bcast : Bool) : Nat × Nat := (n, if bcast then 1 else run)

/-- Write register reg from a function of the lane that gives a result and flags; the flags are ORed. -/
def putLanesFl (k : Cal) (reg : Nat) (f : Nat → Word × Fl) : Cal × Fl :=
  (putLanes k reg fun j => (f j).1, (List.range 256).foldl (fun a j => a ||| (f j).2) 0)

/-- An elementwise operation of one, two or three sources. -/
def elemwise (n : Nat) (f : Word → Word → Word → Word × Fl) (i : Item) (_ : State) (w : Nat) : Except Stop VecOp := do
  vecForm (useA + (if 2 ≤ n then useB else 0) + (if n = 3 then useC else 0)) w
  let bb := bit w 42
  let cb := bit w 43
  return { reads := (srcSpan (vA w) (vRun w) false :: (if 2 ≤ n then [srcSpan (vB w) (vRun w) bb] else []))
             ++ (if n = 3 then [srcSpan (vC w) (vRun w) cb] else []),
           writes := [(vD w, vRun w)], run := vRun w,
           work := fun k sr m =>
             let q := putLanesFl k (i.laneBase + vD w + m) fun j =>
               f (laneVal k (i.laneBase + vA w + m) j) (laneVal k (i.laneBase + srcReg (vB w) m bb) j)
                 (laneVal k (i.laneBase + srcReg (vC w) m cb) j)
             (q.1, sr, q.2) }

/-- FP32 addition of lanes. -/
def fpAdd (a b _c : Word) : Word × Fl := op32 [f32 a, f32 b] (fAdd (f32 a) (f32 b))
/-- FP32 subtraction. -/
def fpSub (a b _c : Word) : Word × Fl := op32 [f32 a, f32 b] (fSub (f32 a) (f32 b))
/-- FP32 multiplication. -/
def fpMul (a b _c : Word) : Word × Fl := op32 [f32 a, f32 b] (fMul (f32 a) (f32 b))
/-- Fused multiply-add, one rounding. -/
def fpFma (a b c : Word) : Word × Fl := op32 [f32 a, f32 b, f32 c] (fAdd (fMul (f32 a) (f32 b)) (f32 c))
/-- Minimum. -/
def fpMin (a b _c : Word) : Word × Fl := (rn32 (fMin (f32 a) (f32 b)), 0)
/-- Maximum. -/
def fpMax (a b _c : Word) : Word × Fl := (rn32 (fMax (f32 a) (f32 b)), 0)
/-- Absolute value. -/
def fpAbs (a _b _c : Word) : Word × Fl := (rn32 (fAbs (f32 a)), 0)
/-- Negation. -/
def fpNeg (a _b _c : Word) : Word × Fl := (rn32 (fNeg (f32 a)), 0)
/-- All ones where a comparison holds. -/
def maskIf (b : Bool) : Word × Fl := (if b then 0xFFFFFFFF else 0, 0)

/-- CMPEQ of a lane. -/
def laneEq (a b _c : Word) : Word × Fl := maskIf (fEq (f32 a) (f32 b))
/-- CMPLT of a lane. -/
def laneLt (a b _c : Word) : Word × Fl := maskIf (fLt (f32 a) (f32 b))
/-- CMPLE of a lane. -/
def laneLe (a b _c : Word) : Word × Fl := maskIf (fLe (f32 a) (f32 b))
/-- SEL of a lane: a where the mask is not 0, otherwise b. -/
def laneSel (a b m : Word) : Word × Fl := (if m ≠ 0 then a else b, 0)
/-- MOV of a lane. -/
def laneMov (a _b _c : Word) : Word × Fl := (a, 0)
/-- The integer operations of a lane; a shift amount is bits [4:0] of b. -/
def laneIadd (a b _c : Word) : Word × Fl := (a + b, 0)
def laneIsub (a b _c : Word) : Word × Fl := (a - b, 0)
def laneIand (a b _c : Word) : Word × Fl := (a &&& b, 0)
def laneIor (a b _c : Word) : Word × Fl := (a ||| b, 0)
def laneIxor (a b _c : Word) : Word × Fl := (a ^^^ b, 0)
def laneIshl (a b _c : Word) : Word × Fl := (a <<< (b.toNat % 32), 0)
def laneIshr (a b _c : Word) : Word × Fl := (a >>> (b.toNat % 32), 0)

/-- ADD. -/
def execVecAdd (x : Fin 64) : State → Host.Outcome State Fault Refusal := vecIssue x.val 0x01 (elemwise 2 fpAdd)
/-- SUB. -/
def execVecSub (x : Fin 64) : State → Host.Outcome State Fault Refusal := vecIssue x.val 0x02 (elemwise 2 fpSub)
/-- MUL. -/
def execVecMul (x : Fin 64) : State → Host.Outcome State Fault Refusal := vecIssue x.val 0x03 (elemwise 2 fpMul)
/-- FMA. -/
def execFma (x : Fin 64) : State → Host.Outcome State Fault Refusal := vecIssue x.val 0x04 (elemwise 3 fpFma)
/-- MIN. -/
def execMin (x : Fin 64) : State → Host.Outcome State Fault Refusal := vecIssue x.val 0x05 (elemwise 2 fpMin)
/-- MAX. -/
def execMax (x : Fin 64) : State → Host.Outcome State Fault Refusal := vecIssue x.val 0x06 (elemwise 2 fpMax)
/-- ABS. -/
def execAbs (x : Fin 64) : State → Host.Outcome State Fault Refusal := vecIssue x.val 0x07 (elemwise 1 fpAbs)
/-- NEG. -/
def execNeg (x : Fin 64) : State → Host.Outcome State Fault Refusal := vecIssue x.val 0x08 (elemwise 1 fpNeg)
/-- CMPEQ. -/
def execCmpeq (x : Fin 64) : State → Host.Outcome State Fault Refusal :=
  vecIssue x.val 0x09 (elemwise 2 laneEq)
/-- CMPLT. -/
def execCmplt (x : Fin 64) : State → Host.Outcome State Fault Refusal :=
  vecIssue x.val 0x0A (elemwise 2 laneLt)
/-- CMPLE. -/
def execCmple (x : Fin 64) : State → Host.Outcome State Fault Refusal :=
  vecIssue x.val 0x0B (elemwise 2 laneLe)
/-- SEL: a where the mask is not 0, otherwise b. -/
def execSel (x : Fin 64) : State → Host.Outcome State Fault Refusal :=
  vecIssue x.val 0x0C (elemwise 3 laneSel)
/-- MOV. -/
def execVecMov (x : Fin 64) : State → Host.Outcome State Fault Refusal :=
  vecIssue x.val 0x0D (elemwise 1 laneMov)

/-- MOVI: the immediate in every lane of the run. -/
def moviForm (i : Item) (_ : State) (w : Nat) : Except Stop VecOp := do
  vecForm (0x3FFF + 0x3FFFC000 + 0x3C000000000 + 0xFFFF000000000000) w
  let v := BitVec.ofNat 32 (bits w 29 14 + 65536 * bits w 63 48)
  return { reads := [], writes := [(vD w, vRun w)], run := vRun w,
           work := fun k sr m => (putLanes k (i.laneBase + vD w + m) fun _ => v, sr, 0) }

/-- MOVI. -/
def execMovi (x : Fin 64) : State → Host.Outcome State Fault Refusal := vecIssue x.val 0x0E moviForm

/-- IADD. -/
def execIadd (x : Fin 64) : State → Host.Outcome State Fault Refusal :=
  vecIssue x.val 0x10 (elemwise 2 laneIadd)
/-- ISUB. -/
def execIsub (x : Fin 64) : State → Host.Outcome State Fault Refusal :=
  vecIssue x.val 0x11 (elemwise 2 laneIsub)
/-- IAND. -/
def execIand (x : Fin 64) : State → Host.Outcome State Fault Refusal :=
  vecIssue x.val 0x12 (elemwise 2 laneIand)
/-- IOR. -/
def execIor (x : Fin 64) : State → Host.Outcome State Fault Refusal :=
  vecIssue x.val 0x13 (elemwise 2 laneIor)
/-- IXOR. -/
def execIxor (x : Fin 64) : State → Host.Outcome State Fault Refusal :=
  vecIssue x.val 0x14 (elemwise 2 laneIxor)
/-- ISHL: the amount is bits [4:0] of b. -/
def execIshl (x : Fin 64) : State → Host.Outcome State Fault Refusal :=
  vecIssue x.val 0x15 (elemwise 2 laneIshl)
/-- ISHR, logical. -/
def execIshr (x : Fin 64) : State → Host.Outcome State Fault Refusal :=
  vecIssue x.val 0x16 (elemwise 2 laneIshr)

/-! ### Conversions (R183 to R186) -/

/-- The number lane j draws from SR_STATE (R185). -/
def srDraw (sr : Word) (j : Nat) : Nat :=
  let v := sr + BitVec.ofNat 32 j * 0x9e3779b9
  let v := (v ^^^ (v >>> 16)) * 0x85ebca6b
  let v := (v ^^^ (v >>> 13)) * 0xc2b2ae35
  (v ^^^ (v >>> 16)).toNat

/-- Rounding mode code of CVT and MXCVT for lane j. -/
def rmOf (code : Nat) (sr : Word) (j : Nat) : Rm :=
  match code with
  | 0 => .rne
  | 1 => .rtz
  | _ => .sr (srDraw sr j)

/-- SR_STATE after one register (R185). -/
def srNext (code : Nat) (sr : Word) : Word := if code = 2 then sr + 0x3779b900 else sr

/-- CVT forms of Table 06.2. -/
inductive CvtForm where
  | widen | narrow | pair | toInt | ofInt | split
  deriving DecidableEq, Repr

/-- The form a source, a target and SPLIT select; none for a pair that Table 06.2 does not list. -/
def cvtForm (sf tf : Nat) (split : Bool) : Option CvtForm :=
  let narrowT := decide (1 ≤ tf) && decide (tf ≤ 9)
  if split then (if sf = 0 ∧ tf = 1 then some .split else none)
  else if tf = 0 ∧ ((1 ≤ sf ∧ sf ≤ 9) ∨ sf = 12) then some .widen
  else if sf = 0 ∧ narrowT = true then some .narrow
  else if sf = 11 ∧ (tf = 0 ∨ narrowT = true) then some .pair
  else if sf = 0 ∧ tf = 10 then some .toInt
  else if sf = 10 ∧ tf = 0 then some .ofInt
  else none

/-- One lane of a CVT, but for SPLIT: a is the source, t the tail of a pair. Table 06.1 gives CVT the flags of Table
03.4 alone, which has no INVALID: a pair of opposite infinities gives NaN and no flag, while a SPLIT of an infinity,
whose low part is a difference that R119 writes out, raises INVALID (DESIGN CHOICE, log entry 153). -/
def cvtLane (fm : CvtForm) (sf tf : Nat) (rm : Rm) (sat : Bool) (a t : Word) : Word × Fl :=
  match fm with
  | .widen => op32 [decFmt sf a.toNat] (decFmt sf a.toNat)
  | .ofInt => (rn32 (fOfInt a.toInt 0), 0)
  | .pair => let r := convFmt tf rm sat (pairVal (f32 a, f32 t)); (BitVec.ofNat 32 r.1, r.2)
  | _ => let r := convFmt tf rm sat (f32 a); (BitVec.ofNat 32 r.1, r.2)

/-- BF16 high part of a split (03 R119). -/
def splitHi (a : Word) : Nat × Fl := convFmt 1 .rne false (f32 a)

/-- BF16 low part of a split. -/
def splitLo (a : Word) : Nat × Fl :=
  let v := fSub (f32 a) (decFmt 1 (splitHi a).1)
  let r := convFmt 1 .rne false v
  (r.1, r.2 ||| if fIsNan v && !fIsNan (f32 a) then flInvalid else 0)

/-- CVT at issue (R183). -/
def cvtIssue (i : Item) (_ : State) (w : Nat) : Except Stop VecOp := do
  vecForm (useA + useOpt 11 0) w
  let sf := bits (vOpt w) 3 0
  let tf := bits (vOpt w) 7 4
  let md := bits (vOpt w) 9 8
  let sat := bit (vOpt w) 10
  match cvtForm sf tf (bit (vOpt w) 11) with
  | none => .error (hOperandFormat, 0)
  | some fm =>
    stopIf (md = 3 ∨ (fm = .toInt ∧ md = 2)) hBadField 0
    let rs := fun m => i.laneBase + vA w + m
    if fm = .split then
      return { reads := [(vA w, vRun w)], writes := [(vD w, 2 * vRun w)], run := vRun w,
               work := fun k sr m =>
                 let hi := putLanesFl k (i.laneBase + vD w + 2 * m) fun j =>
                   (BitVec.ofNat 32 (splitHi (laneVal k (rs m) j)).1, (splitHi (laneVal k (rs m) j)).2)
                 let lo := putLanesFl hi.1 (i.laneBase + vD w + 2 * m + 1) fun j =>
                   (BitVec.ofNat 32 (splitLo (laneVal k (rs m) j)).1, (splitLo (laneVal k (rs m) j)).2)
                 (lo.1, srNext md sr, hi.2 ||| lo.2) }
    else
      return { reads := [(vA w, if fm = .pair then vRun w + 1 else vRun w)], writes := [(vD w, vRun w)], run := vRun w,
               work := fun k sr m =>
                 let q := putLanesFl k (i.laneBase + vD w + m) fun j =>
                   cvtLane fm sf tf (rmOf md sr j) sat (laneVal k (rs m) j) (laneVal k (rs m + 1) j)
                 (q.1, srNext md sr, q.2) }

/-- CVT. -/
def execCvt (x : Fin 64) : State → Host.Outcome State Fault Refusal := vecIssue x.val 0x18 cvtIssue

/-- emax of an MXCVT target (R184). -/
def mxEmax (tf : Nat) : Int :=
  match tf with
  | 4 => 8 | 3 => 15 | 5 => 2 | _ => 0

/-- Scale of group g of a register (R184, 03 R121). -/
def mxScale (tf : Nat) (v : Nat → Word) (g : Nat) : Nat :=
  groupScale (mxEmax tf) ((List.range 32).map fun e => f32 (v (32 * g + e)))

/-- Element of lane j (R184): divided by its scale, times 2^6 for MXINT8, then rounded with SAT. -/
def mxElem (tf : Nat) (rm : Rm) (v : Nat → Word) (j : Nat) : Nat × Fl :=
  convFmt tf rm true (fScale (f32 (v j)) (127 - (mxScale tf v (j / 32) : Int) + if tf = 6 then 6 else 0))

/-- MXCVT at issue. Where the scale register is an element register of the same step, R184 does not say which of the two
it holds: the model writes the scales last, so that they stay (DESIGN CHOICE, log entry 154). -/
def mxcvtIssue (i : Item) (_ : State) (w : Nat) : Except Stop VecOp := do
  vecForm (useA + 0x3FC00000 + useOpt 9 4) w
  let tf := bits (vOpt w) 7 4
  let md := bits (vOpt w) 9 8
  stopIf (tf < 3 ∨ 6 < tf) hOperandFormat 0
  stopIf (md = 3) hBadField 0
  return { reads := [(vA w, vRun w)], writes := [(vD w, vRun w), (vB w, vRun w)], run := vRun w,
           work := fun k sr m =>
             let v := laneVal k (i.laneBase + vA w + m)
             let q := putLanesFl k (i.laneBase + vD w + m) fun j =>
               let r := mxElem tf (rmOf md sr j) v j
               (BitVec.ofNat 32 r.1, r.2)
             (putLanes q.1 (i.laneBase + vB w + m) fun j => if j < 8 then BitVec.ofNat 32 (mxScale tf v j) else 0,
              srNext md sr, q.2) }

/-- MXCVT. -/
def execMxcvt (x : Fin 64) : State → Host.Outcome State Fault Refusal := vecIssue x.val 0x19 mxcvtIssue

/-! ### Gate curves (R194 to R198) -/

/-- FP32 value of a quotient of finite values, the divisor not 0, rounded once. -/
def divRn : Fv → Fv → Fv
  | .fin s m e, .fin t n f =>
    if m = 0 ∨ n = 0 then fZero
    else
      let sh := 64 + Nat.log2 n
      let q := m * 2 ^ sh / n
      let sticky := if m * 2 ^ sh % n = 0 then 0 else 1
      rnv (.fin (xor s t) (2 * q + sticky) (e - f - sh - 1))
  | _, _ => .nan

/-- The built-in sigmoid curve (R196): rn32 of the exact values. -/
def curveSigmoid : Curve where
  xs := [0xC1000000, 0xC0E00000, 0xC0C00000, 0xC0A00000, 0xC0800000, 0xC0400000, 0xC0000000, 0xBF800000, 0,
         0x3F800000, 0x40000000, 0x40400000, 0x40800000, 0x40A00000, 0x40C00000, 0x40E00000, 0x41000000]
  ys := [0, 0x3A6ED39C, 0x3B220BBC, 0x3BDB4FB4, 0x3C9357D1, 0x3D4241A2, 0x3DF420A9, 0x3E89B2B1, 0x3F000000,
         0x3F3B26A8, 0x3F617BEB, 0x3F73DBE6, 0x3F7B6541, 0x3F7E4961, 0x3F7F5DF4, 0x3F7FC44B, 0x3F800000]

/-- The built-in tanh curve (R196). -/
def curveTanh : Curve where
  xs := [0xC0800000, 0xC0600000, 0xC0400000, 0xC0200000, 0xC0000000, 0xBFC00000, 0xBF800000, 0xBF000000, 0,
         0x3F000000, 0x3F800000, 0x3FC00000, 0x40000000, 0x40200000, 0x40400000, 0x40600000, 0x40800000]
  ys := [0xBF800000, 0xBF7F8896, 0xBF7EBBE9, 0xBF7C92C1, 0xBF76CA83, 0xBF67B7CC, 0xBF42F7D6, 0xBEEC9A9F, 0,
         0x3EEC9A9F, 0x3F42F7D6, 0x3F67B7CC, 0x3F76CA83, 0x3F7C92C1, 0x3F7EBBE9, 0x3F7F8896, 0x3F800000]

/-- Breakpoint k of a curve. -/
def cx (c : Curve) (k : Nat) : Fv := f32 (c.xs.getD k 0)
/-- Value k of a curve. -/
def cy (c : Curve) (k : Nat) : Fv := f32 (c.ys.getD k 0)
/-- Slope of segment k. -/
def slope (c : Curve) (k : Nat) : Fv := divRn (fSub (cy c (k + 1)) (cy c k)) (fSub (cx c (k + 1)) (cx c k))
/-- Index of the last breakpoint. -/
def cLast (c : Curve) : Nat := c.xs.length - 1
/-- Segment that holds x, x_0 ≤ x < x_n. -/
def segOf (c : Curve) (x : Fv) : Nat :=
  ((List.range (cLast c)).filter fun k => fLe (cx c k) x).getLast?.getD 0

/-- Result and exact value before the clamp of a curve (R194). Where a segment's slope rounds to an infinity, R194's
formula gives 0 × infinity at the segment's own breakpoint, and R195 the value y there: the model takes the formula
(DESIGN CHOICE, log entry 138). -/
def pwlEval (c : Curve) (x : Fv) : Fv × Fv :=
  if fIsNan x then (.nan, .nan)
  else if fLt x (cx c 0) then (cy c 0, cy c 0)
  else if fLe (cx c (cLast c)) x then (cy c (cLast c), cy c (cLast c))
  else
    let k := segOf c x
    let ex := fAdd (cy c k) (fMul (slope c k) (fSub x (cx c k)))
    (fMin (fMax (rnv ex) (fMin (cy c k) (cy c (k + 1)))) (fMax (cy c k) (cy c (k + 1))), ex)

/-- A curve's slope at x (R194). -/
def pwlSlope (c : Curve) (x : Fv) : Fv :=
  if fIsNan x then .nan
  else if fIsInf x || fLt x (cx c 0) || fLe (cx c (cLast c)) x then fZero
  else slope c (segOf c x)

/-- The curve a code names: 0 sigmoid, 1 tanh, 4 to 7 the image's; none for a code without a curve (R229). For a user
curve that the image does not declare, the spec gives no reason: the model halts with BAD_FIELD (DESIGN CHOICE, log
entry 138). -/
def curveOf (img : Image) (code : Nat) : Option Curve :=
  match code with
  | 0 => some curveSigmoid
  | 1 => some curveTanh
  | 2 => none
  | 3 => none
  | n => img.curves[n - 4]?

/-- A value negated when a NEG flag asks for it. -/
def negIf (b : Bool) (v : Fv) : Fv := if b then fNeg v else v

/-- PWL and PWLSLOPE at issue; f gives the result and the flags for an input. -/
def pwlIssue (f : Curve → Fv → Word × Fl) (i : Item) (s : State) (w : Nat) : Except Stop VecOp := do
  vecForm (useA + useOpt 3 0) w
  match curveOf (imgOf s i.img) (bits (vOpt w) 2 0) with
  | none => .error (hBadField, 0)
  | some c =>
    return { reads := [(vA w, vRun w)], writes := [(vD w, vRun w)], run := vRun w,
             work := fun k sr m =>
               let q := putLanesFl k (i.laneBase + vD w + m) fun j =>
                 f c (negIf (bit (vOpt w) 3) (f32 (laneVal k (i.laneBase + vA w + m) j)))
               (q.1, sr, q.2) }

/-- A curve's value with its flags. -/
def pwlFl (c : Curve) (v : Fv) : Word × Fl := (rn32 (pwlEval c v).1, flagsOf [v] (pwlEval c v).2 (pwlEval c v).1)

/-- PWL. -/
def execPwl (x : Fin 64) : State → Host.Outcome State Fault Refusal := vecIssue x.val 0x1A (pwlIssue pwlFl)

/-- Flags of a curve's slope (Table 06.1, Table 03.6): OVF where it rounds to an infinity, UFLOW where it rounds to zero
between two different values. -/
def slopeFlags (c : Curve) (x : Fv) : Fl :=
  let k := segOf c x
  if !fIsFin x || fLt x (cx c 0) || fLe (cx c (cLast c)) x then 0
  else
    (if fIsInf (slope c k) then flOvf else 0)
      ||| (if fIsZero (slope c k) && !fEq (cy c k) (cy c (k + 1)) then flUflow else 0)

/-- A slope with its flags (Table 06.1): of the quotient that R194 rounds once. -/
def slopeFl (c : Curve) (v : Fv) : Word × Fl := (rn32 (pwlSlope c v), slopeFlags c v)

/-- PWLSLOPE. -/
def execPwlslope (x : Fin 64) : State → Host.Outcome State Fault Refusal := vecIssue x.val 0x1B (pwlIssue slopeFl)

/-- The act of GATEMUL (R198): 0 identity, 1 sigmoid, 2 tanh, 4 to 7 the image's curves; one that the image does not
declare is BAD_FIELD (DESIGN CHOICE, log entry 138). -/
def actOf (img : Image) (code : Nat) : Option (Fv → Fv) :=
  match code with
  | 0 => some id
  | 1 => some fun v => (pwlEval curveSigmoid v).1
  | 2 => some fun v => (pwlEval curveTanh v).1
  | 3 => none
  | n => (img.curves[n - 4]?).map fun c v => (pwlEval c v).1

/-- GATEMUL at issue. -/
def gatemulIssue (i : Item) (s : State) (w : Nat) : Except Stop VecOp := do
  vecForm (useA + useB + useOpt 4 0) w
  let bb := bit w 42
  match actOf (imgOf s i.img) (bits (vOpt w) 2 0) with
  | none => .error (hBadField, 0)
  | some act =>
    return { reads := [(vA w, vRun w), srcSpan (vB w) (vRun w) bb], writes := [(vD w, vRun w)], run := vRun w,
             work := fun k sr m =>
               let q := putLanesFl k (i.laneBase + vD w + m) fun j =>
                 let a := negIf (bit (vOpt w) 3) (f32 (laneVal k (i.laneBase + vA w + m) j))
                 let b := negIf (bit (vOpt w) 4) (f32 (laneVal k (i.laneBase + srcReg (vB w) m bb) j))
                 op32 [a, b] (fMul (pwlEval curveSigmoid a).1 (act b))
               (q.1, sr, q.2) }

/-- GATEMUL. -/
def execGatemul (x : Fin 64) : State → Host.Outcome State Fault Refusal := vecIssue x.val 0x1C gatemulIssue

/-! ### Reductions (R187 to R191) -/

/-- One level of the pairwise tree (R187): adjacent values combined. -/
def pairUp {α : Type} (f : α → α → α) : List α → List α
  | a :: b :: r => f a b :: pairUp f r
  | l => l

/-- n levels of the tree. -/
def treeLevels {α : Type} (f : α → α → α) : Nat → List α → List α
  | 0, l => l
  | n + 1, l => treeLevels f n (pairUp f l)

/-- An FP32 sum with the flags raised so far. That the sums at every level of the tree raise flags, as FP32 results that
the unit forms, is the model's choice: R188 does not say (DESIGN CHOICE, log entry 138). -/
def sumFl (a b : Fv × Fl) : Fv × Fl :=
  let r := add32 a.1 b.1
  (r.1, a.2 ||| b.2 ||| r.2)

/-- Values of a register's lanes. -/
def laneList (k : Cal) (reg : Nat) : List Fv := (List.range 256).map fun j => f32 (laneVal k reg j)

/-- GSUM at issue (R188). -/
def gsumIssue (i : Item) (_ : State) (w : Nat) : Except Stop VecOp := do
  vecForm (useA + useOpt 3 0) w
  let n := bits (vOpt w) 3 0
  stopIf (n = 0 ∨ 8 < n) hBadField 0
  return { reads := [(vA w, vRun w)], writes := [(vD w, vRun w)], run := vRun w,
           work := fun k sr m =>
             let t := treeLevels sumFl n ((laneList k (i.laneBase + vA w + m)).map fun v => (v, 0))
             let q := putLanesFl k (i.laneBase + vD w + m) fun j =>
               let v := t.getD (j / 2 ^ n) (fZero, 0)
               (rn32 v.1, v.2)
             (q.1, sr, q.2) }

/-- GSUM. -/
def execGsum (x : Fin 64) : State → Host.Outcome State Fault Refusal := vecIssue x.val 0x20 gsumIssue

/-- Tree of 256 values down to one. -/
def tree256 {α : Type} (f : α → α → α) (d : α) (l : List α) : α := (treeLevels f 8 l).headD d

/-- RMAX at issue (R189, R229). -/
def rmaxIssue (i : Item) (_ : State) (w : Nat) : Except Stop VecOp := do
  vecForm (useA + useOpt 0 0) w
  let d := i.laneBase + vD w
  return { reads := [(vA w, vRun w), (vD w, 1)], writes := [(vD w, 1)], run := vRun w,
           work := fun k sr m =>
             let v := tree256 fMax fZero (laneList k (i.laneBase + vA w + m))
             let v := if bit (vOpt w) 0 || decide (0 < m) then fMax v (f32 (laneVal k d 0)) else v
             (putLanes k d fun _ => rn32 v, sr, 0) }

/-- RMAX. -/
def execRmax (x : Fin 64) : State → Host.Outcome State Fault Refusal := vecIssue x.val 0x21 rmaxIssue

/-- Exact pair of a square (R190). -/
def squarePair (v : Fv) : Pair :=
  let h := rnv (fMul v v)
  if fIsFin h then (h, fSub (fMul v v) h) else (h, fZero)

/-- Sum of pairs over the tree, with the held pair when accumulating. -/
def pairSum (ps : List Pair) (held : Option Pair) : Pair :=
  let t := tree256 p64Add (fZero, fZero) ps
  match held with
  | some a => p64Add a t
  | none => t

/-- RSTAT at issue (R190, R229). R190 does not say which lane's pair an accumulating RSTAT takes as the held one, nor
which of its values raise flags: lane 0's pair, first in p64_add, and the two heads written (DESIGN CHOICE, log entry
138). -/
def rstatIssue (i : Item) (_ : State) (w : Nat) : Except Stop VecOp := do
  vecForm (useA + useOpt 0 0) w
  let d := i.laneBase + vD w
  return { reads := [(vA w, vRun w), (vD w, 4)], writes := [(vD w, 4)], whole := some (vD w, 4), run := vRun w,
           work := fun k sr m =>
             let vs := laneList k (i.laneBase + vA w + m)
             let acc := bit (vOpt w) 0 || decide (0 < m)
             let old := fun o : Nat => (f32 (laneVal k (d + o) 0), f32 (laneVal k (d + o + 1) 0))
             let hs := if acc then some (old 0) else none
             let hq := if acc then some (old 2) else none
             let sm := pairSum (vs.map fun v => (v, fZero)) hs
             let sq := pairSum (vs.map squarePair) hq
             let ex := fun (ts : List Fv) (h : Option Pair) => ts.foldl fAdd (match h with
               | some a => pairVal a
               | none => fZero)
             let ins := fun (h : Option Pair) => vs ++ h.toList.map (·.1)
             let k1 := putLanes (putLanes k d fun _ => rn32 sm.1) (d + 1) fun _ => rn32 sm.2
             (putLanes (putLanes k1 (d + 2) fun _ => rn32 sq.1) (d + 3) fun _ => rn32 sq.2, sr,
              flagsOf (ins hs) (ex vs hs) sm.1 ||| flagsOf (ins hq) (ex (vs.map fun v => fMul v v) hq) sq.1) }

/-- RSTAT. -/
def execRstat (x : Fin 64) : State → Host.Outcome State Fault Refusal := vecIssue x.val 0x22 rstatIssue

/-- Candidate a comes before b: larger value, then lower position (R191). -/
def topBefore (a b : Fv × Word) : Bool := fLt b.1 a.1 || (fEq a.1 b.1 && a.2.ult b.2)

/-- Insert a candidate into an ordered list. -/
def topInsert (a : Fv × Word) : List (Fv × Word) → List (Fv × Word)
  | [] => [a]
  | b :: r => if topBefore a b then a :: b :: r else b :: topInsert a r

/-- The k first candidates, NaN never selected. -/
def topList (k : Nat) (cs : List (Fv × Word)) : List (Fv × Word) :=
  ((cs.filter fun c => !fIsNan c.1).foldl (fun l c => topInsert c l) []).take k

/-- TOPK at issue (R191, R229). -/
def topkIssue (x : Nat) (i : Item) (s : State) (w : Nat) : Except Stop VecOp := do
  vecForm (useA + useOpt 8 0) w
  let n := bits (vOpt w) 3 0 + 1
  let d := i.laneBase + vD w
  let base := ctr (getCtx s x) (bits (vOpt w) 8 5)
  return { reads := [(vA w, vRun w), (vD w, 2)], writes := [(vD w, 2)], whole := some (vD w, 2), run := vRun w, cost := 4,
           work := fun k sr m =>
             let new := (List.range 256).map fun j =>
               (f32 (laneVal k (i.laneBase + vA w + m) j), base + BitVec.ofNat 32 j)
             let old := (List.range n).map fun j => (f32 (laneVal k d j), laneVal k (d + 1) j)
             let t := topList n (if bit (vOpt w) 4 || decide (0 < m) then new ++ old else new)
             let e := fun j => t.getD j (Fv.nan, 0xFFFFFFFF)
             (putLanes (putLanes k d fun j => rn32 (e j).1) (d + 1) fun j => (e j).2, sr, 0) }

/-- TOPK. -/
def execTopk (x : Fin 64) : State → Host.Outcome State Fault Refusal := vecIssue x.val 0x23 (topkIssue x.val)

/-! ### VLD and VST -/

/-- The tensor of a VLD or VST over lanes n0 and registers run (R182, R229): formats narrower than 32 bits are packed
in lane order. -/
def vecTensor (s : State) (x h run : Nat) (store : Bool) : Except Stop (Desc × List Nat × Nat) := do
  let d0 ← useDesc s x h
  stopIf (d0.space ≠ 0) hDescInvalid (BitVec.ofNat 32 h)
  stopIf (fmtBits d0.fmt = 64) hOperandFormat (BitVec.ofNat 32 h)
  let d := if fmtBits d0.fmt < 32 then { d0 with strides := d0.strides.set 0 (elemBytes d0.fmt : Int) } else d0
  let vals ← valsOf s x d
  let cs := countsOf d vals
  let n0 := cs.headD 0
  stopIf ((if store then n0 = 0 ∨ 256 < n0 ∨ 256 % n0 ≠ 0 else n0 ≠ 256) ∨ (d.ndim = 1 ∧ 1 < run)
    ∨ (1 < d.ndim ∧ cs.getD 1 1 < run)) hDescShape (BitVec.ofNat 32 h)
  checkAccess s d vals ([n0, run, 1, 1, 1].take d.ndim)
  return (d, vals, n0)

/-- Index of element (j, m). -/
def vecIdx (d : Desc) (j m : Nat) : List Nat := [j, m, 0, 0, 0].take d.ndim

/-- A VLD of a tensor. -/
def vldOf (i : Item) (w : Nat) (t : Desc × List Nat × Nat) : VecOp :=
  { reads := [], writes := [(vD w, vRun w)], run := vRun w, tens := some t,
    work := fun k sr m =>
      (putLanes k (i.laneBase + vD w + m) fun j => BitVec.ofNat 32 (spadElem k.spad t.1 t.2.1 (vecIdx t.1 j m)), sr, 0) }

/-- VLD at issue. -/
def vldIssue (x : Nat) (i : Item) (s : State) (w : Nat) : Except Stop VecOp := do
  vecForm (0x3C000003FFF + useOpt 9 0) w
  let t ← vecTensor s x (bits (vOpt w) 9 0) (vRun w) false
  return vldOf i w t

/-- VLD. -/
def execVld (x : Fin 64) : State → Host.Outcome State Fault Refusal := vecIssue x.val 0x28 (vldIssue x.val)

/-- A VST to a tensor: with fewer than 256 elements in dimension 0, element p takes lane p × 256 / SIZE_0 (R188). -/
def vstOf (i : Item) (w : Nat) (t : Desc × List Nat × Nat) : VecOp :=
  { reads := [(vA w, vRun w)], writes := [], run := vRun w, tens := some t,
    work := fun k sr m =>
      ({ k with spad := (List.range t.2.2).foldl (fun sp j =>
          writeElem sp t.1.fmt (addrOf t.1 t.2.1 (vecIdx t.1 j m)) ((withVal t.1 t.2.1 (vecIdx t.1 j m)).headD 0)
            (laneVal k (i.laneBase + vA w + m) (j * (256 / t.2.2))).toNat) k.spad }, sr, 0) }

/-- VST at issue. -/
def vstIssue (x : Nat) (i : Item) (s : State) (w : Nat) : Except Stop VecOp := do
  vecForm (0x3C0003FC03F + useOpt 9 0) w
  let t ← vecTensor s x (bits (vOpt w) 9 0) (vRun w) true
  return vstOf i w t

/-- VST. -/
def execVst (x : Fin 64) : State → Host.Outcome State Fault Refusal := vecIssue x.val 0x29 (vstIssue x.val)

/-! ### The form of a VEC slot by its opcode (07 Table 07.9) -/

/-- What the VEC instruction w is, for the registers of its run that are processed after its issue. -/
def vecFormOf (x w : Nat) : Item → State → Nat → Except Stop VecOp :=
  match bits w 5 0 with
  | 0x01 => elemwise 2 fpAdd
  | 0x02 => elemwise 2 fpSub
  | 0x03 => elemwise 2 fpMul
  | 0x04 => elemwise 3 fpFma
  | 0x05 => elemwise 2 fpMin
  | 0x06 => elemwise 2 fpMax
  | 0x07 => elemwise 1 fpAbs
  | 0x08 => elemwise 1 fpNeg
  | 0x09 => elemwise 2 laneEq
  | 0x0A => elemwise 2 laneLt
  | 0x0B => elemwise 2 laneLe
  | 0x0C => elemwise 3 laneSel
  | 0x0D => elemwise 1 laneMov
  | 0x0E => moviForm
  | 0x10 => elemwise 2 laneIadd
  | 0x11 => elemwise 2 laneIsub
  | 0x12 => elemwise 2 laneIand
  | 0x13 => elemwise 2 laneIor
  | 0x14 => elemwise 2 laneIxor
  | 0x15 => elemwise 2 laneIshl
  | 0x16 => elemwise 2 laneIshr
  | 0x18 => cvtIssue
  | 0x19 => mxcvtIssue
  | 0x1A => pwlIssue pwlFl
  | 0x1B => pwlIssue slopeFl
  | 0x1C => gatemulIssue
  | 0x20 => gsumIssue
  | 0x21 => rmaxIssue
  | 0x22 => rstatIssue
  | 0x23 => topkIssue x
  | 0x28 => vldIssue x
  | _ => vstIssue x

end Sys2Proof.Machine
end

