-- ==== Sys2Proof/Machine/Sfu.lean ====
section
/-! DEFINITION. The SFU slot: built-in functions, FL-2 mode and micro-programs (06_vector_and_functions.md R199 to
R206; 07 R230). -/

namespace Sys2Proof.Machine

/-! ### Correctly rounded reference values -/

/-- ln 2 in units of 2^−160. -/
def ln2Fix : Nat := 1013035739299659071135698605846798551586536899366

/-- e^y for y in units of 2^−160, 0 ≤ y < 1, by its series. -/
def expSeries (y : Nat) : Nat :=
  ((List.range 60).foldl (fun (a : Nat × Nat) k =>
    let t := a.1 * y / 2 ^ 160 / (k + 1)
    (t, a.2 + t)) (2 ^ 160, 2 ^ 160)).2

/-- Fraction bits of log2 of m / 2^220, 1 ≤ m / 2^220 < 2, by repeated squaring. -/
def log2Bits : Nat → Nat → Nat → Nat
  | 0, _, l => l
  | n + 1, m, l =>
    let q := m * m / 2 ^ 220
    if 2 ^ 221 ≤ q then log2Bits n (q / 2) (2 * l + 1) else log2Bits n q (2 * l)

/-- Integer square root, bit by bit from bit b down. -/
def isqrtFrom : Nat → Nat → Nat → Nat
  | 0, _, r => r
  | b + 1, n, r => if (r + 2 ^ b) * (r + 2 ^ b) ≤ n then isqrtFrom b n (r + 2 ^ b) else isqrtFrom b n r

/-- x in units of 2^−160, rounded down. -/
def fix160 (s : Bool) (m : Nat) (e : Int) : Int :=
  let a : Int := if 0 ≤ e + 160 then (m * 2 ^ (e + 160).toNat : Nat) else (m / 2 ^ (-(e + 160)).toNat : Nat)
  if s then -a else a

/-- e^r × 2^n rounded to FP32, r in units of 2^−160, not exact. -/
def expRef (r n : Int) : Word := rn32 (.fin false (2 * expSeries r.toNat + 1) (n - 161))

/-- Correctly rounded value of a built-in function at a finite value where it is neither special nor exact. -/
def sfuRef (fn : Nat) (s : Bool) (m : Nat) (e : Int) : Word :=
  match fn with
  | 0 =>
    let x := fix160 s m e
    let n := x / (2 ^ 160 : Nat)
    expRef ((x % (2 ^ 160 : Nat)) * ln2Fix / (2 ^ 160 : Nat)) n
  | 1 =>
    let x := fix160 s m e
    let n := x / (ln2Fix : Int)
    expRef (x % (ln2Fix : Int)) n
  | 2 =>
    let lg := fLog2 m e
    let l := log2Bits 110 (m * 2 ^ 220 / 2 ^ Nat.log2 m) 0
    rn32 (fOfInt (2 * (lg * (2 ^ 110 : Nat) + l) + 1) (-111))
  | 3 => rn32 (divRn (.fin s 1 0) (.fin false m e))
  | 4 =>
    let ev := if e % 2 = 0 then e else e - 1
    let mm := if e % 2 = 0 then m else 2 * m
    rn32 (.fin false (2 * isqrtFrom 160 (2 ^ 260 / mm) 0 + 1) (-(ev / 2) - 131))
  | _ =>
    let ev := if e % 2 = 0 then e else e - 1
    let mm := if e % 2 = 0 then m else 2 * m
    rn32 (.fin false (2 * isqrtFrom 160 (mm * 2 ^ 200) 0 + 1) (ev / 2 - 101))

/-- The pattern k places above another of its sign, kept a normal number. -/
def stepUlp (r : Word) (k : Int) : Word :=
  let n : Int := ((r.toNat % 2 ^ 31 : Nat) : Int) + k
  BitVec.ofNat 32 (r.toNat / 2 ^ 31 * 2 ^ 31 + (max 0x00800000 (min 0x7F7FFFFF n)).toNat)

/-- m × 2^e is a power of two; its exponent. -/
def powTwo (m : Nat) (e : Int) : Option Int := if m = 2 ^ Nat.log2 m then some (fLog2 m e) else none

/-- m × 2^e is a whole number; the number. -/
def wholeOf (m : Nat) (e : Int) : Option Nat :=
  if 0 ≤ e then some (m * 2 ^ e.toNat)
  else if m % 2 ^ (-e).toNat = 0 then some (m / 2 ^ (-e).toNat) else none

/-- FP32 pattern of 2^n. -/
def twoTo (n : Int) : Word := rn32 (.fin false 1 n)

def wNan : Word := 0x7FC00000
def wInf (s : Bool) : Word := if s then 0xFF800000 else 0x7F800000
def wZero (s : Bool) : Word := if s then 0x80000000 else 0

/-- Special and exact results of Table 06.5; none where the result is only bounded. -/
def sfuSpecial (fn : Nat) (v : Word) : Option (Word × Fl) :=
  match f32 v with
  | .nan => some (wNan, 0)
  | .inf s =>
    match fn with
    | 0 => some (if s then (0, 0) else (wInf false, flOvf))
    | 1 => some (if s then (0, 0) else (wInf false, flOvf))
    | 3 => some (wZero s, 0)
    | 4 => some (if s then (wNan, flInvalid) else (0, 0))
    | _ => some (if s then (wNan, flInvalid) else (wInf false, 0))
  | .fin s m e =>
    match fn with
    | 0 =>
      if !s && fLe (.fin false 128 0) (.fin false m e) then some (wInf false, flOvf)
      else if s && fLt (.fin false 126 0) (.fin false m e) then some (0, flUflow)
      else (wholeOf m e).map fun n => (twoTo (if s then -(n : Int) else n), 0)
    | 1 =>
      if m = 0 then some (twoTo 0, 0)
      else if !s && fLt (f32 0x42B17217) (.fin false m e) then some (wInf false, flOvf)
      else if s && fLe (f32 0x42AEAC50) (.fin false m e) then some (0, flUflow)
      else none
    | 2 =>
      if m = 0 then some (wInf true, 0)
      else if s then some (wNan, flInvalid)
      else (powTwo m e).map fun n => (rn32 (fOfInt n 0), 0)
    | 3 =>
      if m = 0 then some (wInf s, flOvf)
      else if fLt (.fin false 1 126) (.fin false m e) then some (wZero s, flUflow)
      else (powTwo m e).map fun n => (rn32 (.fin s 1 (-n)), 0)
    | 4 =>
      if m = 0 then some (wInf s, flOvf)
      else if s then some (wNan, flInvalid)
      else match powTwo m e with
        | some n => if n % 2 = 0 then some (twoTo (-(n / 2)), 0) else none
        | none => none
    | _ =>
      if m = 0 then some (wZero s, 0)
      else if s then some (wNan, flInvalid)
      else match powTwo m e with
        | some n => if n % 2 = 0 then some (twoTo (n / 2), 0) else none
        | none => none

/-- Exact results between which a value's result lies (R201, Table 06.5): for functions that rise, the exact case at or
above it; for those that fall in the magnitude of the input, the one at or below it in magnitude. -/
def sfuCap (fn : Nat) (s : Bool) (m : Nat) (e : Int) : Fv :=
  let lg := fLog2 m e
  match fn with
  | 0 =>
    let n := (fix160 s m e + 2 ^ 160 - 1) / (2 ^ 160 : Nat)
    if 127 < n then .inf false else .fin false 1 n
  | 1 => if s then .fin false 1 0 else .inf false
  | 2 => fOfInt (lg + 1) 0
  | 3 => .fin false 1 (-lg)
  | 4 => .fin false 1 (-(lg / 2))
  | _ => .fin false 1 (lg / 2 + 1)

/-- A result within 2 ulp of the exact one and not past the next exact case, its sign left out for `reciprocal`: free
(Config.sfuUlp), or the exact one. -/
def sfuNear (fn : Nat) (v : Word) : Fv :=
  match sfuSpecial fn v, f32 v with
  | some r, _ => if fn = 3 then fAbs (f32 r.1) else f32 r.1
  | none, .fin s m e =>
    let r := f32 (stepUlp (sfuRef fn s m e) ((Config.sfuUlp fn v).val - 2))
    let r := if fn = 3 then fAbs r else r
    if fLt (sfuCap fn s m e) r then sfuCap fn s m e else r
  | none, w => w

/-- Inputs whose results do not exceed that of v (R201): smaller ones for functions that rise; for reciprocal and rsqrt
those of larger magnitude and the same sign. -/
def sfuBelow (fn : Nat) (u v : Word) : Bool :=
  fIsFin (f32 u) &&
    (if fn = 3 ∨ fn = 4 then fSign (f32 u) == fSign (f32 v) && fLe (fAbs (f32 v)) (fAbs (f32 u))
     else if fn = 2 ∨ fn = 5 then !fSign (f32 u) && fLe (f32 u) (f32 v)
     else fLe (f32 u) (f32 v))

/-- A result that is free within 2 ulp, monotone over the whole domain and exact in the exact cases (R201): the largest
of the bounded free results of all inputs whose results may not exceed it (log entry 8). -/
def sfuMono (fn : Nat) (v : Word) : Fv :=
  (List.range (2 ^ 32)).foldl (fun a n =>
    let u := BitVec.ofNat 32 n
    if sfuBelow fn u v then fMax a (sfuNear fn u) else a) (sfuNear fn v)

/-- A built-in function's result and flags (R201, Table 06.5). -/
def sfuBuiltin (fn : Nat) (v : Word) : Word × Fl :=
  match sfuSpecial fn v with
  | some r => r
  | none => (rn32 (if fn = 3 ∧ fSign (f32 v) = true then fNeg (sfuMono fn v) else sfuMono fn v), 0)

/-- Places of 2^−149 by which 1/|x|, for a finite x above 2^126, lies below the smallest normal number 2^−126: the last
place of x, 2^103, counts one. -/
def belowNormal (m : Nat) (e : Int) : Nat := (chunkInt 103 (.fin false m e)).toNat - 2 ^ 23

/-- A result of FL-2 mode whose exact result is zero or is flushed (R202, R108): zero, of the flushed result's sign;
of a reciprocal that lies within 3 ulp of a normal number, that number or one beside it where the FL-2's own error
reaches it. The sign of log2(1) is the FL-2's own. -/
def fl2Zero (fn : Nat) (w : Word) (s : Bool) (m : Nat) (e : Int) : Word :=
  let u := (Config.fl2Ulp fn w).val
  if fn = 3 then
    if belowNormal m e + 3 ≤ u then
      (if s then 0x80800000 else 0x00800000) + BitVec.ofNat 32 (u - 3 - belowNormal m e)
    else wZero s
  else if fn = 2 then wZero ((Config.fl2Result fn w).getLsbD 31)
  else wZero false

/-- A built-in function in FL-2 mode (R202): the FL-2's own result, which the spec does not give; NaN for NaN, a
subnormal input as zero, no subnormal result (R107 to R109), and within 3 ulp of the exact result where that is finite;
an overflow beyond that reach is an infinity. -/
def fl2Word (fn : Nat) (v : Word) : Word :=
  match f32 v with
  | .nan => wNan
  | .inf s => rn32 (f32 (Config.fl2Result fn (wInf s)))
  | .fin s m e =>
    let w := rn32 (.fin s m e)
    match sfuSpecial fn w with
    | some r =>
      if fIsFin (f32 r.1) && !fIsZero (f32 r.1) then stepUlp r.1 ((Config.fl2Ulp fn w).val - 3)
      else if fIsZero (f32 r.1) then fl2Zero fn w s m e
      else if fn = 0 ∧ fLt (.fin false 128 0) (.fin s m e) = true then wInf false
      else rn32 (f32 (Config.fl2Result fn w))
    | none => stepUlp (sfuRef fn s m e) ((Config.fl2Ulp fn w).val - 3)

/-- The exact result of a built-in function at a finite value is zero. -/
def sfuExactZero (fn : Nat) (v : Fv) : Bool := (fn == 2 && fEq v (.fin false 1 0)) || (fn == 5 && fIsZero v)

/-- A built-in function in FL-2 mode, with the flags of Table 03.6. -/
def sfuFl2 (fn : Nat) (v : Word) : Word × Fl :=
  let r := fl2Word fn v
  (r, flagsOf [f32 v] (if sfuExactZero fn (f32 v) then fZero else .fin false 1 0) (f32 r)
    &&& (if fIsFin (f32 v) then flOvf ||| flInvalid ||| flUflow else flInvalid))

/-! ### Micro-programs (R204, Table 06.7) -/

/-- Working values of a micro-program. -/
structure MicroSt where
  r : Fv
  n : Int
  acc : Fv
  /-- Result that SELECT has fixed. -/
  out : Option Fv
  fl : Fl
  deriving DecidableEq, Repr

/-- A rounding of a micro-program: the value and its flags. -/
def microRn (ins : List Fv) (ex : Fv) : Fv × Fl := (rnv ex, flagsOf ins ex (rnv ex))

/-- floor of a finite value. -/
def fFloor : Fv → Int
  | .fin s m e => fAt s m e (min e 0) / ((2 ^ (0 - min e 0).toNat : Nat) : Int)
  | _ => 0

/-- A finite value rounded to an integer, ties to even; free for another. -/
def fRoundInt (v : Fv) : Int :=
  match v with
  | .fin s m e => let n : Int := roundAt .rne m e 0; if s then -n else n
  | _ => Config.microExp (rn32 v)

/-- Exponent and significand of |x|; free for zero and non-finite values. -/
def microMant (x : Fv) : Int × Fv :=
  match x with
  | .fin _ m e =>
    if m = 0 then (Config.microExp (rn32 x), f32 (Config.microSig (rn32 x)))
    else (fLog2 m e, .fin false m (-(Nat.log2 m : Int)))
  | _ => (Config.microExp (rn32 x), f32 (Config.microSig (rn32 x)))

/-- Condition of SELECT. -/
def microCond (mode : Nat) (x c : Fv) : Bool :=
  match mode with
  | 0 => fLt x c
  | 1 => fLe c x
  | 2 => fIsNan x
  | 3 => fIsInf x && !fSign x
  | 4 => fIsInf x && fSign x
  | _ => fIsZero x

/-- Index of a LUT step with width j; free for a non-finite r. -/
def microLut (r : Fv) (j : Nat) : Nat :=
  match r with
  | .fin _ _ _ => (fFloor (fScale (fSub r (fOfInt (fFloor r) 0)) j)).toNat
  | _ => Config.microIdx (rn32 r) % 2 ^ j

/-- One step of a micro-program on input x with constants cs. SCALE mode HALF of an odd n, which Table 06.7 knows as
even after MANT2 only, takes n / 2 rounded down (DESIGN CHOICE, log entry 151); steps behind a SELECT that holds raise
no flags, since they do not change the result any more (DESIGN CHOICE, log entry 152). -/
def microStep (cs : List Word) (x : Fv) (a : MicroSt) (w : Nat) : MicroSt :=
  let c := fun k => f32 (cs.getD k 0)
  let k := bits w 10 6
  let j := bits w 15 11
  let mode := bits w 5 3
  if a.out.isSome then a
  else match bits w 2 0 with
  | 0 =>
    let q := microMant x
    match mode with
    | 0 =>
      let r := microRn [x, c k] (fMul x (c k))
      { a with r := fSub r.1 (fOfInt (fRoundInt r.1) 0), n := fRoundInt r.1, fl := a.fl ||| r.2 }
    | 1 => { a with n := q.1, r := q.2 }
    | 2 => { a with n := q.1 - q.1 % 2, r := fScale q.2 (q.1 % 2) }
    | _ => if fLe (c k) q.2 then { a with r := fScale q.2 (-1), n := q.1 + 1 } else { a with n := q.1, r := q.2 }
  | 1 =>
    (List.range j).foldl (fun a i =>
      let r := microRn [a.acc, a.r, c (k + (j - 1 - i))] (fAdd (fMul a.acc a.r) (c (k + (j - 1 - i))))
      { a with acc := r.1, fl := a.fl ||| r.2 }) { a with acc := c (k + j) }
  | 2 =>
    let r := match mode with
      | 0 => microRn [a.acc] (fScale a.acc a.n)
      | 1 => microRn [a.acc] (fScale a.acc (a.n / 2))
      | 2 => microRn [a.acc, c k] (fMul a.acc (c k))
      | _ => microRn [a.acc, c k] (fAdd a.acc (fMul (fOfInt a.n 0) (c k)))
    { a with acc := r.1, fl := a.fl ||| r.2 }
  | 3 => if microCond mode x (c k) then { a with out := some (c j) } else a
  | 4 => { a with acc := fMin (fMax a.acc (c k)) (c j) }
  | _ =>
    let t := c (k + microLut a.r j)
    if mode = 0 then
      let r := microRn [a.acc, t] (fMul a.acc t)
      { a with acc := r.1, fl := a.fl ||| r.2 }
    else { a with acc := t }

/-- Result and flags of a micro-program (R204). -/
def microRunProg (p : Micro) (v : Word) : Word × Fl :=
  let x := f32 v
  let a := p.steps.foldl (fun a w => microStep p.consts x a w.toNat) ⟨x, 0, fZero, none, 0⟩
  (rn32 (a.out.getD a.acc), a.fl)

/-! ### Issue (R199, R230) -/

/-- An SFU instruction with function f on each lane, at a cost of so many cycles a register (R200, R205). -/
def sfuForm (cost : Nat) (f : Word → Word × Fl) (i : Item) (w : Nat) : Except Stop VecOp := do
  slotForm 25 w
  let run := bits w 24 21 + 1
  let d := bits w 12 5
  let a := bits w 20 13
  return { reads := [(a, run)], writes := [(d, run)], run := run, cost := cost,
           work := fun k sr m =>
             let q := putLanesFl k (i.laneBase + d + m) fun j => f (laneVal k (i.laneBase + a + m) j)
             (q.1, sr, q.2) }

/-- Effect of an SFU instruction. -/
def sfuEffect (x ofs : Nat) (i : Item) (s : State) (w : Nat) (o : VecOp) : State := laneEffect .sfu 3 x ofs i s w o

/-- Issue of an SFU instruction. -/
def sfuIssue (x : Nat) (mine : Nat → Bool) (form : Item → State → Nat → Except Stop VecOp) :
    State → Host.Outcome State Fault Refusal :=
  issueSlot x .sfu mine fun s w ofs =>
    match itemOf s x with
    | none => .done s
    | some i => opRes (do let o ← form i s w; vecLanes i o; return o) (vecWait .sfu x i s) (sfuEffect x ofs i s w)

/-- The function code of an SFU slot. -/
def fnIs (n w : Nat) : Bool := bits w 4 0 == n

/-- A built-in function at issue; in FL-2 mode exp and sqrt halt (R202). -/
def builtinForm (fn : Nat) (i : Item) (s : State) (w : Nat) : Except Stop VecOp :=
  if (imgOf s i.img).fl2 then
    if fn = 1 ∨ fn = 5 then .error (hSfuFunction, 0) else sfuForm 8 (sfuFl2 fn) i w
  else sfuForm 8 (sfuBuiltin fn) i w

/-- exp2. -/
def execSfuExp2 (x : Fin 64) : State → Host.Outcome State Fault Refusal := sfuIssue x.val (fnIs 0) (builtinForm 0)
/-- exp. -/
def execSfuExp (x : Fin 64) : State → Host.Outcome State Fault Refusal := sfuIssue x.val (fnIs 1) (builtinForm 1)
/-- log2. -/
def execSfuLog2 (x : Fin 64) : State → Host.Outcome State Fault Refusal := sfuIssue x.val (fnIs 2) (builtinForm 2)
/-- reciprocal. -/
def execSfuReciprocal (x : Fin 64) : State → Host.Outcome State Fault Refusal :=
  sfuIssue x.val (fnIs 3) (builtinForm 3)
/-- rsqrt. -/
def execSfuRsqrt (x : Fin 64) : State → Host.Outcome State Fault Refusal := sfuIssue x.val (fnIs 4) (builtinForm 4)
/-- sqrt. -/
def execSfuSqrt (x : Fin 64) : State → Host.Outcome State Fault Refusal := sfuIssue x.val (fnIs 5) (builtinForm 5)

/-- u of a micro-program (R205): its steps and the degrees of its POLY steps. -/
def microCost (p : Micro) : Nat :=
  p.steps.length + (p.steps.map fun w => if bits w.toNat 2 0 = 1 then bits w.toNat 15 11 else 0).sum

/-- A micro-program at issue (R203): one that the image does not declare halts. -/
def microForm (i : Item) (s : State) (w : Nat) : Except Stop VecOp :=
  match (imgOf s i.img).micros[bits w 3 0]? with
  | none => .error (hSfuFunction, 0)
  | some p => sfuForm (8 * max 1 ((microCost p + 3) / 4)) (microRunProg p) i w

/-- MICRO_PROGRAM (R204). -/
def execMicroProgram (x : Fin 64) : State → Host.Outcome State Fault Refusal :=
  sfuIssue x.val (fun w => decide (16 ≤ bits w 4 0)) microForm

/-! ### Results in place (02 R81, R180, R200) -/

/-- What a lane instruction is, for the registers of its run that are processed after its issue. -/
def laneFormOf (u : Path) (x w : Nat) : Item → State → Nat → Except Stop VecOp :=
  if u = .vec then vecFormOf x w
  else if 16 ≤ bits w 4 0 then microForm
  else builtinForm (bits w 4 0)

/-- The form of a lane instruction of which registers are left, by what it took at its issue: its counters, its image
(07 R252 switches the image of later bundles alone), and the tensor of a VLD or VST. -/
def restForm (s : State) (o : Op) (r : LaneRest) : Option (Item × VecOp) :=
  match itemOf s o.ctx with
  | none => none
  | some i =>
    let j := { i with img := r.img }
    match r.tens with
    | some t => some (j, if bits r.w 5 0 = 0x28 then vldOf j r.w t else vstOf j r.w t)
    | none =>
      match laneFormOf o.path o.ctx r.w j (updCtx s o.ctx fun c => { c with cPrev := r.cnt }) r.w with
      | .error _ => none
      | .ok v => some (j, v)

/-- Operation o of a Caldera becomes another, or leaves. -/
def replaceOp (k : Cal) (o : Op) (o' : Option Op) : Cal :=
  { k with ops := match o' with
      | none => delFirst (fun p => decide (p = o)) k.ops
      | some n => updFirst (fun p => decide (p = o)) (fun _ => n) k.ops }

/-- The next register of a lane instruction's run is processed (R180). -/
def processNext (s : State) (o : Op) (r : LaneRest) (i : Item) (v : VecOp) : State :=
  let c := ctxCal o.ctx
  let q := v.work (getCal s c) (getCtx s o.ctx).sr r.m
  let o' := { o with rest := restFrom i v r.w r.cnt (r.m + 1) }
  raiseFrom (updCtx (setCal s c (replaceOp q.1 o (some o'))) o.ctx fun x => { x with sr := q.2.1 }) o.ctx o.img o.ofs
    (if o.path = .vec then 2 else 3) q.2.2

/-- A processed register of a run that is not at its end is still to reach its place. -/
def dueBefore (o : Op) (r : LaneRest) (v : VecOp) : Bool :=
  v.whole.isNone && decide (o.step * (v.run - r.m) < o.lwr.length)

/-- RESULT_IN_PLACE (02 R81, R87; R180): the next result of a path reaches its place; a bus-path operation takes effect
there, behind the earlier runs. An instruction with registers left processes the next one as soon as it is free, and
until then its processed registers reach their place. -/
def execResultInPlace (c : Fin 4) (u : Path) (s : State) : Host.Outcome State Fault Refusal :=
  let k := getCal s c.val
  match firstOp k u with
  | none => .next s
  | some o =>
    match o.rest with
    | none => if busWaits k o then .next s else .next (placeResult s c.val o)
    | some r =>
      match restForm s o r with
      | none => .next (settle (setCal s c.val (replaceOp k o none)) o.ctx)
      | some (i, v) =>
        if stepFree (k.ops.takeWhile fun p => decide (p ≠ o)) o.ctx i v r.m then .next (processNext s o r i v)
        else if dueBefore o r v then .next (setCal s c.val (replaceOp k o (some { o with lwr := o.lwr.drop o.step })))
        else .next s

end Sys2Proof.Machine
end

