-- ==== Sys2Proof/Machine/Sync.lean ====
section
/-! DEFINITION. Semaphores and the SYN slot (08_movement_and_tables.md R270 to R277; 07 R232; 11 R357). -/

namespace Sys2Proof.Machine

/-- Shared semaphores of which an item keeps a record (R274). -/
def sharedOf (i : Item) : List Nat := ((i.acqs.map (·.sem)) ++ i.defer.map (·.1)).eraseDups

/-- A slot names a semaphore (R270): its key, and whether it is shared. An unbound one, another context's private one,
another partition's, and a seventeenth shared one halt with BAD_FIELD (R274). -/
def semUse (s : State) (x : Nat) (i : Item) (glob : Bool) (n : Nat) : Except Stop (Nat × Bool) :=
  let k := semKey glob (ctxCal x) n
  let v := getSem s k
  if v.bind = 1 ∧ v.ctx = x then .ok (k, false)
  else if v.bind = 2 ∧ v.part = i.part ∧ ((sharedOf i).contains k = true ∨ (sharedOf i).length < 16) then .ok (k, true)
  else .error (hBadField, 0)

/-- Add an amount to the record of deferred releases (R274). -/
def addDefer (i : Item) (k n : Nat) : Item :=
  if i.defer.any (·.1 == k) then { i with defer := i.defer.map fun e => if e.1 = k then (k, e.2 + n) else e }
  else { i with defer := i.defer ++ [(k, n)] }

/-- A release of n, or a completion signal of 1: at once into a private semaphore, deferred to the commit for a shared
one (R261, R271, R274). -/
def semRelease (s : State) (i : Item) (k n : Nat) (shared : Bool) : State :=
  if shared then setItem s (addDefer i k n) else semAdd s k n

/-- ACQ and REL at issue: semaphore, amount. -/
def synCheck (x : Nat) (i : Item) (s : State) (w : Nat) : Except Stop (Nat × Bool × Nat) := do
  slotForm 23 w
  let n := bits w 22 15
  stopIf (n = 0) hBadField 0
  let k ← semUse s x i (bit w 14) (bits w 13 6)
  return (k.1, k.2, n)

/-- What is left of an item's recorded acquisition of a semaphore. -/
def acqLeft (i : Item) (k : Nat) : Nat := ((i.acqs.find? (·.sem == k)).map (·.left)).getD 0

/-- ACQ at issue: an ACQ on a shared semaphore beyond what remains halts (R357). -/
def acqCheck (x : Nat) (i : Item) (s : State) (w : Nat) : Except Stop (Nat × Bool × Nat) := do
  let a ← synCheck x i s w
  stopIf (a.2.1 = true ∧ acqLeft i a.1 < a.2.2) hBadField 0
  return a

/-- ACQ's effect (R271, R274). -/
def acqEffect (i : Item) (s : State) (a : Nat × Bool × Nat) : State :=
  if a.2.1 then
    setItem s { i with acqs := i.acqs.map fun q => if q.sem = a.1 then { q with left := q.left - a.2.2 } else q }
  else updSem s a.1 fun v => { v with value := v.value - a.2.2 }

/-- ACQ (R271, R274): it waits on a private semaphore whose value is below N. -/
def execAcq (x : Fin 64) : State → Host.Outcome State Fault Refusal :=
  issueSlot x.val .syn (opIs 0x01) fun s w _ =>
    match itemOf s x.val with
    | none => .done s
    | some i =>
      match acqCheck x.val i s w with
      | .error e => .halt e.1 e.2
      | .ok a =>
        if a.2.1 = false ∧ (getSem s a.1).value < a.2.2 then .wait 0x0A
        else .done (acqEffect i s a)

/-- The ACQ that a context waits on: semaphore key and amount, with the state its bundle is entered in. -/
def waitingAcq (s : State) (x : Nat) : Option (State × Nat × Nat) :=
  match nextTurn s x, itemOf s x with
  | .slot s1 .syn w _, some i =>
    if opIs 0x01 w then
      match acqCheck x i s1 w with
      | .ok a => if a.2.1 then none else some (s1, a.1, a.2.2)
      | .error _ => none
    else none
  | _, _ => none

/-- Grant waiting ACQs on semaphore k in the order of the contexts of a list, while the value covers them (R272). -/
def grantAcqs (k : Nat) : State → List Nat → State
  | s, [] => s
  | s, x :: r =>
    match waitingAcq s x with
    | some (s1, k', n) =>
      if k' ≠ k then grantAcqs k s r
      else if (getSem s1 k).value < n then s
      else
        let s2 := updSem s1 k fun v => { v with value := v.value - n, ptr := (x + 1) % 64 }
        grantAcqs k (settle (endSlot s2 x) x) r
    | none => grantAcqs k s r

/-- SEM_GRANT (R272): the semaphore grants its waiting ACQs, from the handle after the last granted. -/
def execSemGrant (k : Fin 1280) (s : State) : Host.Outcome State Fault Refusal :=
  let p := (getSem s k.val).ptr
  .next (grantAcqs k.val s ((List.range 64).map fun n => (p + n) % 64))

/-- REL (R271, R274). -/
def execRel (x : Fin 64) : State → Host.Outcome State Fault Refusal :=
  issueSlot x.val .syn (opIs 0x02) fun s w _ =>
    match itemOf s x.val with
    | none => .done s
    | some i => opRes (synCheck x.val i s w) (fun _ => none) (fun a => semRelease s i a.1 a.2.2 a.2.1)

/-- Operations of a context on the units of a FENCE mask that are not in place (R232). -/
def fenceBusy (s : State) (x u : Nat) : Bool :=
  let k := getCal s (ctxCal x)
  let on := fun (n : Nat) (p : Path) => bit u n && k.ops.any fun o => o.ctx == x && decide (o.path = p)
  (bit u 0 && k.runs.any fun r => r.ctx == x && decide (r.promoted < groupsOf r.k))
    || on 0 .bus || on 1 .plane || on 2 .row || on 3 .vec || on 4 .sfu
    || (bit u 5 && (k.feeds.any (·.ctx == x) || k.lookups.any (fun l => l.ctx == x && !l.pre)
      || k.ahead.any (fun a => a.t.ctx == x && !a.t.pre) || (allXfers s).any fun t => t.ctx == x && !t.pre))

/-- FENCE (R232). -/
def execFence (x : Fin 64) : State → Host.Outcome State Fault Refusal :=
  issueSlot x.val .syn (opIs 0x03) fun s w _ =>
    opRes (slotForm 12 w) (fun _ => if fenceBusy s x.val (bits w 11 6) then some 0x0D else none) (fun _ => s)

end Sys2Proof.Machine
end

