-- ==== Sys2Proof/Machine/Mov.lean ====
section
/-! DEFINITION. The MOV slot: FEED, Vent transfers, Tephra lookups, atomic adds and prefetch (02 R61; 07 R231, R238;
08_movement_and_tables.md). -/

namespace Sys2Proof.Machine

/-! ### FEED (02 R61) -/

/-- A FEED: half, slice offset, format, K, tensor. -/
structure FeedArgs where
  half : Nat
  ofs : Nat
  k : Nat
  d : Desc
  vals : List Nat
  deriving DecidableEq, Repr

/-- Dimensions that a FEED reads as p and as k (R238). -/
def feedIdx (d : Desc) (p k : Nat) : List Nat :=
  ((if d.transpose then [k, p] else [p, k]) ++ [0, 0, 0]).take d.ndim

/-- FEED at issue (R67, R231, R238). -/
def feedCheck (x : Nat) (i : Item) (s : State) (w : Nat) : Except Stop FeedArgs := do
  slotForm 43 w
  let h := bits w 29 20
  let hf := bits w 7 6
  let k := bits w 42 30 + 1
  halfGrant i hf
  let d ← useDesc s x h
  stopIf (d.space ≠ 0) hDescInvalid (BitVec.ofNat 32 h)
  stopIf (macWidth d.fmt = 0) hOperandFormat (BitVec.ofNat 32 h)
  stopIf (4096 < bits w 19 8 + slicesOf d.fmt k) hBadField 0
  let vals ← valsOf s x d
  let cs := countsOf d vals
  let pc := if d.transpose then cs.getD 1 0 else cs.getD 0 0
  let kc := if d.transpose then cs.getD 0 0 else cs.getD 1 0
  stopIf (d.ndim < 2 ∨ pc ≠ 256 ∨ kc < k ∨ (cs.drop 2).any (· ≠ 1) = true) hDescShape (BitVec.ofNat 32 h)
  checkAccess s d vals (((if d.transpose then [k, 256] else [256, k]) ++ [1, 1, 1]).take d.ndim)
  return { half := hf, ofs := bits w 19 8, k, d, vals }

/-- Byte that slice sl, line p, of a FEED's panel holds (02 R58, R60). -/
def feedByte (m : Mem) (a : FeedArgs) (sl p : Nat) : Nat :=
  let el := fun k => spadElem m a.d a.vals (feedIdx a.d p k)
  match macWidth a.d.fmt with
  | 4 => el (2 * sl) + (if 2 * sl + 1 < a.k then 16 * el (2 * sl + 1) else 0)
  | 16 => if sl % 2 = 0 then el (sl / 2) % 256 else el (sl / 2) / 256
  | _ => el sl

/-- FEED's effect: the panel's bytes with their check operands (02 R62), and a half that is FILLING. -/
def feedEffect (x : Nat) (s : State) (a : FeedArgs) : State :=
  updCal s (ctxCal x) fun k =>
    let data := (List.range (slicesOf a.d.fmt a.k)).foldl (fun m sl => (List.range 256).foldl (fun m p =>
      storeByte m (256 * (a.ofs + sl) + p) (BitVec.ofNat 8 (feedByte k.spad a sl p))) m) (halfOf k a.half).data
    let hf := withChecks { halfOf k a.half with st := .filling, data := data } a.d.fmt a.ofs a.k
    { k with halves := tput {} a.half hf k.halves, feeds := k.feeds ++ [⟨x, a.half⟩] }

/-- FEED (R61): it waits while the half is IN_USE (R64). -/
def execFeed (x : Fin 64) : State → Host.Outcome State Fault Refusal :=
  issueSlot x.val .mov (opIs 0x01) fun s w _ =>
    match itemOf s x.val with
    | none => .done s
    | some i => opRes (feedCheck x.val i s w)
        (fun a => if (halfOf (getCal s (ctxCal x.val)) a.half).st = .inUse then some 2 else none)
        (feedEffect x.val s)

/-- FEED_COMPLETE (R61): the oldest FEED into the row feeder, or into the column feeder, has moved its last slice; the
two feeders move at the same time. -/
def execFeedComplete (c : Feeder) (s : State) : Host.Outcome State Fault Refusal :=
  let k := getCal s c.cal.val
  match k.feeds.find? fun f => decide (f.half < 2) == c.row with
  | none => .next s
  | some f =>
    .next (settle (setCal s c.cal.val (fillEnds { k with feeds := delFirst (fun g => decide (g = f)) k.feeds } f.half)) f.ctx)

/-! ### Elements of a transfer -/

/-- Element indices of a transfer in iteration order (R262); packed 4-bit elements move by the byte (R266). -/
def xferElems (t : Xfer) : List (List Nat) :=
  let cs := countsOf t.src t.sidx
  if fmtBits t.src.fmt = 4 then
    (iterAll (cs.set 0 (cs.headD 0 / 2))).map fun e => e.set 0 (2 * e.headD 0)
  else iterAll cs

/-- Address of an element of one side, or the check it fails as the index value is read and the access is made
(R237). -/
def sideAddr (s : State) (p : Nat) (d : Desc) (vals e : List Nat) (write : Bool) : Except Stop Nat :=
  let v := vals.getD (e.getD d.idim 0) 0
  if d.indirect = true ∧ d.sizes.getD d.idim 0 ≤ v then .error (hIndexRange, BitVec.ofNat 32 v)
  else
    let a := elemAddr d (withVal d vals e)
    match checkAddr s d a with
    | .error r => .error r
    | .ok () => if spaceOk s p d write then .ok a.toNat else .error (hRegionFault, lowWord a)

/-- Memory of an on-chip space. -/
def spaceMem (s : State) (space cal : Nat) : Mem :=
  match space with
  | 0 => (getCal s cal).spad
  | _ => (getCal s cal).grad

/-- Bytes of source element m at address a: of its on-chip space, as its READs returned them, or received from a
peer. -/
def srcBytes (s : State) (t : Xfer) (m a : Nat) : List Byte :=
  if t.src.space = 4 then loadBytes t.rx (8 * m) (elemBytes t.src.fmt)
  else if t.src.space < 2 then loadBytes (spaceMem s t.src.space t.scal) a (elemBytes t.src.fmt)
  else loadBytes (jobRx s (.xfer t.id)) a (elemBytes t.src.fmt)

/-- Merge neighbouring ranges into longer ones. -/
def coalesce : List (Nat × Nat) → List (Nat × Nat)
  | [] => []
  | (a, n) :: r =>
    match coalesce r with
    | (b, m) :: q => if a + n = b then (a, n + m) :: q else (a, n) :: (b, m) :: q
    | [] => [(a, n)]

/-! ### Requests to a peer (13_light_port.md) -/

/-- Pieces of [a, a + n) that do not cross a 4 KiB boundary (13 R391). -/
def pieces4k (a n : Nat) : List (Nat × Nat) :=
  let f := min n (4096 - a % 4096)
  if n = 0 then [] else if f = n then [(a, n)] else [(a, f), (a + f, n - f)]

/-- READ n bytes at offset a of peer q; the data goes to offset o of what waits. Answers how many requests. -/
def peerRead (s : State) (q : Nat) (u : User) (a n o : Nat) : State × Nat :=
  let ps := pieces4k a n
  ((ps.zipIdx).foldl (fun s e =>
    let o' := if e.2 = 0 then o else o + (ps.headD (0, 0)).2
    sendRequest s q u o' e.1.1 fun f => { f with type := 2, addr := BitVec.ofNat 64 e.1.1, aux := BitVec.ofNat 32 e.1.2 }) s,
   ps.length)

/-- Peer of a descriptor of space 4. -/
def peerOf (d : Desc) : Nat := d.region.toNat % 64

/-- Send element e of a transfer to its peer (13 R391, R398, R399): WRITE, ADD, or DOORBELL on the doorbell page. -/
def sendElem (s : State) (t : Xfer) (a : Nat) (bs : List Byte) (last : Bool) : State :=
  let q := peerOf t.dst
  if t.add then
    sendRequest s q (.xfer t.id) 0 a fun f => { f with
      type := 3, addr := BitVec.ofNat 64 a, payload := bs,
      aux := if t.dst.fmt = 0 then 0 else if t.dst.fmt = 11 then 1 else 2 }
  else if a / 2 ^ 48 = 0x10 ∧ t.dst.fmt = 10 then
    sendRequest s q (.xfer t.id) 0 a fun f => { f with
      type := 4, addr := BitVec.ofNat 64 a, aux := BitVec.ofNat 32 (a % 2 ^ 48 / 4 % 256 + 65536 * (ofLe bs % 65536)) }
  else
    sendRequest s q (.xfer t.id) 0 a fun f => { f with
      type := 1, addr := BitVec.ofNat 64 a, payload := bs, flags := if t.flush && last then 1 else 0 }

/-! ### Atomic units (R289 to R291; 12 R367) -/

/-- One add at an address of a memory: FP32, P64 or INT32 (03 R114). -/
def atomicAt (fmt : Nat) (m : Mem) (a : Nat) (v : List Byte) : Mem × Fl :=
  if fmt = 10 then (store m a 4 ((load m a 4 + ofLe v) % 2 ^ 32), 0)
  else addElem (fmt == 0) m a (decSlot (fmt == 0) (ofLe v))

/-- Every add in the atomic units of the Memory Port, with its channel. -/
def allAdds (s : State) : List (Nat × AtomOp) := s.mem.flatMap fun e => e.2.adds.map fun o => (e.1, o)

/-- A transfer or peer's request has no add left in an atomic unit. -/
def addsEnded (s : State) (u : User) : Bool := (allAdds s).all fun o => decide (o.2.user ≠ u)

/-- Change the adds of a channel. -/
def updAdds (s : State) (n : Nat) (f : List AtomOp → List AtomOp) : State :=
  let c := getMemCh s n
  setMemCh s n { c with adds := f c.adds }

/-- An add arrives at the atomic unit of its address's channel (R290). -/
def arriveAdd (s : State) (u : User) (a fmt : Nat) (v : List Byte) : State :=
  updAdds { s with nid := s.nid + 1 } (memChan a) (· ++ [⟨s.nid, u, a, fmt, v, 0, 0⟩])

/-- The adds of a channel whose granule no earlier add of the channel awaits or holds: adds to one granule follow one
another in the order of their arrival (12 R367). -/
def addsDue (l : List AtomOp) : List AtomOp :=
  (l.zipIdx.filter fun o => decide (o.1.stage = 0)
    && (l.take o.2).all fun q => !granMeet q.addr 1 o.1.addr 1).map (·.1)

/-- An add takes its granule and reads it (12 R367). -/
def startAdd (s : State) (n : Nat) (o : AtomOp) : State :=
  addJob (updAdds s n (updFirst (fun q => q.id == o.id) fun q => { q with stage := 1 })) (.add o.id)
    [readBursts false (o.addr - o.addr % 64) 64]

/-- Every add that may start does. -/
def startAdds (s : State) : State :=
  (List.range 16).foldl (fun s n => (addsDue (getMemCh s n).adds).foldl (fun s o => startAdd s n o) s) s

/-- The flags an add raised go to the transfer or peer's request it belongs to; so does a port fault of the latter. An
add whose element was written, or handed to be written, counts as performed (14 R420). -/
def creditAdd (s : State) (o : AtomOp) (bad : Bool) : State :=
  match o.user with
  | .xfer n =>
    let s1 := updXfer s n fun t => { t with flags := t.flags ||| o.fl }
    match (allXfers s).find? (·.id == n) with
    | some t => if o.stage = 2 then noteAdd s1 t else s1
    | none => s1
  | .remote n => { s with light := { s.light with
      remotes := s.light.remotes.map fun r => if r.id = n then { r with fl := r.fl ||| o.fl, err := r.err || bad } else r } }
  | _ => s

/-- An add whose request has ended goes on: from the granule read to the element's WRITE, and from its acknowledgment to
the end. A port fault ends it. -/
def goAdd (s : State) (n : Nat) (o : AtomOp) : State :=
  let u : User := .add o.id
  let bad := jobErr s u
  if o.stage = 1 ∧ bad = false then
    let r := atomicAt o.fmt (jobRx s u) o.addr o.val
    addJob (updAdds (dropJob s u) n (updFirst (fun q => q.id == o.id) fun q => { q with stage := 2, fl := r.2 })) u
      [writeBursts false o.addr (loadBytes r.1 o.addr (elemBytes o.fmt))]
  else creditAdd (updAdds (dropJob s u) n (delFirst fun q => q.id == o.id)) o bad

/-- The adds whose requests have ended go on, and those that wait for their granules start. -/
def goAdds (s : State) : State :=
  startAdds (((allAdds s).filter fun o => decide (0 < o.2.stage) && jobDone s (.add o.2.id)).foldl
    (fun s o => goAdd s o.1 o.2) s)

/-! ### Starting a transfer (R259, R260) -/

/-- Partition of the context that issued a transfer. -/
def xferPart (s : State) (t : Xfer) : Nat := (getCal s (ctxCal t.ctx)).part

/-- The check that an element fails as its destination is written (R237, R269). An ADD's destination element is aligned
to its size (R267). -/
def dstStop (s : State) (t : Xfer) (e : List Nat) : Option Stop :=
  match sideAddr s (xferPart s t) t.dst t.didx e true with
  | .error q => some q
  | .ok b => if t.add = true ∧ b % elemBytes t.dst.fmt ≠ 0 then some (hDescShape, BitVec.ofNat 32 t.dsth) else none

/-- The check that an element fails as its source is read, or else at its destination. -/
def elemStop (s : State) (t : Xfer) (e : List Nat) : Option Stop :=
  match sideAddr s (xferPart s t) t.src t.sidx e false with
  | .error q => some q
  | .ok _ => dstStop s t e

/-- The first element that fails a check, with the check. -/
def firstStop (t : Xfer) (f : List Nat → Option Stop) : Option (Nat × Stop) :=
  (xferElems t).zipIdx.findSome? fun e => (f e.1).map fun q => (e.2, q)

/-- A transfer as it starts: the elements before the first that fails a check are good (R269). -/
def checkedXfer (s : State) (t : Xfer) : Xfer :=
  match firstStop t (elemStop s t) with
  | some p => { t with good := p.1, stop := some p.2 }
  | none => { t with good := (xferElems t).length, stop := none }

/-- A transfer as it begins to write: its destination's elements are checked again, as that is when they are accessed
(R237). -/
def recheckedXfer (s : State) (t : Xfer) : Xfer :=
  match firstStop t (dstStop s t) with
  | some p => if p.1 < t.good then { t with good := p.1, stop := some p.2 } else t
  | none => t

/-- Elements that have passed their checks, with number and addresses. -/
def goodElems (t : Xfer) : List (Nat × Nat × Nat) :=
  ((xferElems t).take t.good).zipIdx.map fun e => (e.2, addrOf t.src t.sidx e.1, addrOf t.dst t.didx e.1)

/-- Reads of a transfer's source in external memory. -/
def xferReads (t : Xfer) : List Burst :=
  if t.src.space = 2 ∨ t.src.space = 3 then
    (coalesce ((goodElems t).map fun m => (m.2.1, elemBytes t.src.fmt))).flatMap fun r =>
      readBursts (t.src.space == 3) r.1 r.2
  else []

/-- Ranges of external memory that a transfer writes. -/
def dstRanges (t : Xfer) : List (Nat × Nat) :=
  coalesce ((goodElems t).map fun m => (m.2.2, elemBytes t.dst.fmt))

/-- What a COPY leaves at its destination's addresses: the later of two elements at one address stays (R262). -/
def dstImage (s : State) (t : Xfer) : Mem :=
  (goodElems t).foldl (fun im m => storeBytes im m.2.2 (srcBytes s t m.1 m.2.1)) []

/-- Writes of a COPY to external memory. -/
def xferWrites (s : State) (t : Xfer) : List Burst :=
  let im := dstImage s t
  (dstRanges t).flatMap fun r => writeBursts (t.dst.space == 3) r.1 (loadBytes im r.1 r.2)

/-- The fence of FLUSH covers these ranges of external memory (R260). -/
def flushOf (t : Xfer) (ws : List Burst) : List (List Burst) :=
  if t.flush = true ∧ ws ≠ [] then [fenceBursts (t.dst.space == 3) ws] else []

/-- Put back the first transfer of an engine. -/
def setHead (s : State) (e : Nat) (t : Xfer) : State := setEng s e (t :: (engList s e).drop 1)

/-- The work item of a transfer has written these ports (12 R376). -/
def notePorts (s : State) (t : Xfer) (ns : List Nat) : State :=
  match winItemOf s t.ctx with
  | some i =>
    if i.ch = t.ch ∧ i.seq = t.seq then setItem s { i with ports := (i.ports ++ ns).eraseDups } else s
  | none => s

/-- A transfer whose reads have ended makes its requests to write: WRITEs of a COPY into external memory, frames to a
peer, and the fence of FLUSH. An ADD into the block or its memory has been performed by then. One whose destination is
behind the host link, down by now, fails (12 R382). -/
def writeXfer (s : State) (e : Nat) (t0 : Xfer) : State :=
  let u : User := .xfer t0.id
  let t := if t0.add = true ∧ t0.dst.space ≠ 4 then t0 else recheckedXfer s t0
  let es := goodElems t
  let t1 := { t with wrote := true }
  if linkOk s t.dst = false then setHead s e { t1 with err := true }
  else if t.dst.space = 4 then
    let s1 := es.foldl (fun s m =>
      sendElem s t m.2.2 (srcBytes s t m.1 m.2.1) (m.1 + 1 == (xferElems t).length)) (if es = [] then s else noteAdd s t)
    setHead s1 e { t1 with acks := es.length }
  else if t.dst.space = 0 then setHead s e t1
  else
    let ws := if t.add then (dstRanges t).flatMap fun r => readBursts false r.1 r.2 else xferWrites s t
    let s1 := notePorts (setHead s e t1) t (if t.dst.space = 3 then [16] else ws.map fun b => memChan b.addr)
    addJob (dropJob s1 u) u ((if t.add then [] else [ws]) ++ flushOf t ws)

/-- The requests of a transfer's first half have ended well: its reads, and the adds of an ADD into the block or its
memory. -/
def halfDone (s : State) (t : Xfer) : Bool :=
  t.started && !t.wrote && !t.err && t.acks == 0 && jobDone s (.xfer t.id) && !jobErr s (.xfer t.id)
    && (!t.add || t.dst.space == 4 || (t.adds == (xferElems t).length && addsEnded s (.xfer t.id)))

/-- The first transfer of an engine goes on to its writes when it may. -/
def goXfer (s : State) (e : Nat) : State :=
  match engList s e with
  | [] => s
  | t :: _ => if halfDone s t then writeXfer s e t else s

/-- Every engine's first transfer goes on when it may. -/
def goXfers (s : State) : State := (List.range 20).foldl goXfer s

/-- READs of a transfer's source on a peer. -/
def readPeer (s : State) (t : Xfer) : State × Nat :=
  (goodElems t).foldl (fun (acc : State × Nat) m =>
    let q := peerRead acc.1 (peerOf t.src) (.xfer t.id) m.2.1 (elemBytes t.src.fmt) (8 * m.1)
    (q.1, acc.2 + q.2)) (s, 0)

/-- Start transfer t, the first of engine e: its requests to read. One that needs the host link while it is down fails
at once (12 R380, R382). -/
def startXfer (s : State) (e : Nat) (t : Xfer) : State :=
  let t1 := { checkedXfer s t with started := true }
  if linkOk s t.src = false ∨ linkOk s t.dst = false then setHead s e { t1 with err := true }
  else
    let s1 := addJob (setHead s e t1) (.xfer t.id) [xferReads t1]
    let r := if t.src.space = 4 then readPeer s1 t1 else (s1, 0)
    goXfer (setHead r.1 e { t1 with acks := r.2 }) e

/-- Start the first transfer of an engine when it has not started. -/
def startHead (s : State) (e : Nat) : State :=
  match engList s e with
  | [] => s
  | t :: _ => if t.started then s else startXfer s e t

/-! ### VENT (R259, R263 to R269) -/

/-- Transfer descriptor bits, checked (R263). -/
def xferDesc (s : State) (x h : Nat) : Except Stop Nat :=
  let w := descBits s x h
  if h = 0 ∨ bits w 3 0 ≠ 2 ∨ 1 < bits w 5 4 ∨ bit w 7 = true ∨ bit w 31 = true ∨ bits w 511 35 ≠ 0 then
    .error (hDescInvalid, BitVec.ofNat 32 h)
  else .ok w

/-- One side's tensor at issue (R264): NDIM 1 to 3, its index values, and the checks of R237 and R396. -/
def sideTensor (s : State) (x h : Nat) : Except Stop (Desc × List Nat) := do
  let d ← useDesc s x h
  stopIf (3 < d.ndim) hDescShape (BitVec.ofNat 32 h)
  let vals ← valsOf s x d
  return (d, vals)

/-- Bounds of one side at issue (R237, 13 R396). -/
def sideBounds (s : State) (p : Nat) (d : Desc) (vals : List Nat) (write : Bool) : Except Stop Unit := do
  stopIf (d.space = 4 ∧ 2 ^ 48 < d.base % 2 ^ 48 + d.limit) hBounds (lowWord d.base)
  stopIf (spaceOk s p d write = false ∨ linkOk s d = false) hRegionFault (lowWord d.eff)
  if d.indirect then return ()
  else checkAccess s d vals (countsOf d vals)

/-- Every element of a direct ADD destination is aligned to its size (R267). -/
def addAligned (d : Desc) : Bool :=
  let n : Int := elemBytes d.fmt
  d.indirect || (decide (d.eff % n = 0) && (d.sizes.zip d.strides).all fun p => p.1 == 1 || decide (p.2 % n = 0))

/-- VENT at issue: the engine's key and the transfer. -/
def ventCheck (x : Nat) (i : Item) (s : State) (w ofs : Nat) : Except Stop (Nat × Xfer) := do
  slotForm 29 w
  let h := bits w 18 9
  let hw := BitVec.ofNat 32 h
  let vs := bit w 8
  let c := ctxCal x
  let xd ← xferDesc s x h
  let src ← sideTensor s x (bits xd 17 8)
  let dst ← sideTensor s x (bits xd 27 18)
  let add := bits xd 5 4 == 1
  let dh := BitVec.ofNat 32 (bits xd 27 18)
  stopIf (dst.1.space = 1 ∨ (add = true ∧ dst.1.space = 3)) hDescInvalid dh
  let scal := if bit xd 30 then bits xd 29 28 else c
  let dcal := if bit xd 34 then bits xd 33 32 else c
  let own := fun (n : Nat) => (getCal s n).part == i.part
  stopIf ((vs = true ∧ ((src.1.space < 2 ∧ own scal = false) ∨ (dst.1.space = 0 ∧ own dcal = false)))
    ∨ (vs = false ∧ (scal ≠ c ∨ dcal ≠ c ∨ (1 < src.1.space ∧ 0 < dst.1.space)))) hDescInvalid hw
  stopIf (src.1.fmt ≠ dst.1.fmt ∨ (add = true ∧ src.1.fmt ≠ 0 ∧ src.1.fmt ≠ 10 ∧ src.1.fmt ≠ 11)) hOperandFormat hw
  let cs := countsOf src.1 src.2
  stopIf (src.1.ndim ≠ dst.1.ndim ∨ cs ≠ countsOf dst.1 dst.2) hDescShape dh
  stopIf (vs = true ∧ 1048576 < cs.foldl (· * ·) (fmtBits src.1.fmt) / 8) hDescShape hw
  sideBounds s i.part src.1 src.2 false
  sideBounds s i.part dst.1 dst.2 true
  stopIf (add = true ∧ addAligned dst.1 = false) hDescShape dh
  let sem ← if bit w 28 then .ok none else (semUse s x i (bit w 27) (bits w 26 19)).map some
  return (if vs then 16 + bits w 7 6 else 4 * c + bits w 7 6,
    { id := s.nid, ctx := x, ch := i.ch, seq := i.seq, ofs, pre := false, add, flush := bit xd 6, src := src.1,
      dst := dst.1, scal, dcal, sidx := src.2, didx := dst.2, sem := sem.map (·.1), dsth := bits xd 27 18,
      started := false, wrote := false, adds := 0, flags := 0, err := false, mute := false, rx := [], acks := 0, img := i.img })

/-- The item keeps a record for the shared semaphore a move will signal (R274). -/
def reserveSem (s : State) (x : Nat) (sem : Option Nat) : State :=
  match sem, winItemOf s x with
  | some k, some i => if (getSem s k).bind = 2 then setItem s (addDefer i k 0) else s
  | _, _ => s

/-- The VENT that a context waits with at a full engine: the engine. -/
def ventAt (s : State) (y : Nat) : Option Nat :=
  match nextTurn s y, itemOf s y with
  | .slot s1 .mov w ofs, some i =>
    if opIs 0x02 w then
      match ventCheck y i s1 w ofs with
      | .ok a => some a.1
      | .error _ => none
    else none
  | _, _ => none

/-- Order of context y, which has asked for a position of VS engine e since a clock (11 Table 11.1): aged 65,536 FCLK,
DEADLINE, then the context handle from the pointer on. -/
def ventKey (s : State) (e y since : Nat) : List Nat :=
  let place := (y + 64 - tget 0 (e - 16) s.vsPtr % 64) % 64
  if 393216 ≤ s.clk - since then [0, since, 0, place]
  else [1, 0, ((winItemOf s y).map (·.deadline)).getD 0, place]

/-- Clock since which the VENT that a context has reached asks for its engine: this cycle, when it has not waited. -/
def ventSince (s : State) (y : Nat) : Nat := if (getCtx s y).cause = 0x0B then (getCtx s y).since else s.clk

/-- Prefetched VENTs that wait inside their prefetch units for engine e (R279). -/
def aheadOf (s : State) (e : Nat) : List Ahead :=
  (List.range 4).flatMap fun c => (getCal s c).ahead.filter (·.eng == e)

/-- An executing context has reached a VENT that waits for a position of VS engine e, and comes before a key (11 R342 to
R344). -/
def reachedFirst (s : State) (x e : Nat) (key : List Nat) : Bool :=
  (List.range 64).any fun y => y != x && decide ((getCtx s y).cause = 0x0B) && decide (ventAt s y = some e)
    && lexLt (ventKey s e y (ventSince s y)) key

/-- The next position of an engine goes to another VENT than the one that context x asks with now, since a clock: at a
VS engine to one that comes first by key, at a VE engine to one that issued earlier (11 Table 11.1). -/
def ventLoses (s : State) (x e since : Nat) : Bool :=
  if e < 16 then !(aheadOf s e).isEmpty
  else
    let key := ventKey s e x since
    reachedFirst s x e key || (aheadOf s e).any fun a => lexLt (ventKey s e a.t.ctx a.since) key

/-- VENT waits while its engine holds 6 transfers (R259), or while the engine's next position goes to another VENT. -/
def ventWait (s : State) (a : Nat × Xfer) : Option Nat :=
  if 6 ≤ (engList s a.1).length ∨ ventLoses s a.2.ctx a.1 (ventSince s a.2.ctx) = true then some 0x0B else none

/-- A transfer takes the next position of its engine, and starts if it is the first. -/
def enterEng (s : State) (e : Nat) (t : Xfer) : State :=
  let s1 := setEng s e (engList s e ++ [t])
  startHead (if e < 16 then s1 else { s1 with vsPtr := tput 0 (e - 16) ((t.ctx + 1) % 64) s1.vsPtr }) e

/-- A VENT issues: it takes its identifier, and its item keeps a record for its semaphore. -/
def issueVent (x : Nat) (s : State) (t : Xfer) : State :=
  let s1 := reserveSem s x t.sem
  { s1 with nid := s1.nid + 1 }

/-- VENT's effect: the transfer is queued. -/
def ventEffect (x : Nat) (s : State) (a : Nat × Xfer) : State := enterEng (issueVent x s a.2) a.1 a.2

/-- The prefetched VENT that comes first at engine e: by key at a VS engine, by issue at a VE engine. -/
def firstAhead (s : State) (e : Nat) : Option Ahead :=
  if e < 16 then (aheadOf s e).head?
  else
    (aheadOf s e).foldl (fun b a =>
      match b with
      | none => some a
      | some b => if lexLt (ventKey s e a.t.ctx a.since) (ventKey s e b.t.ctx b.since) then some a else some b) none

/-- A prefetched VENT that waits takes a position of engine e that is free, unless a VENT that an executing context has
reached comes first (R279; 11 Table 11.1). -/
def enterAhead (s : State) (e : Nat) : State :=
  match (if 6 ≤ (engList s e).length then none else firstAhead s e) with
  | none => s
  | some a =>
    if 16 ≤ e ∧ reachedFirst s a.t.ctx e (ventKey s e a.t.ctx a.since) = true then s
    else enterEng (updCal s (ctxCal a.t.ctx) fun k => { k with ahead := delFirst (fun b => decide (b = a)) k.ahead }) e a.t

/-- A MOV slot that the prefetch unit has issued already (R279). -/
def isPrefetched (s : State) (x ofs : Nat) : Bool :=
  (getCtx s x).pre.any fun p => p.ofs == ofs && p.seqNo == (getCtx s x).bundles

/-- The context reaches its prefetched slot: nothing issues again (R279). -/
def reachPrefetch (s : State) (x ofs : Nat) : State :=
  let n := (getCtx s x).bundles
  let s1 := updCtx s x fun c => { c with pre := c.pre.filter fun p => !(p.ofs == ofs && p.seqNo == n) }
  let s2 := (List.range 20).foldl (fun s e =>
    setEng s e (updFirst (fun t => t.ctx == x && t.pre && t.ofs == ofs) (fun t => { t with pre := false })
      (engList s e))) s1
  let upd := updFirst (fun (l : Lookup) => l.ctx == x && l.pre && l.ofs == ofs) fun l => { l with pre := false }
  let upa := updFirst (fun (a : Ahead) => a.t.ctx == x && a.t.pre && a.t.ofs == ofs) fun a =>
    { a with t := { a.t with pre := false } }
  updCal s2 (ctxCal x) fun k => { k with lookups := upd k.lookups, ahead := upa k.ahead }

/-- VENT (R259). -/
def execVent (x : Fin 64) : State → Host.Outcome State Fault Refusal :=
  issueSlot x.val .mov (opIs 0x02) fun s w ofs =>
    match itemOf s x.val with
    | none => .done s
    | some i =>
      if isPrefetched s x.val ofs then .reached (reachPrefetch s x.val ofs)
      else opRes (ventCheck x.val i s w ofs) (ventWait s) (ventEffect x.val s)

/-! ### Completion of a transfer (R260 to R262, R269, R291) -/

/-- Put the good elements of a COPY into a scratchpad in iteration order (R262, R269). -/
def moveElems (s : State) (t : Xfer) : State :=
  (goodElems t).foldl (fun s m =>
    updCal s t.dcal fun k => { k with spad := storeBytes k.spad m.2.2 (srcBytes s t m.1 m.2.1) }) s

/-- Remove the first transfer of an engine. -/
def popXfer (s : State) (e : Nat) (t : Xfer) : State :=
  setEng (dropJob s (.xfer t.id)) e ((engList s e).drop 1)

/-- A transfer's or lookup's completion signals its semaphore (R261). -/
def signal (s : State) (x : Nat) (sem : Option Nat) : State :=
  match sem with
  | none => s
  | some k =>
    let v := getSem s k
    if v.bind = 0 then s
    else if v.bind = 1 then semAdd s k 1
    else match winItemOf s x with
      | some i => setItem s (addDefer i k 1)
      | none => s

/-- Halt for a check that a transfer or lookup, issued by an image's bundle, failed after its issue (R256, R269);
nothing when its attempt has stopped. -/
def moveHalt (s : State) (x : Nat) (img : BitVec 16) (ofs : Nat) (mute : Bool) (q : Stop) : State :=
  if mute then s else muteMoves (haltFrom s x img ofs 4 q.1 q.2) x

/-- The transfer has nothing outstanding (R260). -/
def xferReady (s : State) (t : Xfer) : Bool :=
  t.started && jobDone s (.xfer t.id) && addsEnded s (.xfer t.id)
    && (t.err || jobErr s (.xfer t.id) || (t.wrote && t.acks == 0))

/-- A failed transfer ends: its attempt has been stopped by its port fault, or halts now because the host link was
down (12 R382). -/
def failedXfer (s : State) (t : Xfer) : State :=
  match winItemOf s t.ctx with
  | none => s
  | some i =>
    if i.stopped = true ∨ i.halt.reason ≠ 0 then s
    else moveHalt s t.ctx t.img t.ofs t.mute (hRegionFault, lowWord (if t.src.space = 3 then t.src.eff else t.dst.eff))

/-- Flags of an ADD whose attempt has stopped join its work item's ASTAT; no halt follows (R291). -/
def lateFlags (s : State) (t : Xfer) : State :=
  match winItemOf s t.ctx with
  | some i =>
    if i.ch = t.ch ∧ i.seq = t.seq then
      updCtx s t.ctx fun c => { c with astat := c.astat ||| t.flags.setWidth 32 }
    else s
  | none => s

/-- The first transfer of engine e completes; the next one starts, and a prefetched VENT takes the position. -/
def completeXfer (s : State) (e : Nat) (t : Xfer) : State :=
  enterAhead (startHead (
    if t.err ∨ jobErr s (.xfer t.id) = true then failedXfer (popXfer s e t) t
    else
      let s2 := popXfer (if t.add = false ∧ t.dst.space = 0 then moveElems s t else s) e t
      match t.stop with
      | some q => moveHalt s2 t.ctx t.img t.ofs t.mute q
      | none =>
        if t.mute then lateFlags s2 t else raiseFrom (signal s2 t.ctx t.sem) t.ctx t.img t.ofs 4 t.flags) e) e

/-- TRANSFER_COMPLETE (R260): the engine's first transfer completes when nothing of it is outstanding. -/
def execTransferComplete (e : Eng) (s : State) : Host.Outcome State Fault Refusal :=
  match engList s (engKey e) with
  | [] => .next (enterAhead s (engKey e))
  | t :: _ => if xferReady s t then .next (settle (completeXfer s (engKey e) t) t.ctx) else .next s

/-! ### ATOMIC_ADD (R289, R290) -/

/-- Element k of an ADD transfer reaches its atomic unit: a scratchpad's performs the add at once, a Memory Port
channel's takes it into its order. -/
def addAt (s : State) (e : Nat) (t : Xfer) (p : Nat × Nat) : State :=
  let v := srcBytes s t t.adds p.1
  if t.dst.space = 0 then
    let r := atomicAt t.dst.fmt (getCal s t.dcal).spad p.2 v
    setHead (updCal (noteAdd s t) t.dcal fun k => { k with spad := r.1 }) e { t with adds := t.adds + 1, flags := t.flags ||| r.2 }
  else arriveAdd (setHead s e { t with adds := t.adds + 1 }) (.xfer t.id) p.2 t.dst.fmt v

/-- The next element of an ADD transfer into the block or its memory; one that fails its check halts the context
(R269). -/
def addNext (s : State) (e : Nat) (t : Xfer) : State :=
  let m := (xferElems t).getD t.adds []
  match (if t.good ≤ t.adds then t.stop else dstStop s t m) with
  | some q => moveHalt (setHead s e { t with err := true }) t.ctx t.img t.ofs t.mute q
  | none => goXfer (goAdds (addAt s e t (addrOf t.src t.sidx m, addrOf t.dst t.didx m))) e

/-- ATOMIC_ADD (R289): the next element of the engine's first transfer reaches its atomic unit, once its data has been
read. -/
def execAtomicAdd (e : Eng) (s : State) : Host.Outcome State Fault Refusal :=
  match engList s (engKey e) with
  | [] => .next s
  | t :: _ =>
    if t.started = true ∧ t.add = true ∧ t.err = false ∧ t.dst.space ≠ 4 ∧ t.acks = 0 ∧ jobDone s (.xfer t.id) = true
        ∧ jobErr s (.xfer t.id) = false ∧ t.adds < (xferElems t).length then
      .next (settle (addNext s (engKey e) t) t.ctx)
    else .next s

/-! ### GATHER and lookups (R284 to R288) -/

/-- Location of a table's generation. -/
def tableLoc (t : Table) (gen : Nat) : Option Loc :=
  if gen = t.gen then some t.loc else if gen = t.oldGen then t.old else none

/-- Bytes that a row's read from its location starts at. -/
def rowAddr (t : Table) (l : Loc) (s : State) (row : Nat) : Nat :=
  (if l.peer.isSome then l.addr else (getRegion s (regIdx l.reg)).base + l.addr) + row * t.rowBytes

/-- Generation of a table that an item holds (R284). -/
def heldGen (s : State) (i : Item) (t : Nat) : Nat :=
  ((i.tables.find? (·.1 == t)).map (·.2)).getD (getTable s t).gen

/-- The peer that a table's generation lies on is lost. -/
def tableLost (s : State) (t : Table) (gen : Nat) : Bool :=
  match (tableLoc t gen).bind (·.peer) with
  | some q => (getPeer s q).lost
  | none => false

/-- The failure of a lookup at a peer that cannot be reached (R288): the address of a row. -/
def lostStop (s : State) (t : Table) (gen row : Nat) : Stop :=
  (hRegionFault, match tableLoc t gen with
    | some loc => BitVec.ofNat 32 (rowAddr t loc s row)
    | none => 0)

/-- GATHER at issue: the lookup (R286). R286 states DST's shape by its SIZE fields; for an indirect DST an index list
shorter than the SIZE of its dimension does not fit either (DESIGN CHOICE, log entry 159). -/
def gatherCheck (x : Nat) (i : Item) (s : State) (w ofs : Nat) : Except Stop Lookup := do
  slotForm 44 w
  let idx ← indexVals s x (bits w 15 6)
  let dh := bits w 25 16
  let d ← useDesc s x dh
  stopIf (d.space ≠ 0) hDescInvalid (BitVec.ofNat 32 dh)
  let n := bits w 33 26
  let t := getTable s n
  stopIf (64 ≤ n ∨ t.live = false ∨ t.part ≠ i.part) hBadField 0
  let vals ← valsOf s x d
  stopIf (d.ndim ≠ 2 ∨ d.sizes.headD 0 * fmtBits d.fmt / 8 ≠ t.rowBytes ∨ d.sizes.getD 1 0 ≠ idx.length
    ∨ (d.indirect = true ∧ vals.length < d.sizes.getD d.idim 0)) hDescShape (BitVec.ofNat 32 dh)
  checkAccess s d vals d.sizes
  let g := heldGen s i n
  stopIf (tableLost s t g = true) hRegionFault (lostStop s t g (idx.headD 0)).2
  let sem ← if bit w 43 then .ok none else (semUse s x i (bit w 42) (bits w 41 34)).map some
  return { id := s.nid, ctx := x, ch := i.ch, seq := i.seq, ofs, pre := false, table := n, gen := g, idx, dst := d,
           sem := sem.map (·.1), err := false, mute := false, rx := [], acks := 0, read := [], img := i.img, didx := vals,
           since := s.clk }

/-- A sector of the Tephra cache (R288). -/
def sector (s : State) (table gen row k : Nat) : Option (List Byte) :=
  (s.tephra.find? fun e => decide (e.1 = (table, gen, row, k))).map (·.2)

/-- Rows of a lookup still to be read from their location: those of a BYPASS table, and those with a sector that the
cache does not hold, unless the lookup has read them. -/
def missRows (s : State) (l : Lookup) : List (Nat × Nat) :=
  let t := getTable s l.table
  (l.idx.zipIdx).filter fun e => e.1 < t.rows && e.1 ≠ 0xFFFFFFFF && !l.read.contains e.2 &&
    (t.bypass || (List.range (t.rowBytes / 64)).any fun k => (sector s l.table l.gen e.1 k).isNone)

/-- A lookup reads the rows it misses from memory or from a peer (R287, R288). -/
def readRows (s : State) (l : Lookup) : State × Lookup :=
  let t := getTable s l.table
  match tableLoc t l.gen with
  | none => (s, { l with err := true })
  | some loc =>
    let ms := missRows s l
    let l1 := { l with read := l.read ++ ms.map (·.2) }
    match loc.peer with
    | some q =>
      let r := ms.foldl (fun (acc : State × Nat) e =>
        let p := peerRead acc.1 q (.look l.id) (rowAddr t loc s e.1) t.rowBytes (4096 * e.2)
        (p.1, acc.2 + p.2)) (s, 0)
      (r.1, { l1 with acks := r.2 })
    | none =>
      let host := (getRegion s (regIdx loc.reg)).host
      let u : User := .look l.id
      (setRx (addJob (dropJob s u) u [ms.flatMap fun e => readBursts host (rowAddr t loc s e.1) t.rowBytes]) u
        (jobRx s u), l1)

/-- GATHER's effect. -/
def gatherEffect (x : Nat) (s : State) (l : Lookup) : State :=
  let s1 := reserveSem s x l.sem
  let r := readRows { s1 with nid := s1.nid + 1 } l
  updCal r.1 (ctxCal x) fun k => { k with lookups := k.lookups ++ [r.2] }

/-- GATHER waits while 16 lookups of the Caldera are in flight (R286). -/
def gatherWait (s : State) (x : Nat) : Option Nat :=
  if 16 ≤ (getCal s (ctxCal x)).lookups.length then some 0x0C else none

/-- GATHER (R286). -/
def execGather (x : Fin 64) : State → Host.Outcome State Fault Refusal :=
  issueSlot x.val .mov (opIs 0x03) fun s w ofs =>
    match itemOf s x.val with
    | none => .done s
    | some i =>
      if isPrefetched s x.val ofs then .reached (reachPrefetch s x.val ofs)
      else opRes (gatherCheck x.val i s w ofs) (fun _ => gatherWait s x.val) (gatherEffect x.val s)

/-- Bytes of row m of a lookup: the cache's sectors, and for those that it lacks what the row's READ has returned. -/
def rowBytesOf (s : State) (l : Lookup) (row m : Nat) : List Byte :=
  let t := getTable s l.table
  match tableLoc t l.gen with
  | none => []
  | some loc =>
    (List.range (t.rowBytes / 64)).flatMap fun k =>
      match (if t.bypass then none else sector s l.table l.gen row k) with
      | some b => b
      | none =>
        if loc.peer.isSome then loadBytes l.rx (4096 * m + 64 * k) 64
        else loadBytes (jobRx s (.look l.id)) (rowAddr t loc s row + 64 * k) 64

/-- Set of a sector: the spec gives 16,384 sets and no hash (log entry 43). -/
def sectorSet (table row k : Nat) : Nat := (Config.tephraSet table row k).val

/-- Put a sector at the front of the cache's recency order, evicting the least recently used one of a full set
(R288). -/
def touchSector (s : State) (table gen row k : Nat) (b : List Byte) : State :=
  let key := (table, gen, row, k)
  let st := sectorSet table row k
  let rest := s.tephra.filter fun e => !decide (e.1 = key)
  let same := rest.filter fun e => sectorSet e.1.1 e.1.2.2.1 e.1.2.2.2 == st
  let ways := 16 - (s.tephraRetired.filter (· == st)).length
  let rest' := if ways ≤ same.length then
      match same.getLast? with
      | some v => rest.filter fun e => !decide (e.1 = v.1)
      | none => rest
    else rest
  { s with tephra := if ways = 0 then rest' else (key, b) :: rest' }

/-- Put the bytes of a row into row m of a lookup's destination. -/
def putRow (s : State) (l : Lookup) (m : Nat) (bs : List Byte) : State :=
  let w := max 1 (bs.length / max 1 (l.dst.sizes.headD 1))
  let packed := fmtBits l.dst.fmt = 4
  let place := fun (b : Nat) =>
    addrOf l.dst l.didx [if packed then 2 * b else b / w, m] + (if packed then 0 else b % w)
  updCal s (ctxCal l.ctx) fun k => { k with spad := bs.zipIdx.foldl (fun sp b => storeByte sp (place b.2) b.1) k.spad }

/-- The rows of a lookup up to an index that is out of range, with their numbers and bytes; and what fails (R287). -/
def rowsFound (s : State) (l : Lookup) : List (Nat × Nat) → List (Nat × Nat × List Byte) × Option Stop
  | [] => ([], none)
  | (ix, m) :: r =>
    let t := getTable s l.table
    if ix ≠ 0xFFFFFFFF ∧ t.rows ≤ ix then ([], some (hIndexRange, BitVec.ofNat 32 ix))
    else
      let q := rowsFound s l r
      ((ix, m, if ix = 0xFFFFFFFF then List.replicate t.rowBytes 0 else rowBytesOf s l ix m) :: q.1, q.2)

/-- One row of a lookup reaches its destination, and its sectors the cache (R287, R288). -/
def landRow (l : Lookup) (s : State) (e : Nat × Nat × List Byte) : State :=
  let t := getTable s l.table
  let s1 := putRow s l e.2.1 e.2.2
  if t.bypass = true ∨ e.1 = 0xFFFFFFFF then s1
  else (List.range (t.rowBytes / 64)).foldl (fun s k =>
    touchSector s l.table l.gen e.1 k ((e.2.2.drop (64 * k)).take 64)) s1

/-- A lookup's rows reach their destination (R287, R288). -/
def lookRows (s : State) (l : Lookup) : State × Option Stop :=
  let q := rowsFound s l l.idx.zipIdx
  (q.1.foldl (landRow l) s, q.2)

/-- A lookup has nothing outstanding. -/
def lookReady (s : State) (l : Lookup) : Bool := jobDone s (.look l.id) && (l.acks == 0 || l.err)

/-- Lookup l leaves the queue of Caldera c. -/
def popLook (s : State) (c : Nat) (l : Lookup) : State :=
  dropJob (updCal s c fun k => { k with lookups := delFirst (fun q => q.id == l.id) k.lookups }) (.look l.id)

/-- Lookup l completes. -/
def completeLook (s : State) (c : Nat) (l : Lookup) : State :=
  if l.err ∨ jobErr s (.look l.id) = true then popLook s c l
  else
    let r := lookRows s l
    let s1 := popLook r.1 c l
    match r.2 with
    | some q => moveHalt s1 l.ctx l.img l.ofs l.mute q
    | none => if l.mute then s1 else signal s1 l.ctx l.sem

/-- A lookup reads again the rows whose sectors have left the cache (R288); one whose peer cannot be reached any more
halts its context. -/
def readAgain (s : State) (c : Nat) (l : Lookup) : State :=
  let t := getTable s l.table
  if tableLost s t l.gen then
    moveHalt (popLook s c l) l.ctx l.img l.ofs l.mute (lostStop s t l.gen (((missRows s l).map (·.1)).headD 0))
  else
    let r := readRows s l
    updCal r.1 c fun k => { k with lookups := updFirst (fun q => q.id == l.id) (fun _ => r.2) k.lookups }

/-- Order of the lookup at place n of Caldera c at the cache's read port (11 Table 11.1): aged 256 FCLK, DEADLINE, then
the index 16 × Caldera + place from the pointer on. -/
def lookKey (s : State) (c n : Nat) (l : Lookup) : List Nat :=
  let place := (16 * c + n + 64 - s.tephraPtr % 64) % 64
  if 1536 ≤ s.clk - l.since then [0, l.since, 0, place]
  else
    match itemDeadline s l.ch l.seq with
    | some d => [1, 0, d, place]
    | none => [1, 1, 0, place]

/-- Another lookup whose rows are all at hand comes first at the cache's read port. -/
def lookLoses (s : State) (c n : Nat) (l : Lookup) : Bool :=
  (List.range 4).any fun d => (getCal s d).lookups.zipIdx.any fun e =>
    lookReady s e.1 && lexLt (lookKey s d e.2 e.1) (lookKey s c n l)

/-- LOOKUP_COMPLETE (R287): the lookup at a place of the Caldera's queue completes, when it comes first at the cache's
read port. A row whose sectors have left the cache meanwhile is read from its location first (R288). -/
def execLookupComplete (c : Fin 4) (n : Fin 16) (s : State) : Host.Outcome State Fault Refusal :=
  match (getCal s c.val).lookups[n.val]? with
  | none => .next s
  | some l =>
    if lookReady s l = false ∨ lookLoses s c.val n.val l = true then .next s
    else if l.err = false ∧ jobErr s (.look l.id) = false ∧ missRows s l ≠ [] then
      .next (settle (readAgain s c.val l) l.ctx)
    else .next (settle (completeLook { s with tephraPtr := (16 * c.val + n.val + 1) % 64 } c.val l) l.ctx)

/-! ### Prefetch (R278, R279) -/

/-- Where a context's program order stands: code offset, loops, counters. -/
structure Walk where
  pc : Nat
  loops : List LoopE
  c : Tab Word
  deriving DecidableEq, Repr

/-- Program order after a bundle of a given offset and length without a branch (R221). -/
def walkOn (p : Walk) (len : Nat) : Walk :=
  let lb := loopBack p.pc p.loops
  { pc := match lb.1 with
      | some q => q
      | none => p.pc + 4 * len,
    loops := lb.2.1,
    c := match lb.2.2 with
      | some e => tput 0 e.1 (BitVec.ofNat 32 e.2) p.c
      | none => p.c }

/-- The MOV slot bits of the bundle n bundles on, and where program order stands there: every bundle up to it has
DEP = 0 and no SEQ slot but NOP, and lies in the instruction cache (R278). -/
def walkTo (s : State) (c : Nat) (img : BitVec 16) (codeSize : Nat) : Nat → Walk → Option (Walk × Nat)
  | n, p =>
    match codeWord s c img p.pc with
    | none => none
    | some h =>
      match headerFault codeSize p.pc h, codeWords s c img (bits h 15 8 - 1) (p.pc + 4) with
      | none, some ws =>
        let seqOk := !(bit h 0) || bits (ws.headD 0).toNat 5 0 == 0
        if codeSize ≤ p.pc ∨ outOfLoop p.loops p.pc = true ∨ bit h 16 = true ∨ seqOk = false then none
        else
          match n with
          | 0 =>
            if bit h 4 then
              let before := (presentSlots h).takeWhile (· ≠ .mov)
              some (p, slotBits .mov (ws.drop (before.map slotWords).sum))
            else none
          | n + 1 => walkTo s c img codeSize n (walkOn { p with loops := meetEnds p.loops p.pc } (bits h 15 8))
      | _, _ => none

/-- Where the next bundle due stands (R278): after the bundle being issued, when there is one whose SEQ slot has
issued. -/
def walkStart (c : Ctx) : Option (Walk × Nat) :=
  if c.stepOver then none
  else
    match c.bun with
    | none => some ({ pc := c.pc, loops := c.loops, c := c.c }, c.bundles)
    | some b =>
      if b.rest.head? = some .seq ∨ c.goto.isSome = true then none
      else some (walkOn { pc := b.ofs, loops := c.loops, c := c.c } b.len, c.bundles + 1)

/-- A VENT that the prefetch unit issues: it takes a position of its engine, or waits inside the unit for one (R279). -/
def issueAhead (x : Nat) (s : State) (a : Nat × Xfer) : State :=
  let t := { a.2 with pre := true }
  let s1 := issueVent x s t
  if 6 ≤ (engList s a.1).length ∨ ventLoses s x a.1 s.clk = true then
    updCal s1 (ctxCal x) fun k => { k with ahead := k.ahead ++ [⟨a.1, t, s.clk⟩] }
  else enterEng s1 a.1 t

/-- Issue a VENT or GATHER ahead of its turn; nothing when its checks fail, or when Tephra holds 16 lookups: it then
issues in program order. A VENT that gets no position of its engine waits inside the prefetch unit (R279). The context
issues a slot in this cycle (R281). -/
def prefetchSlot (s : State) (x : Nat) (i : Item) (p : Walk) (no w : Nat) : State :=
  let k0 := (getCtx s x).cPrev
  let s1 := updCtx s x fun c => { c with cPrev := p.c }
  let done := fun (t : State) => updCtx t x fun c => { c with cPrev := k0, pre := c.pre ++ [⟨p.pc, no⟩], issued := true }
  if opIs 0x02 w then
    match ventCheck x i s1 w p.pc with
    | .error _ => s
    | .ok a => done (issueAhead x s1 a)
  else if opIs 0x03 w then
    match gatherCheck x i s1 w p.pc with
    | .error _ => s
    | .ok l => if (gatherWait s1 x).isSome then s else done (gatherEffect x s1 { l with pre := true })
  else s

/-- PREFETCH (R278): the MOV slot of the bundle n bundles after the next one due. -/
def execPrefetch (x : Fin 64) (n : Nat) (s : State) : Host.Outcome State Fault Refusal :=
  match winItemOf s x.val with
  | none => .next s
  | some i =>
    let c := getCtx s x.val
    if i.stopped ∨ c.halted ∨ i.ended ∨ i.attempt = 0 ∨ 4 ≤ c.pre.length then .next s
    else
      match walkStart c with
      | none => .next s
      | some (p, no) =>
        match walkTo s (ctxCal x.val) i.img (imgOf s i.img).codeSize n p with
        | none => .next s
        | some (q, w) =>
          if c.pre.any fun e => e.ofs == q.pc && e.seqNo == no + n then .next s
          else .next (prefetchSlot s x.val i q (no + n) w)

end Sys2Proof.Machine
end

