-- ==== Sys2Proof/Machine/Image.lean ====
section
/-! DEFINITION. Program images: the checks of publication, the declaration area, and replacement
(07_programs.md R209, R246 to R254; 05_backward_pass.md R175; 06_vector_and_functions.md R197, R203). -/

namespace Sys2Proof.Machine

/-! ### Bytes of an image -/

/-- Where an image's bytes are read: the external memory and the address of its first byte. -/
structure Src where
  mem : Mem
  base : Nat
  deriving DecidableEq, Repr

/-- The n-byte number at an offset. -/
def rdN (q : Src) (a n : Nat) : Nat := load q.mem (q.base + a) n

/-- Words of 4 B from an offset. -/
def rdWords (q : Src) (a n : Nat) : List Word := (List.range n).map fun k => BitVec.ofNat 32 (rdN q (a + 4 * k) 4)

/-- n bytes from an offset are zero. -/
def rdZero (q : Src) (a n : Nat) : Bool :=
  q.mem.all fun e => decide (e.1 < q.base + a) || decide (q.base + a + n ≤ e.1) || decide (e.2 = 0)

/-- CRC-32C of n bytes from an offset. -/
def rdCrc (q : Src) (a n : Nat) : Nat := crc32c (loadBytes q.mem (q.base + a) n)

/-- A part of n bytes at an offset lies within a size; an empty part lies anywhere. -/
def partIn (ofs n size : Nat) : Bool := decide (n = 0) || decide (ofs + n ≤ size)

/-! ### Bundle chain and code (R209, R247) -/

/-- Bundle starts of an image: header offset and YIELD bit (R209). -/
def bundleChain (q : Src) (code codeSize : Nat) : Nat → Nat → List (Nat × Bool)
  | 0, _ => []
  | fuel + 1, ofs =>
    if codeSize ≤ ofs then []
    else
      let h := rdN q (code + ofs) 4
      match headerFault codeSize ofs h with
      | some _ => []
      | none => (ofs, bit h 17) :: bundleChain q code codeSize fuel (ofs + 4 * bits h 15 8)

/-- Every code line passes its check (R247, 8). -/
def linesOk (q : Src) (code codeSize ltab : Nat) : Bool :=
  (List.range (codeSize / 256)).all fun l => rdCrc q (code + 256 * l) 256 == rdN q (ltab + 4 * l) 4

/-! ### Records -/

/-- A user-curve record (06 Table 06.4). -/
def rdCurve (q : Src) (a : Nat) : Curve :=
  let n := rdN q a 1
  { xs := rdWords q (a + 16) (n + 1), ys := rdWords q (a + 148) (n + 1) }

/-- An FP32 number is finite and no subnormal but zero. -/
def plainFinite (w : Word) : Bool :=
  decide (bits w.toNat 30 23 ≠ 255) && (decide (bits w.toNat 30 23 ≠ 0) || decide (bits w.toNat 22 0 = 0))

/-- Neighbours are strictly increasing. -/
def rising : List Word → Bool
  | a :: b :: r => fLt (f32 a) (f32 b) && rising (b :: r)
  | _ => true

/-- R197. -/
def curveOk (q : Src) (a : Nat) : Bool :=
  let n := rdN q a 1
  let c := rdCurve q a
  decide (1 ≤ n) && decide (n ≤ 32) && rdZero q (a + 1) 15 && rdZero q (a + 280) 8
    && rdZero q (a + 16 + 4 * (n + 1)) (4 * (32 - n)) && rdZero q (a + 148 + 4 * (n + 1)) (4 * (32 - n))
    && c.xs.all plainFinite && c.ys.all plainFinite && rising c.xs

/-- A micro-program record (06 Table 06.6). -/
def rdMicro (q : Src) (a : Nat) : Micro :=
  { steps := rdWords q (a + 16) (rdN q a 1), consts := rdWords q (a + 144) 32 }

/-- A step word that 06 Table 06.7 allows (R204). -/
def stepOk (w : Word) : Bool :=
  let n := w.toNat
  let m := bits n 5 3
  let k := bits n 10 6
  let j := bits n 15 11
  decide (bits n 31 16 = 0) &&
    match bits n 2 0 with
    | 0 => decide (m ≤ 3)
    | 1 => decide (m = 0) && decide (j ≤ 7) && decide (k + j ≤ 31)
    | 2 => decide (m ≤ 3)
    | 3 => decide (m ≤ 5)
    | 4 => decide (m = 0)
    | 5 => decide (m ≤ 1) && decide (1 ≤ j) && decide (j ≤ 4) && decide (k + 2 ^ j ≤ 32)
    | _ => false

/-- R203: a record that keeps Tables 06.6 and 06.7. -/
def microOk (q : Src) (a : Nat) : Bool :=
  let n := rdN q a 1
  let p := rdMicro q a
  decide (1 ≤ n) && decide (n ≤ 32) && rdZero q (a + 1) 15 && rdZero q (a + 16 + 4 * n) (4 * (32 - n))
    && p.steps.all stepOk
    && p.consts.all fun w => decide (bits w.toNat 30 23 ≠ 255) || decide (bits w.toNat 22 0 = 0) || w == 0x7FC00000

/-- A layer record (Table 07.18). -/
def rdLayer (q : Src) (a : Nat) : Layer :=
  { cls := rdN q a 1, recipe := rdN q (a + 1) 1, dform := rdN q (a + 2) 1, f32 := rdN q (a + 3) 1,
    widthM1 := rdN q (a + 4) 1, segM1 := rdN q (a + 5) 1, slot0 := rdN q (a + 6) 1, expeval := rdN q (a + 7) 1,
    din := rdN q (a + 8) 2, qlen := rdN q (a + 10) 2, nstate := rdN q (a + 12) 1, rfmt := rdN q (a + 13) 1,
    cfmt := rdN q (a + 14) 1, gfmt := rdN q (a + 16) 1, gsf := rdN q (a + 17) 1, gslot0 := rdN q (a + 18) 1,
    ckpt := rdN q (a + 20) 2, sgrad := rdN q (a + 22) 2,
    rsvZero := rdZero q (a + 15) 1 && rdZero q (a + 19) 1 && rdZero q (a + 24) 40 }

/-- Positions that n slots of a format take. -/
def positionsOf (f32 n : Nat) : Nat := if f32 = 1 then (n + 1) / 2 else n

/-- A layer record against 04 Tables 04.1 and 04.2, 01 R24 and R27, R138 and R162 (R250). R250 names the placement of
SLOT0 and GSLOT0 alone: whether SLOTS must also leave a GATED layer the 2 working positions of Table 04.2 beside its
state is open, and the model accepts an image that leaves none (DESIGN CHOICE, log entry 150). -/
def layerOk (slots ncurve : Nat) (training : Bool) (l : Layer) : Bool :=
  let n := l.segM1 + 1
  let w := l.widthM1 + 1
  let maxS := (if l.cls = 2 then 6 else 8) * (if l.f32 = 1 then 2 else 1)
  let scan := decide (l.recipe = 1)
  l.rsvZero && decide (1 ≤ l.cls) && decide (l.cls ≤ 4) && decide (l.recipe ≤ 1)
    && (!scan || decide (l.cls = 1) || decide (l.cls = 3))
    && (match l.cls with
        | 1 => decide (l.dform = 0)
        | 3 => decide (1 ≤ l.dform) && decide (l.dform ≤ 3)
        | _ => decide (l.dform = 4))
    && decide (l.f32 ≤ 1) && decide (w ≤ if l.f32 = 1 then 32 else 16)
    && decide (n ≤ w) && decide (w % n = 0) && (decide (n = w) || decide (3 ≤ l.cls)) && decide (n ≤ maxS)
    && decide (l.slot0 + positionsOf l.f32 n ≤ slots)
    && (if l.cls = 4 then decide (l.expeval = 0) || (decide (4 ≤ l.expeval) && decide (l.expeval < 4 + ncurve))
        else decide (l.expeval = 0))
    && (if scan then decide (1 ≤ l.qlen) && decide (l.qlen ≤ 1024) else decide (l.qlen = 1))
    && (if l.cls = 4 then [4, 8, 16, 32, 64].contains l.nstate else decide (l.nstate = 0))
    && decide (l.rfmt ≤ 12) && decide (l.cfmt ≤ 12) && decide (l.sgrad ≤ 1023)
    && (if training then
          decide (1 ≤ l.gfmt) && decide (l.gfmt ≤ 3) && decide (l.gsf ≤ 1)
            && decide (l.gslot0 + positionsOf l.gsf n ≤ slots) && decide (1 ≤ l.ckpt) && decide (l.ckpt ≤ 1024)
            && (!scan || decide (l.ckpt % l.qlen = 0))
        else decide (l.gfmt = 0) && decide (l.gsf = 0) && decide (l.gslot0 = 0) && decide (l.ckpt = 0))

/-- A gradient tile map entry (05 Table 05.3). -/
def rdTile (q : Src) (a : Nat) : Tile :=
  let w := rdN q a 8
  { param := bits w 7 0, trow := bits w 15 8, tcol := bits w 23 16, row := bit w 24, p64 := bit w 25,
    frame := bits w 30 26, frow := bits w 38 31, rsvZero := decide (bits w 63 39 = 0) }

/-- A tile entry keeps Table 05.3 and R169. -/
def tileOk (t : Tile) : Bool :=
  t.rsvZero && (if t.row then !t.p64 && decide (t.tcol = 0) else decide (t.frow = 0) && (!t.p64 || decide (t.frame % 2 = 0)))

/-- Two tile entries share a frame or a frame row. -/
def tilesMeet (a b : Tile) : Bool :=
  let last := fun (t : Tile) => if t.p64 && !t.row then t.frame + 1 else t.frame
  decide (a.frame ≤ last b) && decide (b.frame ≤ last a) && (!(a.row && b.row) || decide (a.frow = b.frow))

/-- R175: no parameter tile twice, no two entries in one frame or frame row. -/
def tilesOk : List Tile → Bool
  | [] => true
  | t :: r =>
    tileOk t && r.all (fun u => !(decide (t.param = u.param) && decide (t.trow = u.trow) && decide (t.tcol = u.tcol))
      && !tilesMeet t u) && tilesOk r

/-- A cost record (10 Table 10.5). -/
def rdCost (q : Src) (a : Nat) : Cost :=
  { fixed := rdN q a 4, perStep := rdN q (a + 4) 4, perBlock := rdN q (a + 8) 4, qb := rdN q (a + 12) 2,
    stateB := rdN q (a + 16) 4, fold := rdN q (a + 20) 4, interf := rdN q (a + 24) 4,
    rsvZero := rdZero q (a + 14) 2 && rdZero q (a + 28) 4 }

/-- Used entries of an acquisition list (Table 07.19). -/
def rdAcqs (q : Src) (a : Nat) : List AcqE :=
  ((List.range 16).map fun e =>
    let w := rdN q (a + 4 * e) 4
    ({ sem := bits w 7 0, glob := bit w 8, amount := bits w 31 16 } : AcqE)).filter fun e => e.amount ≠ 0

/-- Reserved bits of an acquisition list are zero. -/
def acqsZero (q : Src) (a : Nat) : Bool := (List.range 16).all fun e => decide (bits (rdN q (a + 4 * e) 4) 15 9 = 0)

/-! ### Declaration area (R249, R250) -/

/-- R250: the declaration area at an offset of the image, for its entry points, window, curves and kind. -/
def declOk (q : Src) (d size nentry slots ncurve : Nat) (training : Bool) : Bool :=
  let nl := rdN q (d + 4) 2
  let nt := rdN q (d + 6) 2
  let ds := rdN q (d + 28) 4
  let wd := rdN q (d + 24) 4
  let rel := fun (a : Nat) => rdN q (d + a) 4
  let tiles := (List.range nt).map fun k => rdTile q (d + rel 12 + 8 * k)
  decide (rdN q d 4 = 0x464C4443) && decide (rdN q (d + 60) 4 = rdCrc q d 60)
    && decide (nl ≤ 16) && decide (nt ≤ 8192) && decide (64 ≤ ds) && decide (d + ds ≤ size)
    && decide (rel 8 % 64 = 0) && decide (rel 12 % 8 = 0) && decide (rel 16 % 32 = 0) && decide (rel 20 % 64 = 0)
    && partIn (rel 8) (64 * nl) ds && partIn (rel 12) (8 * nt) ds && partIn (rel 16) (32 * nentry) ds
    && partIn (rel 20) (64 * nentry) ds
    && decide (rdN q (d + 32) 4 = rdCrc q (d + 64) (ds - 64)) && rdZero q (d + 36) 24
    && (List.range nentry).all (fun e => acqsZero q (d + rel 20 + 64 * e))
    && (training || decide (nt = 0))
    && (List.range nl).all (fun k => layerOk slots ncurve training (rdLayer q (d + rel 8 + 64 * k)))
    && (decide (wd = 0) || (decide (100000 ≤ wd) && decide (wd ≤ 100000000))) && tilesOk tiles

/-! ### The header and the whole image (R246, R247) -/

/-- Reserved bytes of the header are zero (R247, 4). -/
def headZero (q : Src) : Bool :=
  rdZero q 39 1 && rdZero q 56 4 && rdZero q 64 192 && decide (rdN q 29 1 < 16) && decide (rdN q 38 1 < 4)

/-- Fields of the header in range and parts within the image (R247, 6). -/
def headOk (q : Src) (size : Nat) : Bool :=
  let cs := rdN q 8 4
  let h := rdN q 29 1
  decide (cs % 256 = 0) && decide (rdN q 12 4 % 256 = 0) && decide (1 ≤ rdN q 16 2) && decide (rdN q 16 2 ≤ 64)
    && decide (rdN q 18 2 ≤ 256) && decide (1 ≤ rdN q 28 1) && decide (rdN q 28 1 ≤ 8) && decide (bits h 1 0 ≤ 2)
    && decide (bits h 3 2 ≤ 2) && decide (rdN q 30 1 ≤ 1) && decide (1 ≤ rdN q 31 1) && decide (rdN q 31 1 ≤ 16)
    && decide (rdN q 36 1 ≤ 4) && decide (rdN q 37 1 ≤ 16) && decide (rdN q 48 4 % 64 = 0)
    && partIn (rdN q 12 4) cs size && partIn (rdN q 20 4) (4 * rdN q 16 2) size
    && partIn (rdN q 24 4) (4 * rdN q 18 2) size && partIn (rdN q 40 4) (288 * rdN q 36 1) size
    && partIn (rdN q 44 4) (272 * rdN q 37 1) size && partIn (rdN q 48 4) 64 size
    && partIn (rdN q 52 4) (cs / 64) size

/-- Entry and yield offsets of an image. -/
def rdTab (q : Src) (a n : Nat) : List Nat := (rdWords q a n).map (·.toNat)

/-- Every check of R247 before the resource tests. -/
def imageOk (q : Src) (size : Nat) : Bool :=
  let cs := rdN q 8 4
  let chain := bundleChain q (rdN q 12 4) cs (cs / 4 + 1) 0
  let nc := rdN q 36 1
  decide (256 ≤ size) && decide (rdN q 0 4 = 0x464C3449) && decide (rdN q 4 2 = 1)
    && decide (rdN q 60 4 = rdCrc q 0 60) && headZero q && decide (rdN q 6 1 = 1) && decide (rdN q 7 1 = 3)
    && headOk q size
    && (rdTab q (rdN q 20 4) (rdN q 16 2)).all (fun o => chain.any (·.1 == o))
    && (rdTab q (rdN q 24 4) (rdN q 18 2)).all (fun o => chain.contains (o, true))
    && linesOk q (rdN q 12 4) cs (rdN q 52 4)
    && (List.range nc).all (fun k => curveOk q (rdN q 40 4 + 288 * k))
    && (List.range (rdN q 37 1)).all (fun k => microOk q (rdN q 44 4 + 272 * k))
    && declOk q (rdN q 48 4) size (rdN q 16 2) (rdN q 28 1) nc (bit (rdN q 38 1) 1)

/-- The image that its bytes describe. -/
def rdImage (q : Src) (part : Nat) (host : Bool) (reg : BitVec 16) (size : Nat) (gen : Nat) : Image :=
  let d := rdN q 48 4
  let rel := fun (a : Nat) => rdN q (d + a) 4
  let ne := rdN q 16 2
  let fl := rdN q 38 1
  { gen, live := true, part, host, reg, addr := q.base, size, codeSize := rdN q 8 4, codeOfs := rdN q 12 4,
    entries := rdTab q (rdN q 20 4) ne, yields := rdTab q (rdN q 24 4) (rdN q 18 2),
    slots := rdN q 28 1, rowHalves := bits (rdN q 29 1) 1 0, colHalves := bits (rdN q 29 1) 3 2,
    decay := decide (rdN q 30 1 = 1), lanes := 16 * rdN q 31 1, spadKib := rdN q 32 4, fl2 := bit fl 0,
    training := bit fl 1,
    curves := (List.range (rdN q 36 1)).map fun k => rdCurve q (rdN q 40 4 + 288 * k),
    micros := (List.range (rdN q 37 1)).map fun k => rdMicro q (rdN q 44 4 + 272 * k),
    layers := (List.range (rdN q (d + 4) 2)).map fun k => rdLayer q (d + rel 8 + 64 * k),
    tiles := (List.range (rdN q (d + 6) 2)).map fun k => rdTile q (d + rel 12 + 8 * k),
    costs := (List.range ne).map fun k => rdCost q (d + rel 16 + 32 * k),
    acqs := (List.range ne).map fun k => rdAcqs q (d + rel 20 + 64 * k),
    wdog := rdN q (d + 24) 4, ltab := rdWords q (rdN q 52 4) (rdN q 8 4 / 256) }

/-- Images published now. -/
def liveImages (s : State) : List Nat := (List.range 64).filter fun k => (getImage s k).live

/-- The first free index of a list of a given length. -/
def freeIdx (n : Nat) (used : Nat → Bool) : Option Nat := (List.range n).find? fun k => !used k

/-- Publication of the image at bytes [ofs, ofs + size) of a region, which have been read (R247): its handle, or the
status that refuses it. -/
def publish (s : State) (part : Nat) (reg : BitVec 16) (ofs size : Nat) (bytes : Mem) :
    Except Nat (State × BitVec 16) :=
  let r := getRegion s (regIdx reg)
  let q : Src := ⟨bytes, r.base + ofs⟩
  if imageOk q size = false then .error stImageInvalid
  else
    match freeIdx 64 fun k => (getImage s k).live with
    | none => .error stNoResource
    | some i =>
      let im := rdImage q part r.host reg size (nextGen 10 (getImage s i).gen)
      let lines := ((liveImages s).map fun k => (getImage s k).codeSize / 256).sum
      let progs := ((liveImages s).map fun k => (getImage s k).micros.length).sum
      if Config.lineTable < lines + im.codeSize / 256 then .error stImageSpace
      else if Config.microStore < progs + im.micros.length then .error stMicroprogFull
      else
        let s1 := setImage s i im
        .ok (s1, imgHandle s1 i)

/-- The headers agree in what R251 names. -/
def compatible (a b : Image) : Bool :=
  decide (a.slots = b.slots) && decide (a.rowHalves = b.rowHalves) && decide (a.colHalves = b.colHalves)
    && (a.decay == b.decay) && decide (a.lanes = b.lanes) && decide (a.spadKib = b.spadKib)
    && decide (a.entries.length = b.entries.length) && decide (a.yields.length = b.yields.length)
    && (a.training == b.training)

/-- Contexts that run an image in a window and have not reached END, as a mask (R254). -/
def stillOn (s : State) (img : BitVec 16) : Nat :=
  ((List.range 64).filter fun x => s.items.any fun i =>
    inWindow i && decide (i.ctx = x) && decide (i.img = img) && !i.ended).foldl (fun m x => m + 2 ^ x) 0

end Sys2Proof.Machine
end

