-- ==== Sys2Proof/Machine/Ladder.lean ====
section
/-! DEFINITION. Resets: the Ashfall dump, the escalation ladder's steps, and what each kind of reset wipes and keeps
(14_faults_and_recovery.md, The escalation ladder, The Ashfall dump; 15_lifecycle_power_debug.md R440, R441, R445). -/

namespace Sys2Proof.Machine

/-! ### The Ashfall dump (14 R435 to R437) -/

/-- Calderas in the scope of a step (Table 14.6). -/
def stepCals (s : State) (level target : Nat) : List Nat :=
  match level with
  | 1 => [target / 16]
  | 2 => [target]
  | 3 => calsOf s target
  | _ => [0, 1, 2, 3]

/-- Contexts of a Caldera. -/
def calCtxs (c : Nat) : List Nat := (List.range 16).map (16 * c + ·)

/-- Contexts whose bundles the trace shows: the faulting one, or the executing ones of the scope. -/
def traceCtxs (s : State) (cals : List Nat) (ctx : Option Nat) : List Nat :=
  match ctx with
  | some x => [x]
  | none => cals.filterMap fun c => (execItem s c).map (·.ctx)

/-- A bundle of a trace with its context: code offset, image, clock, context. -/
abbrev Traced := Nat × BitVec 16 × Nat × Nat

/-- Put a bundle behind those of the list that issued before it or in the same cycle. -/
def traceIn (e : Traced) : List Traced → List Traced
  | [] => [e]
  | q :: r => if e.2.2.1 < q.2.2.1 then e :: q :: r else q :: traceIn e r

/-- Trace, 512 B at most: the last bundles of the contexts in the order of their cycles, those of one cycle in the order
of the contexts. -/
def dumpTrace (s : State) (xs : List Nat) : List Byte :=
  let all := xs.flatMap fun x => ((getCtx s x).trace.map fun e => (e.1, e.2.1, e.2.2, x))
  let es := all.foldl (fun l e => traceIn e l) []
  (es.drop (es.length - 64)).flatMap fun e => leBytes 4 e.1 ++ leBytes 2 e.2.1.toNat ++ leBytes 2 e.2.2.2

/-- Sequencer state of a context in the order of 07 Table 07.14 (log entry 44 for the words' layout). -/
def dumpCtx (c : Ctx) : List Byte :=
  let w := leBytes 4
  let loops := (List.range 4).flatMap fun n =>
    match c.loops.reverse[n]? with
    | some l => w l.start ++ w l.endOfs ++ w l.count
    | none => leBytes 12 0
  w c.pc ++ ((List.range 16).flatMap fun n => w (tget 0 n c.c).toNat) ++ w c.k.toNat ++ loops
    ++ w (c.mxr + 65536 * c.mxc) ++ w c.astat.toNat ++ w c.sr.toNat

/-- Stall counters of one context, 17 of 6 B. -/
def stallBytes (c : Ctx) : List Byte := (List.range 17).flatMap fun n => leBytes 6 (tget 0 n c.stalls).toNat

/-- A fault record (Table 14.4). -/
def recBytes (f : FRec) (count : Nat) : List Byte :=
  leBytes 1 f.unit.toNat ++ leBytes 1 f.outcome ++ leBytes 1 f.cal ++ leBytes 1 f.ctx ++ leBytes 4 f.loc.toNat
    ++ leBytes 4 f.detail.toNat ++ leBytes 2 (min count 65535) ++ leBytes 2 0

/-- IDENT_LO and IDENT_HI (09 Tables 09.2 and 09.3). -/
def identLo : Nat := 0x00F15A7E
def identHi : Nat := 0x01030004

/-- Bytes 256 on of a dump (Table 14.7). -/
def dumpBody (s : State) (cals : List Nat) (ctx : Option Nat) : Mem :=
  let m1 := storeBytes [] 0x100 (dumpTrace s (traceCtxs s cals ctx))
  let m2 := match ctx with
    | some x => storeBytes m1 0x300 (dumpCtx (getCtx s x))
    | none => m1
  let m3 := storeBytes m2 0x400 ((List.range 64).flatMap fun x => stallBytes (getCtx s x))
  let m4 := storeBytes m3 0x2000 (s.flt.recs.flatMap fun f => recBytes f.1 f.2)
  let m5 := match ctx with
    | some x => m4 ++ shiftUp (slice (getCal s (ctxCal x)).spad (descAddr x 0) 65536) 0x10000
    | none => m4
  cals.foldl (fun m c => m ++ ((List.range 256).flatMap fun n =>
    shiftUp (slice (getCal s c).spad (n * 98304) 256) (0x20000 + 65536 * c + 256 * n))) m5

/-- The header without its CRCs (Table 14.8). -/
def dumpHead (s : State) (level trigger : Nat) (cals : List Nat) (ctx : Option Nat) (body : Mem) : List Byte :=
  let h := match ctx with
    | some x => if (getCtx s x).halted then (getCtx s x).last else {}
    | none => {}
  let img := match ctx.bind (winItemOf s) with
    | some i => i.img.toNat
    | none => h.img.toNat
  let ofs := match ctx with
    | none => 0
    | some x => if h.reason ≠ 0 then h.ofs else (((getCtx s x).trace.getLast?).map (·.1)).getD 0
  let b1 := leBytes 4 0x464C4144 ++ leBytes 2 1 ++ leBytes 1 level ++ leBytes 1 trigger ++ leBytes 8 (timeNow s)
    ++ leBytes 4 identLo ++ leBytes 4 identHi ++ leBytes 4 s.cp.fatal.toNat
    ++ leBytes 1 ((cals.map (2 ^ ·)).sum) ++ leBytes 1 (ctx.getD 0xFF) ++ leBytes 2 (if ctx.isSome then img else 0)
    ++ leBytes 4 ofs ++ leBytes 1 h.reason ++ leBytes 1 (if h.reason ≠ 0 then h.slot else 0) ++ leBytes 2 0
    ++ leBytes 4 h.detail.toNat ++ leBytes 4 0 ++ leBytes 4 0x60000 ++ leBytes 4 s.flt.recs.length ++ leBytes 4 0
  b1 ++ leBytes 4 (crc32c b1) ++ leBytes 4 (crc32c (loadBytes body 256 (0x60000 - 256)))

/-- One more dump not kept: LOST and the header's CRC (R437). -/
def dumpLost (m : Mem) : Mem :=
  let m1 := store m 44 4 (min (load m 44 4 + 1) 0xFFFFFFFF)
  store m1 60 4 (crc32c (loadBytes m1 0 60))

/-- Capture at the start of a step above context reset (R435, R437). -/
def capture (s : State) (level target trigger : Nat) (ctx : Option Nat) : State :=
  if s.dump.held then { s with dump := { s.dump with mem := dumpLost s.dump.mem } }
  else
    let cals := stepCals s level target
    let body := dumpBody s cals ctx
    { s with dump := { s.dump with held := true, mem := storeBytes body 0 (dumpHead s level trigger cals ctx body) } }

/-! ### Steps of the ladder (14 R432 to R434) -/

/-- The scope of step (l, t) covers that of (l', t'). -/
def covers (s : State) (l t l' t' : Nat) : Bool :=
  (stepCals s l' t').all (stepCals s l t).contains && decide (l' ≤ l) && (decide (1 < l) || decide (t = t'))

/-- A block reset whose firmware failed its verification: a further one starts anew (15 R444). -/
def spent (s : State) (q : LStep) : Bool := q.level == 4 && q.wiped && decide (s.life.phase = .failed)

/-- A step starts, unless a running one that covers it absorbs it; it takes over the steps it covers. At the start of a
power cycle CRP_PWRCYC_REQ_N is asserted (16 Table 16.9). -/
def startStep (s : State) (level target trigger : Nat) (ctx : Option Nat) (mbs : List Nat) : State :=
  let above := fun (q : LStep) => covers s q.level q.target level target && !spent s q
  if s.ladder.any above then
    { s with ladder := updFirst above (fun q => { q with mbs := q.mbs ++ mbs }) s.ladder }
  else
    let under := s.ladder.filter fun q => covers s level target q.level q.target
    let rest := s.ladder.filter fun q => !covers s level target q.level q.target
    let s1 := setLastStep { s with ladder := rest ++ [⟨level, target, trigger, under.flatMap (·.mbs) ++ mbs, false⟩] } level
    let s2 := if level = 5 then raiseFatal { s1 with pwrcyc := true } 0x10 else s1
    if 2 ≤ level then capture s2 level target trigger ctx else s2

/-- The running step of a level and target. -/
def running (s : State) (level target : Nat) : Option LStep :=
  s.ladder.find? fun q => decide (q.level = level) && decide (q.target = target)

/-- A step completes: it leaves the ladder, and the RESET commands that wait for it respond (R434). -/
def endStep (s : State) (q : LStep) : State :=
  q.mbs.foldl (fun s m =>
    if (getMb s m).st = .busy ∧ (getMb s m).wait = .resetStep then respond s m stOk 0 [] else s)
    { s with ladder := s.ladder.filter fun p => !decide (p = q) }

/-! ### Context and engine reset -/

/-- What a context has in flight at its reset: its operations are dropped and its fetches wait no longer; its transfers
and lookups end as those of a halted item (08 R269, R280). -/
def purgeCtx (s : State) (x : Nat) : State :=
  let s1 := updCal (muteMoves s x) (ctxCal x) fun k =>
    { k with runs := k.runs.filter (·.ctx ≠ x), groups := k.groups.filter (·.ctx ≠ x),
             ops := k.ops.filter (·.ctx ≠ x), feeds := k.feeds.filter (·.ctx ≠ x) }
  (List.range 20).foldl startHead s1

/-- The transfers that meet p leave their engines, their requests ending for nobody. -/
def dropXfers (s : State) (p : Xfer → Bool) : State :=
  let gone := (allXfers s).filter p
  let s1 := (List.range 20).foldl (fun s k =>
    if (engList s k).any p then setEng s k ((engList s k).filter fun t => !p t) else s) s
  (List.range 20).foldl startHead (gone.foldl (fun s t => dropJob s (.xfer t.id)) s1)

/-- The lookups of a Caldera leave Tephra. -/
def dropLooks (s : State) (c : Nat) : State :=
  (getCal s c).lookups.foldl (fun s l => dropJob s (.look l.id)) (updCal s c fun k => { k with lookups := [] })

/-- The context's state of 07 Table 07.14 at its reset values; existence, stall counters and the last halt record
stay. -/
def clearCtx (c : Ctx) : Ctx := { exist := c.exist, stalls := c.stalls, last := c.last }

/-- Abort an item in a window: the halt record RESET_ABORT, status ABORTED (01 R55, 08 R276). -/
def abortItem (s : State) (i : Item) : State :=
  let c := getCtx s i.ctx
  let h : Halt := { ctx := i.ctx, img := i.img, ofs := c.pc, slot := 7, reason := hResetAbort, detail := 0 }
  let i1 := { i with halt := h }
  finishItem (setItem (setCtx s i.ctx { c with last := h }) i1) i1 stAborted

/-- Context reset (Table 14.6). -/
def ctxReset (s : State) (x : Nat) : State :=
  let s1 := match winItemOf s x with
    | some i => abortItem s i
    | none => s
  updCtx (purgeCtx s1 x) x clearCtx

/-- Evict every RESIDENT row of a Caldera, whose array loses its contents (01 R42, 14 R424). -/
def evictCal (s : State) (c : Nat) : State :=
  { s with slots := tmap {} (fun _ v =>
      if v.resValid = true ∧ v.resCal = c ∧ v.st = .resident then
        { v with resValid := false, st := if 0 < v.qdepth then .queued else .idle }
      else v) s.slots }

/-- Engine reset of a Caldera (Table 14.6). -/
def engReset (s : State) (c : Nat) : State :=
  let s1 := (calCtxs c).foldl ctxReset s
  let ids := ((List.range 4).flatMap fun n => engList s1 (4 * c + n)).map (·.id)
  let s2 := (getCal s1 c).fetches.foldl (fun s f => dropJob s (.fetch c f.img f.line))
    (ids.foldl (fun s n => dropJob s (.xfer n)) s1)
  let s3 := updCal s2 c fun k =>
    { k with acc := [], fmt := 0, decay := [], lanes := [], written := 0, halves := [], runs := [], groups := [],
             found := [], free := [], ops := [], feeds := [], icache := [], fetches := [], ve := [], dispPtr := 0 }
  evictCal s3 c

/-! ### Partition reset -/

/-- What requests for an object of partition p: an export, a channel, a mailbox, an event ring, an item's lists. -/
def partUser (s : State) (p : Nat) (u : User) : Bool :=
  match u with
  | .exp v => decide ((getSlot s v).part = p)
  | .entry i _ => (getChan s i).part == p
  | .item i _ _ => (getChan s i).part == p
  | .post i _ => (getChan s i).part == p
  | .mbox m _ => decide (1 ≤ m ∧ (getMb s m).owner.toNat = p)
  | .event q => q == p
  | _ => false

/-- Objects of a partition are destroyed; generation counters stay (09 R301). -/
def dropObjects (s0 : State) (p : Nat) : State :=
  let s := dropUsers s0 (partUser s0 p)
  { s with
    regions := tmap {} (fun _ r => if r.part = p then { gen := r.gen } else r) s.regions
    images := tmap {} (fun _ r => if r.part = p then { gen := r.gen } else r) s.images
    chans := tmap {} (fun _ r => if r.part = p then { gen := r.gen } else r) s.chans
    gsets := tmap {} (fun _ r => if r.part = p then { gen := r.gen } else r) s.gsets
    tables := tmap {} (fun _ r => if r.part = p then {} else r) s.tables
    tephra := s.tephra.filter fun e => (getTable s e.1.1).part ≠ p
    sems := tmap {} (fun _ v => if v.part = p ∧ v.bind ≠ 0 then {} else v) s.sems
    items := s.items.filter fun i => i.part ≠ p
    posts := s.posts.filter fun o => (getChan s o.ch).part ≠ p
    exports := s.exports.filter fun e => (getSlot s e.slot).part ≠ p
    light := { s.light with asked := s.light.asked.filter fun a => match a.user with
      | .exp v => decide ((getSlot s v).part ≠ p)
      | _ => true }
    arrivals := s.arrivals.filter fun a => a.part ≠ p }

/-- Its streams are FREE with GEN + 1, and its quadrants are wiped (01 Table 01.5). -/
def dropStreams (s : State) (p : Nat) : State :=
  let qs := calsOf s p
  { s with
    slots := tmap {} (fun i v =>
      if v.st ≠ .free ∧ v.part = p then
        { gen := BitVec.ofNat 20 (nextGen 20 v.gen.toNat), retired := v.retired }
      else if qs.contains (i / 1024) then { v with held := false } else v) s.slots
    sinter := qs.foldl (fun m q => clearRange m (q * 1024 * Config.slotBytes) (1024 * Config.slotBytes)) s.sinter }

/-- Partition reset (Table 14.6): the mailboxes in `keep` hold the RESET that caused it. -/
def partReset (s : State) (p : Nat) (keep : List Nat) : State :=
  let cs := calsOf s p
  let s0 := dropXfers (cs.foldl engReset s) fun t => cs.contains (ctxCal t.ctx)
  let s1 := cs.foldl dropLooks s0
  let s2 := cs.foldl (fun s c => updCal s c fun k => { k with spad := [], grad := [] }) s1
  let s3 := cs.foldl (fun s c => (calCtxs c).foldl (fun s x => setCtx s x {}) s) s2
  let s4 := dropStreams (dropObjects s3 p) p
  let s5 := updPart s4 p fun q =>
    { q with ring := false, ringReg := 0, ringOfs := 0, ringLog := 0, eqProd := 0, eqCons := 0, wrote := 0,
             bins := [], spare := none, sqPtr := 0 }
  let mine := (List.range 16).filter fun m => decide (1 ≤ m) && decide ((getMb s5 m).owner.toNat = p) && !keep.contains m
  { mine.foldl (fun s m => setMb s m { owner := (getMb s m).owner }) s5 with
    mbOrder := s5.mbOrder.filter fun m => !mine.contains m }

/-! ### Resets of the whole block -/

/-- The session number drawn at a reset (13 R407). -/
def newSession (s : State) (powerOn : Bool) : BitVec 16 :=
  let r := Config.random16 s.draws
  let n := if powerOn then r else s.light.session + 1 + (r &&& 0x7FFF)
  if n = 0 then 1 else n

/-- What every reset of the phases keeps beside the inputs: FATAL_STATUS and the session number (15 Table 15.4). The
life-cycle record and the dump area are the caller's; the destination that DUMP_SET gave is wiped. -/
def wiped (s : State) (powerOn : Bool) : State :=
  { pending := s.pending, cp := { fatal := if powerOn then 0 else s.cp.fatal }, clk := s.clk, straps := s.straps,
    mbs := [(0, { owner := 0xF })], host := { up := s.host.up, retrain := s.host.retrain },
    light := { session := newSession s powerOn, oeReady := s.light.oeReady, oeFaultN := s.light.oeFaultN },
    imem := s.imem, hmem := s.hmem,
    dump := { mem := s.dump.mem, held := s.dump.held }, ladder := [],
    life := { s.life with phase := .lifeCycle, pstate := .active, pwrSafe := false, nonce := 0, nonceFor := 0,
                          lcReq := 0, lcReqValid := false, lcAcked := false, wipe := none, wipeOff := false,
                          waking := false, ir := 0xFF, dr := 0, scan := false },
    pwrcyc := s.pwrcyc, nid := s.nid, draws := s.draws + 1 }

/-- Default level of a life-cycle state (15 Table 15.6). -/
def defaultLevel (lc : BitVec 3) : Level :=
  if lc = 1 then .opened else if lc = 2 then .observe else .closed

/-- A code that Table 15.6 lists; any other acts as END (15 R439). -/
def lcKnown (c : BitVec 3) : Bool := c == 1 || c == 2 || c == 3 || c == 4

/-- END: held in OFF, level CLOSED (15 R440 phase 4, R454). -/
def holdEnd (s : State) : State :=
  { s with cp := { s.cp with fwState := .stopped },
           life := { s.life with lc := 7, phase := .stopped, level := .closed, pstate := .off, pwrSafe := true } }

/-- Phase 3: the life-cycle state is sampled, the level is set, and the fetch begins, when CRP_LC_VALID is 1
(15 R440). -/
def samplePhase (s : State) : State :=
  if s.life.phase ≠ .lifeCycle ∨ s.life.lcValid = false then s
  else if lcKnown s.life.lcIn = false then holdEnd s
  else
    { s with cp := { s.cp with fwState := .boot },
             life := { s.life with lc := s.life.lcIn, phase := .boot, levelDefault := false,
                                   level := if s.life.levelDefault then defaultLevel s.life.lcIn else s.life.level } }

/-- The wipe and phases of a ladder block reset or a warm reset (15 R441, Table 15.4): the dump area and the level are
kept. A block in END stays in OFF (15 R462). -/
def blockWipe (s : State) : State :=
  if s.life.lc = 7 ∧ s.life.phase = .stopped then holdEnd (wiped s false) else samplePhase (wiped s false)

/-- A secure wipe that comes up at a level, or at the default of the state sampled (15 R446). -/
def secureWipeTo (s : State) (lv : Option Level) : State :=
  let w := { wiped s false with dump := {} }
  samplePhase (match lv with
    | some l => { w with life := { w.life with level := l, levelDefault := false } }
    | none => { w with life := { w.life with levelDefault := true } })

/-- The wipe of POWER_STATE OFF: no restart, CRP_PSTATE reads OFF, and CRP_PWR_SAFE rises after it (15 R451). -/
def wipeToOff (s : State) : State :=
  let w := { wiped s false with dump := {} }
  { w with cp := { w.cp with fwState := .stopped },
           life := { w.life with phase := .stopped, level := .closed, pstate := .off } }

/-- The secure wipe that a command has brought about, if one is due. -/
def dueWipe (s : State) : Option State :=
  s.life.wipe.map fun lv => if s.life.wipeOff then wipeToOff s else secureWipeTo s lv

/-- A block reset from any source; a secure wipe that is due takes over (15 R463). -/
def blockReset (s : State) : State := (dueWipe s).getD (blockWipe s)

end Sys2Proof.Machine
end

