-- ==== Sys2Proof/Machine/Eci.lean ====
section
/-! DEFINITION. Commands of the Evoaz Command Interface: how the firmware takes one, its common checks, and the block
and partition commands (09_command_interface.md R298 to R304, Table 09.12; 15_lifecycle_power_debug.md). -/

namespace Sys2Proof.Machine

/-! ### Common checks (R302) -/

/-- Opcodes of Table 09.12. -/
def listedOp (op : Nat) : Bool :=
  [0x01, 0x02, 0x03, 0x04, 0x05, 0x06, 0x07, 0x08, 0x10, 0x11, 0x12, 0x20, 0x21, 0x30, 0x31, 0x32, 0x33, 0x34, 0x35,
   0x36, 0x40, 0x41, 0x42, 0x50, 0x51, 0x52, 0x53, 0x54, 0x60, 0x61, 0x62, 0x63, 0x64, 0x65, 0x70, 0x71, 0x72, 0x80,
   0x81, 0x82, 0x90, 0x91, 0x92].contains op

/-- Bytes from 16 on that DESC_WRITE uses, by SRC and COUNT (R304). -/
def descUsed (c : Mem) : List (Nat × Nat × Nat) :=
  let n := load c 12 2
  let k := load c 14 1
  if k = 0 ∧ 1 ≤ n ∧ n ≤ 3 then [(16, 15 + 64 * n, 255)]
  else if k = 1 ∧ 1 ≤ n ∧ n ≤ 1023 then [(16, 17, 255), (20, 23, 255)]
  else [(16, 255, 255)]

/-- Parameter bytes of a command (Table 09.12): first, last, and the bits used in each. -/
def usedBytes (c : Mem) (op : Nat) : List (Nat × Nat × Nat) :=
  let b := fun (x y : Nat) => (x, y, 255)
  match op with
  | 0x02 => [b 8 8, b 16 23]
  | 0x03 => [b 8 8]
  | 0x04 => [b 8 9, b 12 15]
  | 0x05 => [b 8 8, b 16 111]
  | 0x06 => [b 8 8]
  | 0x07 => [b 8 8, b 16 111]
  | 0x10 => [(8, 8, 7), b 9 9, b 12 19]
  | 0x11 => [b 8 9, b 12 16]
  | 0x12 => [b 8 9]
  | 0x20 => [b 8 8, (9, 9, 1), b 16 31]
  | 0x21 => [b 8 9]
  | 0x30 => [b 8 9]
  | 0x31 => [b 8 8]
  | 0x32 => [b 8 8, b 10 14] ++ descUsed c
  | 0x33 => [b 8 8, (9, 9, 1)]
  | 0x34 => [b 8 8, (13, 13, 7)]
  | 0x35 => [b 8 8, b 12 15]
  | 0x36 => [b 8 8]
  | 0x40 => [b 8 9, b 12 19]
  | 0x41 => [b 8 9]
  | 0x42 => [b 8 15]
  | 0x50 => [b 8 9, b 12 13, b 16 20, b 22 28, b 32 39]
  | 0x51 => [b 8 9, b 12 41, b 44 52]
  | 0x52 => [b 8 9, (10, 10, 1)]
  | 0x53 => [b 8 9]
  | 0x54 => [b 8 9, b 12 13, b 16 20, b 22 28]
  | 0x60 => [b 8 10]
  | 0x61 => [b 8 11, (12, 12, 1)]
  | 0x62 => [b 8 11]
  | 0x63 => [b 8 11]
  | 0x64 => [b 8 11, (12, 12, 1), b 13 20]
  | 0x65 => [b 8 8, b 10 18]
  | 0x70 => [b 8 9, b 12 20, b 24 31]
  | 0x71 => [b 8 8, b 17 20, b 24 31]
  | 0x72 => [b 8 8]
  | 0x80 => [b 8 12, b 14 17, b 20 21]
  | 0x81 => [b 8 10]
  | 0x82 => [b 8 10]
  | 0x90 => [b 8 9, b 12 15]
  | 0x91 => [b 8 8]
  | 0x92 => [b 8 8]
  | _ => []

/-- Bits that byte a of a command may set. -/
def usedMask (u : List (Nat × Nat × Nat)) (a : Nat) : Nat :=
  match u.find? fun e => decide (e.1 ≤ a) && decide (a ≤ e.2.1) with
  | some e => e.2.2
  | none => 0

/-- First byte of a command with a reserved bit set; byte 4 is PART on mailbox 0 and reserved elsewhere
(Table 09.11). -/
def firstReserved (c : Mem) (mgmt : Bool) (op : Nat) : Option Nat :=
  let u := (0, 3, 255) :: (if mgmt then [(4, 4, 255)] else []) ++ usedBytes c op
  (c.find? fun e => Nat.land e.2.toNat (255 - usedMask u e.1) ≠ 0).map (·.1)

/-- Partition of a command: PART on mailbox 0, the owner of any other. -/
def partOf (s : State) (m : Nat) : Nat := if m = 0 then par s m 4 1 else (getMb s m).owner.toNat

/-- Step 2 of R302: the mailbox, and what the debug level or the life-cycle state does not permit, which is POWER_STATE
RETAIN at OPEN, DEBUG_CLOSE at CLOSED and DEBUG_UNLOCK in END (15 R449, R458, R462). -/
def permitted (s : State) (m op : Nat) : Bool :=
  !(decide (m ≠ 0) && (decide (op ≤ 0x0F) || decide (3 < (getMb s m).owner.toNat)
      || (decide (op = 0x12) && decide (par s m 8 1 = 3))))
    && !(decide (op = 0x03) && decide (par s m 8 1 = 2) && decide (s.life.level = .opened))
    && !(decide (op = 0x08) && decide (s.life.level = .closed)) && !(decide (op = 0x07) && decide (s.life.lc = 7))

/-- Steps 2 and 3 of R302, and the range of PART: status and FIELD of the first failure. -/
def cmdCheck (s : State) (m op : Nat) : Option (Nat × Nat) :=
  if permitted s m op = false then some (stNotPermitted, 0)
  else
    match firstReserved (getMb s m).cmd (m == 0) op with
    | some a => some (stReservedField, a)
    | none => if 0x0F < op ∧ (getPart s (partOf s m)).exist = false then some (stBadField, 4) else none

/-! ### Taking a command -/

/-- What a command answers: a response with results, one with a status of its own, none until a later event, or none
at all, or not yet. -/
inductive Ans where
  | done (s : State) (results : List (Nat × Nat × Nat))
  | status (s : State) (st : Nat) (results : List (Nat × Nat × Nat))
  | wait (s : State) (w : Wait)
  | silent (s : State)
  deriving DecidableEq, Repr

/-- The state after an answer. -/
def answered (m : Nat) : Ans → State
  | .done s r => respond s m stOk 0 r
  | .status s st r => respond s m st 0 r
  | .wait s w => waitOn s m w
  | .silent s => s

/-- The firmware runs and takes mailbox m next (R298). -/
def fwTakes (s : State) (m : Nat) : Bool :=
  decide (s.life.phase = .running) && decide (s.cp.fwState = .running) && s.mbOrder.head? == some m
    && decide ((getMb s m).st = .busy)

/-- A command's status and FIELD when it is refused. -/
abbrev Refused := Nat × Nat

/-- The firmware takes mailbox m, whose command has opcode op (R302). An opcode that is not listed is refused whichever
row asks; a listed one acts at its own row. A refused command changes nothing. -/
def eci (op : Nat) (m : Fin 16) (f : State → Nat → Nat → Except Refused Ans) (s : State) :
    Host.Outcome State Fault Refusal :=
  if fwTakes s m.val = false then .next s
  else if listedOp (par s m.val 0 2) = false then .next (respond s m.val stBadCommand 0 [])
  else if par s m.val 0 2 ≠ op then .next s
  else
    match cmdCheck s m.val op with
    | some e => .next (respond s m.val e.1 e.2 [])
    | none =>
      match f s m.val (partOf s m.val) with
      | .error e => .next (respond s m.val e.1 e.2 [])
      | .ok a => .next (answered m.val a)

/-- Refuse with a status and FIELD unless a condition holds. -/
def need (c : Prop) [Decidable c] (st field : Nat) : Except Refused Unit := if c then .ok () else .error (st, field)

/-- A handle of a live region of the partition that no link reset made invalid (R302, 5). -/
def needRegion (s : State) (p : Nat) (h : BitVec 16) : Except Refused Unit := do
  need (regLive s p h = true) stStaleHandle 0
  need ((getRegion s (regIdx h)).invalid = false) stHostLost 0

/-- A command that reads a host region while the link is down fails (09 Table 09.13, HOST_LOST). -/
def needLink (s : State) (h : BitVec 16) : Except Refused Unit :=
  need ((getRegion s (regIdx h)).host = false ∨ hostUp s = true) stHostLost 0

/-- The bytes [ofs, ofs + n) of a region, which the command of mailbox m reads in its place k: the mailbox stays the
next one until they are here (09 R298; log entry 161). -/
def regGot (s : State) (m k : Nat) (h : BitVec 16) (ofs n : Nat) : Got :=
  let r := getRegion s (regIdx h)
  let b := getMb s m
  let s0 := if b.wait = .reads then s else setMb (dropUsers s (mboxUser m)) m { b with wait := .reads }
  fwRead s0 (.mbox m k) r.host [(r.base + ofs, n)]

/-- What a command does with bytes that it reads. A port fault refuses it, with HOST_LOST while the link is down and
with FAULTED otherwise. -/
def regRead (s : State) (m k : Nat) (h : BitVec 16) (ofs n : Nat) (f : Mem → Except Refused Ans) : Except Refused Ans :=
  match regGot s m k h ofs n with
  | .wait t => .ok (.silent t)
  | .bad => .error (if (getRegion s (regIdx h)).host = true ∧ hostUp s = false then stHostLost else stFaulted, 0)
  | .here x => f x

/-- A region handle parameter. -/
def parReg (s : State) (m a : Nat) : BitVec 16 := BitVec.ofNat 16 (par s m a 2)

/-! ### Block commands -/

/-- CAL_MAP (Table 09.12). -/
def calMap (s : State) : Nat := ((List.range 4).map fun c => (getCal s c).part * 4 ^ c).sum

/-- MB_MAP. -/
def mbMap (s : State) : Nat := ((List.range 16).map fun m => if m = 0 then 0 else (getMb s m).owner.toNat * 16 ^ m).sum

/-- FW_INFO. -/
def execFwInfo (m : Mb) : State → Host.Outcome State Fault Refusal :=
  eci 0x01 m fun s _ _ => .ok (.done s
    [(8, 4, Config.build.toNat), (12, 1, 2), (13, 1, 4), (14, 1, 1), (15, 1, 3), (16, 1, calMap s), (20, 8, mbMap s)])

/-- Partition that owns any object (R300, Table 09.10). -/
def ownsObject (s : State) (p : Nat) : Bool :=
  s.regions.any (fun e => e.2.live && e.2.part == p) || s.images.any (fun e => e.2.live && e.2.part == p)
    || s.chans.any (fun e => e.2.live && e.2.part == p)
    || s.slots.any (fun e => decide (e.2.st ≠ StreamState.free) && e.2.part == p)
    || s.tables.any (fun e => e.2.live && e.2.part == p) || s.gsets.any (fun e => e.2.live && e.2.part == p)
    || s.sems.any (fun e => decide (e.2.bind ≠ 0) && e.2.part == p)
    || s.ctxs.any (fun e => e.2.exist && (getCal s (ctxCal e.1)).part == p)

/-- Partition c of a map whose fields are w bits wide. -/
def mapAt (map w c : Nat) : Nat := map / 2 ^ (w * c) % 2 ^ w

/-- Partition p has other Calderas or mailboxes in the new layout. -/
def changed (s : State) (cm mm p : Nat) : Bool :=
  (List.range 4).any (fun c => ((getCal s c).part == p) != (mapAt cm 2 c == p)) ||
    (List.range 16).any fun m => decide (m ≠ 0) && (((getMb s m).owner.toNat == p) != (mapAt mm 4 m == p))

/-- The layout of PARTITION_SET (R300, R478). -/
def setLayout (s : State) (cm mm : Nat) : State :=
  let n := ((List.range 4).map (mapAt cm 2)).foldl max 0 + 1
  let s1 := (List.range 4).foldl (fun s' p =>
    if changed s cm mm p then
      updPart s' p fun q => { ({} : Part) with exist := decide (p < n), queue := if p < n then q.queue else [],
                                               lost := if p < n then q.lost else 0 }
    else s') s
  let s2 := (List.range 4).foldl (fun s c => updCal s c fun k => { k with part := mapAt cm 2 c }) s1
  (List.range 16).foldl (fun s m =>
    if m = 0 then s else updMb s m fun b => { b with owner := BitVec.ofNat 4 (mapAt mm 4 m) }) s2

/-- PARTITION_SET (R300). -/
def execPartitionSet (m : Mb) : State → Host.Outcome State Fault Refusal :=
  eci 0x02 m fun s m _ => do
    let cm := par s m 8 1
    let mm := par s m 16 8
    let n := ((List.range 4).map (mapAt cm 2)).foldl max 0 + 1
    need (((List.range n).all fun p => (List.range 4).any fun c => mapAt cm 2 c == p) = true) stBadField 8
    need (mm % 16 = 0 ∧ ((List.range 16).all fun m => m == 0 || mapAt mm 4 m == 14 || decide (mapAt mm 4 m < n)) = true
      ∧ ((List.range n).all fun p => (List.range 16).any fun m => m != 0 && mapAt mm 4 m == p) = true) stBadField 16
    need (((List.range 4).all fun p => !changed s cm mm p || !ownsObject s p) = true) stObjectBusy 0
    return .done (setLayout s cm mm) []

/-- RETAIN is refused while a stream or chunk is busy (01 R53). -/
def retainBusy (s : State) : Bool :=
  s.slots.any (fun e => decide (e.2.st = StreamState.queued) || decide (e.2.st = StreamState.pinned)
    || decide (e.2.st = StreamState.migrating) || decide (e.2.st = StreamState.exported)) || s.items.any (!·.task)

/-- The CRC-32C over a slot's 32 KiB and its slot-table entry (15 R449). -/
def slotCrc (s : State) (i : Nat) : Word :=
  BitVec.ofNat 32 (crc32c (loadBytes s.sinter (i * Config.slotBytes) Config.slotBytes ++ slotEntry (getSlot s i)))

/-- Entry to RETAIN (15 R449): CRP_PSTATE reads RETAIN, and CRP_PWR_SAFE rises after it. Lower steps of the ladder that
run are not finished (15 R463). -/
def enterRetain (s : State) : State :=
  let s1 := (List.range 4).foldl evictCal s
  let s2 := { s1 with
    slots := tmap {} (fun i (v : Slot) => if v.st = StreamState.free then v else { v with crc := slotCrc s1 i }) s1.slots }
  { s2 with dump := { s2.dump with held := false, mem := [] }, cp := { s2.cp with fwState := .stopped },
            life := { s2.life with level := .closed, pstate := .retain, phase := .stopped },
            ladder := s2.ladder.filter fun q => decide (4 ≤ q.level) }

/-- Abort every item in a window with ABORTED (15 R451). -/
def abortAll (s : State) : State := (s.items.filter inWindow).foldl abortItem s

/-- POWER_STATE (15 R448 to R452). -/
def execPowerState (m : Mb) : State → Host.Outcome State Fault Refusal :=
  eci 0x03 m fun s m _ => do
    let t := par s m 8 1
    need (t ≤ 3) stBadField 8
    match t with
    | 0 => return .done { s with life := { s.life with pstate := .active } } []
    | 1 => if s.life.pstate = .idle then return .done s [] else return .wait s .idle
    | 2 =>
      need (retainBusy s = false) stStreamBusy 0
      return .done (enterRetain s) []
    | _ =>
      let s1 := abortAll s
      return .done { s1 with life := { s1.life with wipe := some (some .closed), wipeOff := true } } []

/-- POWER_IDLE_DONE (15 R448): POWER_STATE IDLE responds once every window is empty. -/
def execPowerIdleDone (s : State) : Host.Outcome State Fault Refusal :=
  if s.items.any inWindow then .next s
  else if (List.range 16).any fun m => decide ((getMb s m).st = .busy ∧ (getMb s m).wait = .idle) then
    .next (answerWait { s with life := { s.life with pstate := .idle } } .idle stOk [])
  else .next s

/-- DUMP_SET (R359, 14 R436). -/
def execDumpSet (m : Mb) : State → Host.Outcome State Fault Refusal :=
  eci 0x04 m fun s m p => do
    let h := parReg s m 8
    let o := par s m 12 4
    need (o % 4096 = 0) stBadField 12
    needRegion s p h
    need ((getRegion s (regIdx h)).ro = false) stBadField 8
    need (regFits s h o 524288 = true) stRegionRange 0
    return .done { s with dump := { s.dump with set := true, reg := h, ofs := o } } []

/-- The first 32 B of a signed message (15 Table 15.7): TAG, life-cycle code, a byte, IDENT and the device number. -/
def msgHead (s : State) (tag b : Nat) : List Byte :=
  leBytes 4 tag ++ leBytes 1 s.life.lc.toNat ++ leBytes 1 b ++ leBytes 2 0 ++ leBytes 4 identLo ++ leBytes 4 identHi
    ++ leBytes 16 s.straps.deviceId.toNat

/-- SIG of a command, bytes 16 to 111, verifies over a message with the firmware's key (15 R455). -/
def sigOk (s : State) (m : Nat) (msg : List Byte) : Bool :=
  ecdsaOk s.cp.pubkey msg (loadBytes (getMb s m).cmd 16 96)

/-- Life-cycle changes of 15 R454. -/
def lcAllowed (cur : BitVec 3) (t : Nat) : Bool :=
  decide (t = 7) || (cur == 1 && decide (t = 2)) || (cur == 2 && decide (t = 3)) || (cur == 3 && decide (t = 4))

/-- LC_ADVANCE (15 R454). -/
def execLcAdvance (m : Mb) : State → Host.Outcome State Fault Refusal :=
  eci 0x05 m fun s m _ => do
    let t := par s m 8 1
    need (lcAllowed s.life.lc t = true) stBadField 8
    need (sigOk s m (msgHead s 0x4C434144 t ++ leBytes 64 0) = true) stAuthFailed 0
    return .done { s with life := { s.life with lcReq := BitVec.ofNat 3 t, lcReqValid := true, lcAcked := false } } []

/-- DEBUG_CHALLENGE (15 R457). -/
def execDebugChallenge (m : Mb) : State → Host.Outcome State Fault Refusal :=
  eci 0x06 m fun s m _ => do
    let l := par s m 8 1
    need (1 ≤ l ∧ l ≤ 2) stBadField 8
    let n := Config.nonce s.draws
    return .done { s with draws := s.draws + 1, life := { s.life with nonce := n, nonceFor := l } } [(8, 48, n.toNat)]

/-- Number of a debug level. -/
def levelNo : Level → Nat
  | .closed => 0
  | .observe => 1
  | .opened => 2

/-- A raise to a level needs a signature (15 Table 15.6). -/
def needsSig (lc : BitVec 3) (l : Nat) : Bool := lc != 1 && (lc != 2 || decide (l = 2))

/-- The nonce of a level is used up (15 R457). -/
def useNonce (s : State) (l : Nat) : State :=
  if s.life.nonceFor = l then { s with life := { s.life with nonceFor := 0 } } else s

/-- DEBUG_UNLOCK (15 R458). -/
def execDebugUnlock (m : Mb) : State → Host.Outcome State Fault Refusal :=
  eci 0x07 m fun s m _ => do
    let l := par s m 8 1
    need (1 ≤ l ∧ l ≤ 2 ∧ levelNo s.life.level < l) stBadField 8
    let s1 := useNonce s l
    let msg := msgHead s 0x4442554C l ++ leBytes 48 s.life.nonce.toNat ++ leBytes 16 0
    if needsSig s.life.lc l = true ∧ (s.life.nonceFor ≠ l ∨ sigOk s m msg = false) then
      return .status s1 stAuthFailed []
    else if l = 1 then return .done { s1 with life := { s1.life with level := .observe } } []
    else if s.life.lc = 1 then return .done { s1 with life := { s1.life with level := .opened, pstate := .active } } []
    else return .done { s1 with life := { s1.life with wipe := some (some .opened) } } []

/-- DEBUG_CLOSE (15 R459, R462). -/
def execDebugClose (m : Mb) : State → Host.Outcome State Fault Refusal :=
  eci 0x08 m fun s _ _ => do
    if s.life.level = .observe then return .done { s with life := { s.life with level := .closed } } []
    else if s.life.lc = 1 then return .done { s with life := { s.life with level := .closed, pstate := .active } } []
    else return .done { s with life := { s.life with wipe := some (some .closed) } } []

/-! ### Partition commands -/

/-- PARTITION_PARAM (R478). -/
def execPartitionParam (m : Mb) : State → Host.Outcome State Fault Refusal :=
  eci 0x10 m fun s m p => do
    let b := par s m 8 1
    let q := getPart s p
    need (bit b 0 = false ∨ par s m 9 1 ≤ 1) stBadField 9
    let full := if bit b 0 then decide (par s m 9 1 = 1) else q.full
    need (full = q.full ∨ s.chans.any (fun e => e.2.live && e.2.part == p && e.2.adm.isSome) = false) stObjectBusy 0
    let q1 := { q with full := full, exportTo := if bit b 1 then par s m 12 4 else q.exportTo,
                       tableTo := if bit b 2 then par s m 16 4 else q.tableTo }
    return .done (setPart s p q1) [(9, 1, b2n q1.full), (12, 4, q1.exportTo), (16, 4, q1.tableTo)]

/-- EVENT_RING (R316, R359). -/
def execEventRing (m : Mb) : State → Host.Outcome State Fault Refusal :=
  eci 0x11 m fun s m p => do
    let h := parReg s m 8
    let o := par s m 12 4
    let l := par s m 16 1
    need (o % 32 = 0) stBadField 12
    need (4 ≤ l ∧ l ≤ 12) stBadField 16
    needRegion s p h
    need ((getRegion s (regIdx h)).ro = false) stBadField 8
    need (regFits s h o (32 * 2 ^ l) = true) stRegionRange 0
    return .done (updPart (dropUsers s (eventUser p)) p fun q =>
      { q with ring := true, ringReg := h, ringOfs := o, ringLog := l, eqProd := 0, eqCons := 0,
               wrote := 0 }) []

/-- RESET (R304, 14 R432): it triggers a step of the ladder. -/
def execReset (m : Mb) : State → Host.Outcome State Fault Refusal :=
  eci 0x12 m fun s m p => do
    let l := par s m 8 1
    let t := par s m 9 1
    need (l ≤ 3) stBadField 8
    match l with
    | 0 =>
      need (t ≤ 63) stBadField 9
      need ((getCtx s t).exist = true ∧ (getCal s (ctxCal t)).part = p) stStaleHandle 0
      return .wait (startStep s 1 t 1 (some t) [m]) .resetStep
    | 1 =>
      need (t ≤ 3 ∧ (getCal s t).part = p) stBadField 9
      return .wait (startStep s 2 t 1 none [m]) .resetStep
    | 2 => return .wait (startStep s 3 p 1 none [m]) .resetStep
    | _ => return .silent (startStep s 4 0 1 none [])

end Sys2Proof.Machine
end

