-- ==== Sys2Proof/Machine/Objects.lean ====
section
/-! DEFINITION. Region, context and image commands (09 Table 09.12, R301 to R306; 12 R358, R359, R382; 07 R239, R240,
R247 to R257). -/

namespace Sys2Proof.Machine

/-! ### Regions -/

/-- First address past an address space (12 Tables 12.1 and 12.4). -/
def spaceEnd (host : Bool) : Nat := if host then 2 ^ 64 else 2 ^ 48

/-- REGION_REGISTER (R358). -/
def execRegionRegister (m : Mb) : State → Host.Outcome State Fault Refusal :=
  eci 0x20 m fun s m p => do
    let sp := par s m 8 1
    let base := par s m 16 8
    let size := par s m 24 8
    need (sp = 2 ∨ sp = 3) stBadField 8
    need (base % 4096 = 0) stBadField 16
    need (size % 4096 = 0 ∧ 0 < size ∧ base + size ≤ spaceEnd (sp == 3)) stBadField 24
    match freeIdx 1024 fun k => (getRegion s k).live with
    | none => .error (stNoResource, 0)
    | some k =>
      let g := nextGen 6 (getRegion s k).gen
      return .done (setRegion s k { gen := g, live := true, part := p, host := sp == 3, ro := par s m 9 1 == 1, base, size })
        [(8, 2, k + 1024 * g)]

/-- A table location lies in a region. -/
def locIn (h : BitVec 16) (l : Loc) : Bool := l.peer.isNone && l.reg == h

/-- An image, table generation, ring or dump destination uses the region (R303). -/
def regionUsed (s : State) (h : BitVec 16) : Bool :=
  s.images.any (fun e => e.2.live && e.2.reg == h)
    || s.tables.any (fun e => e.2.live && (locIn h e.2.loc || e.2.old.any (locIn h) || e.2.pend.any fun q => locIn h q.1))
    || s.chans.any (fun e => e.2.live && (e.2.sqReg == h || e.2.cqReg == h))
    || s.parts.any (fun e => e.2.exist && e.2.ring && e.2.ringReg == h)
    || (s.dump.set && s.dump.reg == h)

/-- REGION_RELEASE; an invalid region accepts it (12 R382). -/
def execRegionRelease (m : Mb) : State → Host.Outcome State Fault Refusal :=
  eci 0x21 m fun s m p => do
    let h := parReg s m 8
    need (regLive s p h = true) stStaleHandle 0
    need ((getRegion s (regIdx h)).invalid = true ∨ regionUsed s h = false) stObjectBusy 0
    return .done (setRegion s (regIdx h) { gen := (getRegion s (regIdx h)).gen }) []

/-! ### Contexts -/

/-- The command's context handle names a live context of the partition (R301, Table 09.10). -/
def needCtx (s : State) (p x : Nat) : Except Refused Unit := do
  need (x ≤ 63) stBadField 8
  need ((getCtx s x).exist = true ∧ (getCal s (ctxCal x)).part = p) stStaleHandle 0

/-- Bytes of the descriptor table of context x. -/
def wipeTable (s : State) (x : Nat) : State :=
  updCal s (ctxCal x) fun k => { k with spad := clearRange k.spad (descAddr x 0) 65536 }

/-- A context that has just been created: every value of Table 07.14 at reset, the stall counters as they stand
(08 R281). -/
def newCtx (s : State) (x : Nat) : State :=
  wipeTable (setCtx s x { exist := true, stalls := (getCtx s x).stalls }) x

/-- CONTEXT_CREATE. -/
def execContextCreate (m : Mb) : State → Host.Outcome State Fault Refusal :=
  eci 0x30 m fun s m p => do
    let c := par s m 8 1
    let l := par s m 9 1
    need (c ≤ 3 ∧ (getCal s c).part = p) stBadField 8
    need (l ≤ 15 ∨ l = 0xFF) stBadField 9
    match (if l = 0xFF then freeIdx 16 fun k => (getCtx s (16 * c + k)).exist
           else if (getCtx s (16 * c + l)).exist then none else some l) with
    | none => .error (stNoResource, 0)
    | some k => return .done (newCtx s (16 * c + k)) [(8, 1, 16 * c + k)]

/-- CONTEXT_DESTROY. -/
def execContextDestroy (m : Mb) : State → Host.Outcome State Fault Refusal :=
  eci 0x31 m fun s m p => do
    let x := par s m 8 1
    needCtx s p x
    need ((winItemOf s x).isSome = false) stObjectBusy 0
    return .done (wipeTable (setCtx s x { stalls := (getCtx s x).stalls }) x) []

/-- A write into a context: at once, or when its work item leaves the window (07 R239, R305). -/
def ctxWrite (s : State) (x : Nat) (w : DefWrite) : State :=
  let s1 := updCtx s x fun c => { c with defer := c.defer ++ [w] }
  if (winItemOf s x).isSome then s1 else applyDefer s1 x

/-- DESC_WRITE (R304, R305). -/
def execDescWrite (m : Mb) : State → Host.Outcome State Fault Refusal :=
  eci 0x32 m fun s m p => do
    let x := par s m 8 1
    let f := par s m 10 2
    let n := par s m 12 2
    let k := par s m 14 1
    need (x ≤ 63) stBadField 8
    need (1 ≤ f ∧ f ≤ 1023) stBadField 10
    need (1 < k ∨ (1 ≤ n ∧ n ≤ (if k = 0 then 3 else 1023) ∧ f + n ≤ 1024)) stBadField 12
    need (k ≤ 1) stBadField 14
    need (k = 0 ∨ par s m 20 4 % 64 = 0) stBadField 20
    needCtx s p x
    if k = 0 then return .done (ctxWrite s x (.desc f (loadBytes (getMb s m).cmd 16 (64 * n)))) []
    else
      let h := parReg s m 16
      needRegion s p h
      need (regFits s h (par s m 20 4) (64 * n) = true) stRegionRange 0
      needLink s h
      let a := (getRegion s (regIdx h)).base + par s m 20 4
      regRead s m 0 h (par s m 20 4) (64 * n) fun d =>
        .ok (.done (ctxWrite (dropUsers s (mboxUser m)) x (.desc f (loadBytes d a (64 * n)))) [])

/-- Halt slot as byte 7 of a completion record: 0 when no reason is recorded (Table 09.15). -/
def hslot (h : Halt) : Nat := if h.reason = 0 then 0 else h.slot

/-- STATE of CONTEXT_QUERY: 0 idle, 1 in a window, 2 halted. -/
def ctxState (s : State) (x : Nat) : Nat :=
  if (getCtx s x).halted then 2 else if (winItemOf s x).isSome then 1 else 0

/-- Results of CONTEXT_QUERY. -/
def ctxReport (s : State) (x : Nat) : List (Nat × Nat × Nat) :=
  let c := getCtx s x
  let h := c.last
  [(8, 1, ctxState s x), (9, 1, hslot h), (12, 4, c.astat.toNat), (16, 4, c.sr.toNat), (20, 1, h.ctx), (21, 1, h.reason),
   (22, 2, h.img.toNat), (24, 4, h.ofs), (28, 4, h.detail.toNat)] ++
    (List.range 17).map fun k => (32 + 6 * k, 6, (tget 0 k c.stalls).toNat)

/-- CONTEXT_QUERY (R305). -/
def execContextQuery (m : Mb) : State → Host.Outcome State Fault Refusal :=
  eci 0x33 m fun s m p => do
    let x := par s m 8 1
    needCtx s p x
    let s1 := if bit (par s m 9 1) 0 then updCtx s x fun c => { c with stalls := [] } else s
    return .done s1 (ctxReport s x)

/-- CONTEXT_SET (R305). -/
def execContextSet (m : Mb) : State → Host.Outcome State Fault Refusal :=
  eci 0x34 m fun s m p => do
    let x := par s m 8 1
    needCtx s p x
    return .done (ctxWrite s x (.astat (BitVec.ofNat 32 (par s m 12 4)))) []

/-- CONTEXT_SEED (06 R186, R305). -/
def execContextSeed (m : Mb) : State → Host.Outcome State Fault Refusal :=
  eci 0x35 m fun s m p => do
    let x := par s m 8 1
    needCtx s p x
    return .done (ctxWrite s x (.seed (BitVec.ofNat 32 (par s m 12 4)))) []

/-- Ask a context to halt at its next bundle boundary (07 R257); nothing after END, or without an item. -/
def askHalt (s : State) (x : Nat) : State :=
  match winItemOf s x with
  | some i => if i.ended = true ∨ (getCtx s x).halted = true then s else updCtx s x fun c => { c with haltReq := true }
  | none => s

/-- CONTEXT_HALT (07 R257). -/
def execContextHalt (m : Mb) : State → Host.Outcome State Fault Refusal :=
  eci 0x36 m fun s m p => do
    let x := par s m 8 1
    needCtx s p x
    return .done (askHalt s x) [(8, 1, b2n (winItemOf s x).isSome)]

/-- HALT_REQUEST (07 R257): the request takes effect at a bundle boundary of the executing item. -/
def execHaltRequest (x : Fin 64) (s : State) : Host.Outcome State Fault Refusal :=
  match itemOf s x.val with
  | none => .next s
  | some i =>
    let c := getCtx s x.val
    if c.haltReq = true ∧ c.bun = none ∧ i.ended = false ∧ mayIssue s x.val i = true then
      .next (haltIssue (setCtx s x.val { c with haltReq := false }) x.val c.pc 7 hHaltRequest 0)
    else .next s

/-! ### Images -/

/-- An image handle of the partition. -/
def needImage (s : State) (p : Nat) (h : BitVec 16) : Except Refused Unit :=
  need (imgLive s h = true ∧ (imgOf s h).part = p) stStaleHandle 0

/-- IMAGE_PUBLISH (07 R247). -/
def execImagePublish (m : Mb) : State → Host.Outcome State Fault Refusal :=
  eci 0x40 m fun s m p => do
    let h := parReg s m 8
    need (par s m 12 4 % 256 = 0) stBadField 12
    needRegion s p h
    need (regFits s h (par s m 12 4) (par s m 16 4) = true) stRegionRange 0
    needLink s h
    regRead s m 0 h (par s m 12 4) (par s m 16 4) fun d =>
      match publish (dropUsers s (mboxUser m)) p h (par s m 12 4) (par s m 16 4) d with
      | .error st => .error (st, 0)
      | .ok q => .ok (.done q.1 [(8, 2, q.2.toNat)])

/-- A channel names the image, or a work item of it is queued or in a window (R253, R303). -/
def imageUsed (s : State) (h : BitVec 16) : Bool :=
  s.chans.any (fun e => e.2.live && e.2.img == h) ||
    s.items.any fun i => (i.img :: i.imgs).contains h

/-- An image goes: its cached lines with it. -/
def dropImage (s : State) (h : BitVec 16) : State :=
  let s1 := setImage s (imgIdx h) { gen := (imgOf s h).gen }
  let s2 := { s1 with l2 := s1.l2.filter fun l => l.img != h }
  (List.range 4).foldl (fun s c =>
    let gone := (getCal s c).fetches.filter fun f => f.img == h
    gone.foldl (fun s f => dropFetch s c f.img f.line)
      (updCal s c fun k => { k with icache := k.icache.filter fun l => l.img != h })) s2

/-- IMAGE_DESTROY. -/
def execImageDestroy (m : Mb) : State → Host.Outcome State Fault Refusal :=
  eci 0x41 m fun s m p => do
    let h := parReg s m 8
    needImage s p h
    need (imageUsed s h = false) stObjectBusy 0
    return .done (dropImage s h) []

/-- Channels that name one image name another, and so do their work items that no attempt has started (R306, 07
R252). -/
def renameImage (s : State) (old new : BitVec 16) : State :=
  { s with
    chans := tmap {} (fun _ (c : Chan) => if c.live = true ∧ c.img = old then { c with img := new } else c) s.chans
    items := s.items.map fun i => if i.img = old ∧ i.place = .queued ∧ i.attempt = 0 then { i with img := new } else i }

/-- IMAGE_REPLACE (07 R251, R252, R306). -/
def execImageReplace (m : Mb) : State → Host.Outcome State Fault Refusal :=
  eci 0x42 m fun s m p => do
    let old := parReg s m 8
    let new := parReg s m 10
    needImage s p old
    needImage s p new
    need (compatible (imgOf s old) (imgOf s new) = true) stImageIncompatible 0
    return .wait (renameImage s old new) (.replace old new)

/-- IMAGE_REPLACE_DONE (07 R254): every context has left the old image, or the timeout expires; the response lists
those still on it. -/
def execImageReplaceDone (m : Mb) (s : State) : Host.Outcome State Fault Refusal :=
  match (getMb s m.val).st, (getMb s m.val).wait with
  | .busy, .replace old _ => .next (respond s m.val stOk 0 [(8, 8, stillOn s old)])
  | _, _ => .next s

end Sys2Proof.Machine
end

