-- ==== Sys2Proof/Machine/Admit.lean ====
section
/-! DEFINITION. Admission: the charge of a channel, the bins of a partition, the test, the feasible figures, and
CHANNEL_ADMIT (10_time_and_admission.md R325, R330 to R337). -/

namespace Sys2Proof.Machine

/-! ### The charge (R332) -/

/-- ceil(a / b). -/
def ceilDiv (a b : Nat) : Nat := (a + b - 1) / b

/-- Charged cost C of a channel with S steps and R rows (R332). -/
def charge (full : Bool) (c : Cost) (s r : Nat) : Nat :=
  let a := c.fixed + c.perStep * s + c.perBlock * ceilDiv s c.qb + c.interf + c.fold
  let e := if full then ceilDiv (5 * (a + 2 * ceilDiv (r * c.stateB) 4096)) 12
           else ceilDiv (5 * a) 12 + ceilDiv (r * c.stateB) 1024
  2 * e + 1000 + 4000

/-- What the test of R335 uses of a channel: multiplicity, cost, period, and deadline counted from the latest
release. -/
structure Fig where
  k : Nat
  c : Nat
  t : Nat
  d : Nat
  deriving DecidableEq, Repr

/-- The figures of an admitted channel. -/
def figOf (a : Adm) : Fig := ⟨if a.late = 1 then 2 else 1, a.cost, a.period, a.deadline - a.arrival⟩

/-! ### The test (R335) -/

/-- Utilisation of channels. -/
def util (fs : List Fig) : ℚ := (fs.map fun f => ((f.k * f.c : Nat) : ℚ) / f.t).sum

/-- Demand of channels up to l. -/
def demand (fs : List Fig) (l : Nat) : Nat :=
  (fs.map fun f => if l < f.d then 0 else f.k * f.c * ((l - f.d) / f.t + 1)).sum

/-- Blocking at l: twice the largest cost of a channel with a later deadline, as the list holds every cost twice. -/
def blocking (fs : List Fig) (l : Nat) : Nat := 2 * ((fs.filter fun f => l < f.d).map (·.c)).foldl max 0

/-- The last test point. -/
def lMax (fs : List Fig) : Nat :=
  (((fs.map fun f => ((f.k * f.c : Nat) : ℚ) / f.t * ((f.t - f.d : Nat) : ℚ)).sum + (blocking fs 0 : ℚ))
    / (24 / 25 - util fs)).floor.toNat

/-- Number of test points of one channel. -/
def pointCount (lm : Nat) (f : Fig) : Nat := if lm < f.d then 0 else (lm - f.d) / f.t + 1

/-- Test points of one channel. -/
def pointsOf (lm : Nat) (f : Fig) : List Nat := (List.range (pointCount lm f)).map fun m => f.d + m * f.t

/-- The test fails at l. -/
def failsAt (fs : List Fig) (l : Nat) : Bool := decide (24 * l < 25 * (demand fs l + blocking fs l))

/-- A bin has too many test points; with U exactly 0.96 their number has no bound (log entry 45). -/
def tooMany (fs : List Fig) : Bool :=
  decide (util fs = 24 / 25) || decide (65536 < (fs.map (pointCount (lMax fs))).sum)

/-- Reasons of Table 10.6. -/
def reTime := 1
def reNoCost := 2
def reCapacity := 3
def reOwn := 4
def reOther := 5
def reLimit := 6
def reSingle := 7

/-- The test of a new channel with a bin's other channels: the reason it fails for, or none. -/
def binTest (others : List Fig) (new : Fig) : Option Nat :=
  let fs := others ++ [new]
  if 24 / 25 < util fs then some reCapacity
  else if tooMany fs then some reLimit
  else if (pointsOf (lMax fs) new).any (failsAt fs) then some reOwn
  else if others.any fun f => (pointsOf (lMax fs) f).any (failsAt fs) then some reOther
  else none

/-! ### Feasible figures (R336) -/

/-- The least value of [lo, hi] that meets a condition, which holds at lo, or else holds from some value on. -/
def firstTrue (p : Nat → Bool) : Nat → Nat → Nat → Option Nat
  | 0, _, _ => none
  | fuel + 1, lo, hi =>
    if hi < lo then none
    else if p lo then some lo
    else if p hi = false then none
    else
      let mid := (lo + hi) / 2
      if p mid then firstTrue p fuel (lo + 1) mid else firstTrue p fuel (mid + 1) hi

/-- From x on, the first value up to hi that a step function accepts; the step answers the next value to try. -/
def seek (next : Nat → Option Nat) (hi : Nat) : Nat → Nat → Nat
  | 0, _ => 0
  | fuel + 1, x =>
    if hi < x then 0
    else
      match next x with
      | none => x
      | some y => seek next hi fuel (max y (x + 1))

/-- The least own deadline of a bin's other channels after l, where the blocking next falls. -/
def nextDrop (others : List Fig) (l : Nat) : Option Nat := ((others.filter fun f => l < f.d).map (·.d)).min?

/-- Least point at which the failing load of point l could pass, with the blocking as it stands there. -/
def passAt (others fs : List Fig) (l : Nat) : Nat :=
  let y := ceilDiv (25 * (demand fs l + blocking fs l)) 24
  match nextDrop others l with
  | some z => min y z
  | none => y

/-- Where a bin fails with d' = x, the next d' that can pass (log entry 46): none if x passes. Every value in between
fails at the point that fails now. -/
def nextDeadline (others : List Fig) (f : Nat → Fig) (hi x : Nat) : Option Nat :=
  let new := f x
  let fs := others ++ [new]
  match binTest others new with
  | none => none
  | some r =>
    if r = reCapacity ∨ util fs = 24 / 25 then some (hi + 1)
    else if r = reLimit then
      some ((firstTrue (fun y => !tooMany (others ++ [f y])) 64 (x + 1) hi).getD (hi + 1))
    else
      let own := ((pointsOf (lMax fs) new).filter (failsAt fs)).map fun l => passAt others fs l - (l - x)
      let oth := (others.flatMap fun g => (pointsOf (lMax fs) g).filter (failsAt fs)).map fun l =>
        if x ≤ l then l - (l - x) / new.t * new.t + 1 else hi + 1
      some ((own ++ oth).foldl max 0)

/-- The same for the period T = x. -/
def nextPeriod (others : List Fig) (f : Nat → Fig) (hi x : Nat) : Option Nat :=
  let new := f x
  let fs := others ++ [new]
  match binTest others new with
  | none => none
  | some r =>
    if r = reCapacity ∨ util fs = 24 / 25 then
      some ((firstTrue (fun y => decide (util (others ++ [f y]) < 24 / 25)) 64 (x + 1) hi).getD (hi + 1))
    else if r = reLimit then
      let ok := fun y => !tooMany (others ++ [f y])
      some (((firstTrue ok 64 (x + 1) (min hi new.d)).orElse fun _ =>
        firstTrue ok 64 (max (x + 1) (new.d + 1)) hi).getD (hi + 1))
    else
      let own := ((pointsOf (lMax fs) new).filter (failsAt fs)).map fun l =>
        if l = new.d then hi + 1 else ceilDiv (passAt others fs l - new.d) ((l - new.d) / x)
      let oth := (others.flatMap fun g => (pointsOf (lMax fs) g).filter (failsAt fs)).map fun l =>
        if l < new.d + x then hi + 1 else (l - new.d) / ((l - new.d) / x) + 1
      some ((own ++ oth).foldl max 0)

/-- The least non-zero number of a list; 0 for none. -/
def leastOf (l : List Nat) : Nat := ((l.filter (· ≠ 0)).min?).getD 0

/-- What CHANNEL_ADMIT asks for (Table 09.12). -/
structure Ask where
  period : Nat
  deadline : Nat
  phase : Nat
  steps : Nat
  rows : Nat
  entry : Nat
  arrival : Nat
  late : Nat
  deriving DecidableEq, Repr

/-- Figures of a channel that would be admitted as asked. -/
def askFig (full : Bool) (c : Cost) (a : Ask) : Fig :=
  ⟨if a.late = 1 then 2 else 1, charge full c a.steps a.rows, a.period, a.deadline - a.arrival⟩

/-- MAX_STEPS, MAX_ROWS, MIN_DEADLINE and MIN_PERIOD over the bins tried (R336). -/
def feasible (full : Bool) (c : Cost) (a : Ask) (bins : List (List Fig)) : List (Nat × Nat × Nat) :=
  let ok := fun (b : Ask) => bins.any fun o => (binTest o (askFig full c b)).isNone
  let top := fun (n : Nat) (f : Nat → Ask) => (((List.range n).reverse.find? fun v => ok (f (v + 1))).map (· + 1)).getD 0
  let ms := if a.steps = 0 then 0 else top 1024 fun v => { a with steps := v }
  let mr := if a.steps = 0 then 0 else top 256 fun v => { a with rows := v }
  let dHi := 16 * a.period - a.arrival
  let md := leastOf (bins.map fun o =>
    seek (nextDeadline o (fun x => { askFig full c a with d := x }) dHi) dHi (dHi + 1) 1)
  let pLo := max 10000 (ceilDiv a.deadline 16)
  let mp := leastOf (bins.map fun o =>
    seek (nextPeriod o (fun x => { askFig full c a with t := x }) (2 ^ 48 - 1)) (2 ^ 48 - 1) (2 ^ 48) pLo)
  [(12, 2, ms), (14, 2, mr), (16, 8, if md = 0 then 0 else md + a.arrival), (24, 8, mp)]

/-! ### Bins (R333) -/

/-- Calderas of a partition that are not fenced, ascending. -/
def openCals (s : State) (p : Nat) : List Nat := (calsOf s p).filter fun c => !(getCal s c).fenced

/-- Admitted channels of a partition, by index. -/
def admitted (s : State) (p : Nat) : List (Nat × Chan) :=
  s.chans.filter fun e => e.2.live && e.2.part == p && e.2.adm.isSome

/-- Bins and spare of a partition: laid out anew while it has no admitted channel. -/
def layBins (s : State) (p : Nat) : List Nat × Option Nat :=
  let q := getPart s p
  if admitted s p ≠ [] then (q.bins, q.spare)
  else
    let cs := openCals s p
    if q.full then (cs, none) else (cs.dropLast, cs.getLast?)

/-- Figures of the channels of bin b but channel i. -/
def binFigs (s : State) (p b i : Nat) : List Fig :=
  ((admitted s p).filter fun e => decide (e.1 ≠ i) && e.2.bin == some b).filterMap fun e => e.2.adm.map figOf

/-- Insert a bin in ascending order of utilisation, after those of lower number. -/
def insertBin (b : Nat × ℚ) : List (Nat × ℚ) → List (Nat × ℚ)
  | [] => [b]
  | c :: r => if b.2 < c.2 then b :: c :: r else c :: insertBin b r

/-- Bins in trial order. -/
def trialOrder (s : State) (p i n : Nat) : List Nat :=
  (((List.range n).map fun b => (b, util (binFigs s p b i))).foldl (fun l b => insertBin b l) []).map (·.1)

/-! ### CHANNEL_ADMIT (R331, R336) -/

/-- Index of a channel handle. -/
def chanIdx (h : Nat) : Nat := h % 256

/-- A channel handle of the partition (R301). -/
def needChan (s : State) (p h : Nat) : Except Refused Unit :=
  let c := getChan s (chanIdx h)
  need (c.live = true ∧ c.gen = h / 256 ∧ c.part = p) stStaleHandle 0

/-- Time base states in which admission is normal (Table 10.3). -/
def timeTrusted (s : State) : Bool := decide (s.tb.st = .locked) || decide (s.tb.st = .holdover)

/-- No valid cost record, or STEPS and ROWS of the wrong kind for it (R330). -/
def noCost (c : Cost) (a : Ask) : Bool :=
  !c.rsvZero || decide (c.qb = 0) || (decide (a.steps = 0 ∧ a.rows = 0) == decide (c.stateB ≠ 0))

/-- The parameters of CHANNEL_ADMIT. -/
def askOf (s : State) (m : Nat) : Ask :=
  { period := par s m 12 8, deadline := par s m 20 8, phase := par s m 28 8, steps := par s m 36 2, rows := par s m 38 2,
    entry := par s m 40 2, arrival := par s m 44 8, late := par s m 52 1 }

/-- R331. -/
def askOk (a : Ask) : Except Refused Unit := do
  let chunk := a.steps ≠ 0 ∨ a.rows ≠ 0
  need (10000 ≤ a.period ∧ a.period < 2 ^ 48) stBadField 12
  need (a.arrival < a.deadline ∧ a.deadline ≤ 16 * a.period) stBadField 20
  need (chunk → (1 ≤ a.steps ∧ a.steps ≤ 1024)) stBadField 36
  need (chunk → (1 ≤ a.rows ∧ a.rows ≤ 256)) stBadField 38
  need (1 ≤ a.arrival) stBadField 44
  need (a.late ≤ 2) stBadField 52

/-- Place a channel in a bin with its new figures; the windows it has used stay used while PHASE and PERIOD stay
(log entry 47). -/
def placeChan (s : State) (i : Nat) (lay : List Nat × Option Nat) (b cost : Nat) (a : Ask) : State :=
  let c := getChan s i
  let same := match c.adm with
    | some q => decide (q.phase = a.phase) && decide (q.period = a.period)
    | none => false
  let adm : Adm := ⟨a.period, a.deadline, a.phase, a.steps, a.rows, a.entry, a.arrival, a.late, cost⟩
  let c1 := { c with adm := some adm, bin := some b, st := if c.st = .created then .admitted else c.st,
                     wins := if same then c.wins else [], heldWins := if same then c.heldWins else [] }
  updPart (setChan s i c1) c.part fun q => { q with bins := lay.1, spare := lay.2 }

/-- Refusal of admission: REASON and the feasible figures. -/
def admitNo (s : State) (reason : Nat) (figs : List (Nat × Nat × Nat)) : Ans :=
  .status s stAdmissionRefused ((8, 1, reason) :: figs)

/-- The answer to CHANNEL_ADMIT of channel i with its cost record (R333, R336). A channel that has a bin is tested on
it alone, for it never changes bin (log entry 47). -/
def admitAnswer (s : State) (p i : Nat) (a : Ask) (c : Cost) : Ans :=
  let lay := layBins s p
  let full := (getPart s p).full
  let n := (openCals s p).length
  if timeTrusted s = false then admitNo s reTime []
  else if noCost c a then admitNo s reNoCost []
  else if full = false ∧ n = 1 then admitNo s reSingle []
  else if n = 0 then admitNo s reCapacity []
  else
    let trial := match (getChan s i).adm, (getChan s i).bin with
      | some _, some b => [b]
      | _, _ => (trialOrder s p i lay.1.length).filter fun b => !(getCal s (lay.1.getD b 0)).fenced
    let new := askFig full c a
    match trial.find? fun b => (binTest (binFigs s p b i) new).isNone with
    | some b => .done (placeChan s i lay b new.c a) []
    | none =>
      let why := (trial.head?.bind fun b => binTest (binFigs s p b i) new).getD reCapacity
      admitNo s why (feasible full c a (trial.map fun b => binFigs s p b i))

/-- CHANNEL_ADMIT. -/
def execChannelAdmit (m : Mb) : State → Host.Outcome State Fault Refusal :=
  eci 0x51 m fun s m p => do
    let h := par s m 8 2
    let a := askOf s m
    askOk a
    needChan s p h
    let im := imgOf s (getChan s (chanIdx h)).img
    match im.costs[a.entry]? with
    | none => .error (stBadField, 40)
    | some c => return admitAnswer s p (chanIdx h) a c

end Sys2Proof.Machine
end

