-- ==== Sys2Proof/Machine/StreamCmd.lean ====
section
/-! DEFINITION. Stream commands: create, destroy, reset, query, export, import, and the events that end exports and
arrivals (01_streams_and_state.md R16 to R55, Table 01.5; 09 R304, R308; 13 R401 to R403). -/

namespace Sys2Proof.Machine

/-- A stream handle of the partition (01 R19, R22). -/
def needStream (s : State) (p : Nat) (h : Word) : Except Refused Unit :=
  need (streamOk s h = true ∧ (getSlot s (slotOf h)).part = p) stStaleHandle 0

/-- A stream handle parameter. -/
def parStream (s : State) (m : Nat) : Word := BitVec.ofNat 32 (par s m 8 4)

/-- QUAD names a quadrant of the partition, or any. -/
def quadOk (s : State) (p quad : Nat) : Bool := decide (quad = 0xFF) || (calsOf s p).contains quad

/-- Widest state of a format, less 1 (R24). -/
def maxWidthM1 (f32 : Bool) : Nat := if f32 then 31 else 15

/-- Status that refuses a command in a state which Table 01.5 does not list for it (R33). -/
def refusalOf (v : Slot) : Nat :=
  match v.st with
  | .free => stStaleHandle
  | .migrating => stStreamExported
  | .exported => stStreamExported
  | .faulted => stStreamFaulted
  | _ => stStreamBusy

/-- A FORCE command waits for the stream's dispatched chunk (R41). -/
def forced (s : State) (v : Nat) : Bool :=
  s.mbs.any fun e => decide (e.2.st = MbState.busy) && (decide (e.2.wait = .export_ v) || decide (e.2.wait = .destroy v))

/-! ### Create, destroy, reset, query -/

/-- STREAM_CREATE (R21, R304). -/
def execStreamCreate (m : Mb) : State → Host.Outcome State Fault Refusal :=
  eci 0x60 m fun s m p => do
    let f := par s m 8 1
    let w := par s m 9 1
    let quad := par s m 10 1
    need (f ≤ 1) stBadField 8
    need (w ≤ maxWidthM1 (f == 1)) stBadField 9
    need (quadOk s p quad = true) stBadField 10
    match chooseSlot s (calsOf s p) quad with
    | none => .error (stNoSlot, 0)
    | some i =>
      let s1 := newStream s i p (f == 1) w
      return .done s1 [(8, 4, (streamHandle s1 i).toNat)]

/-- The stream may go at once (Table 01.5). -/
def idleLike (v : Slot) : Bool :=
  decide (v.st = .idle) || (decide (v.st = .resident) && decide (v.qdepth = 0))

/-- The stream has chunks (Table 01.5: QUEUED, RESIDENT with QDEPTH > 0, PINNED). -/
def working (v : Slot) : Bool :=
  decide (v.st = .queued) || decide (v.st = .pinned) || (decide (v.st = .resident) && decide (0 < v.qdepth))

/-- STREAM_DESTROY (R41, Table 01.5). -/
def execStreamDestroy (m : Mb) : State → Host.Outcome State Fault Refusal :=
  eci 0x61 m fun s m p => do
    let h := parStream s m
    let i := slotOf h
    let v := getSlot s i
    needStream s p h
    need (forced s i = false) stStreamBusy 0
    if idleLike v ∨ v.st = .faulted then
      return .done (freeSlot (cancelQueued s (namesSlot s i) stCancelled) i) []
    else
      need (working v = true ∧ par s m 12 1 = 1) stStreamBusy 0
      let s1 := cancelQueued s (fun t => namesSlot s i t && !t.back) stCancelled
      if underway s1 i then return .wait s1 (.destroy i) else return .done (freeSlot s1 i) []

/-- STREAM_RESET (Table 01.5). -/
def execStreamReset (m : Mb) : State → Host.Outcome State Fault Refusal :=
  eci 0x62 m fun s m p => do
    let h := parStream s m
    let i := slotOf h
    let v := getSlot s i
    needStream s p h
    need (v.st = .idle ∨ v.st = .faulted) (refusalOf v) 0
    need (v.retired = false) stStreamFaulted 0
    let v1 := { v with st := if 0 < v.qdepth then .queued else .idle, steps := 0, damaged := false }
    return .done { setSlot s i v1 with sinter := clearRange s.sinter (i * Config.slotBytes) Config.slotBytes } []

/-- STREAM_QUERY (R28, R33). -/
def execStreamQuery (m : Mb) : State → Host.Outcome State Fault Refusal :=
  eci 0x63 m fun s m p => do
    let h := parStream s m
    needStream s p h
    return .done s [(8, 32, ofLe (slotEntry (getSlot s (slotOf h))))]

/-! ### Export -/

/-- Checks of an export's destination that come before the state (R44, 12 R359). -/
def needDest (s : State) (p i kind : Nat) (h : BitVec 16) (ofs : Nat) : Except Refused Unit := do
  if kind = 1 then return ()
  needRegion s p h
  need ((getRegion s (regIdx h)).ro = false) stBadField 14
  need (regFits s h ofs (recordBytes (getSlot s i)) = true) stRegionRange 0

/-- Start the export a command asks for. -/
def startExport (s : State) (m i kind : Nat) (h : BitVec 16) (ofs : Nat) : State :=
  if kind = 1 then startPeerExport s i (par s m 20 1) else startRegionExport s i h ofs

/-- STREAM_EXPORT (R41, R44 to R46). -/
def execStreamExport (m : Mb) : State → Host.Outcome State Fault Refusal :=
  eci 0x64 m fun s m p => do
    let h := parStream s m
    let i := slotOf h
    let v := getSlot s i
    let kind := par s m 13 1
    let reg := parReg s m 14
    let ofs := par s m 16 4
    need (kind ≤ 1) stBadField 13
    need (kind = 1 ∨ ofs % 256 = 0) stBadField 16
    need (kind = 0 ∨ par s m 20 1 ≤ 63) stBadField 20
    needStream s p h
    needDest s p i kind reg ofs
    need (forced s i = false) stStreamBusy 0
    if idleLike v then return .done (startExport s m i kind reg ofs) []
    else
      need (working v = true) (refusalOf v) 0
      need (par s m 12 1 = 1) stStreamBusy 0
      let s1 := cancelQueued s (fun t => namesSlot s i t && !t.back) stCancelled
      if underway s1 i then return .wait s1 (.export_ i) else return .done (startExport s1 m i kind reg ofs) []

/-- EXPORT_CONFIRMED (R45, Table 01.5): the second fence of a region export completes. -/
def execExportConfirmed (slot : Fin 4096) (s : State) : Host.Outcome State Fault Refusal :=
  match s.exports.find? fun e => e.slot == slot.val with
  | none => .next s
  | some e =>
    if e.peer.isSome = false ∧ jobDone s (.exp slot.val) = true then
      if jobErr s (.exp slot.val) then .next (exportFail s slot.val stFaulted)
      else .next (exportDone s slot.val 0)
    else .next s

/-- EXPORT_TIMEOUT (R46, 13 R403): a peer export that is not confirmed is cancelled. -/
def execExportTimeout (slot : Fin 4096) (s : State) : Host.Outcome State Fault Refusal :=
  match s.exports.find? fun e => e.slot == slot.val with
  | none => .next s
  | some e =>
    match e.peer, e.cancelled with
    | some q, false =>
      let s1 := updSlot (sendCancel (dropState s q e.move) slot.val q e.move) slot.val fun v => { v with st := .exported }
      .next { s1 with exports := s1.exports.map fun f => if f.slot = slot.val then { f with cancelled := true } else f }
    | _, _ => .next s

/-! ### Import (R48) -/

/-- Bytes of a list are zero. -/
def zeros (bs : List Byte) : Bool := bs.all (· == 0)

/-- n-byte field of a record header. -/
def hdrN (hd : List Byte) (a n : Nat) : Nat := ofLe ((hd.drop a).take n)

/-- A record header passes checks 1 to 5 of R48. -/
def headerOk (hd : List Byte) : Bool :=
  decide (hdrN hd 0 4 = 0x464C5354) && decide (hdrN hd 4 2 = 1) && decide (hdrN hd 60 4 = crc32c (hd.take 60))
    && zeros ((hd.drop 33).take 3) && zeros ((hd.drop 40).take 20) && zeros ((hd.drop 64).take 192)
    && decide (hdrN hd 6 1 ≤ 1) && decide (hdrN hd 7 1 ≤ maxWidthM1 (hdrN hd 6 1 == 1))

/-- State bytes that a header declares. -/
def hdrBytes (hd : List Byte) : Nat := (hdrN hd 7 1 + 1) * 256 * (if hdrN hd 6 1 = 1 then 4 else 8)

/-- A stream takes slot i from a record (Table 01.5, R48). -/
def importInto (s : State) (i p : Nat) (hd body : List Byte) : State :=
  let s1 := newStream s i p (hdrN hd 6 1 == 1) (hdrN hd 7 1)
  let v := getSlot s1 i
  let v1 := { v with seq := BitVec.ofNat 32 (hdrN hd 8 4), steps := BitVec.ofNat 64 (hdrN hd 16 8),
                     commit := BitVec.ofNat 64 (hdrN hd 24 8) }
  { setSlot s1 i v1 with sinter := storeBytes s1.sinter (i * Config.slotBytes) body }

/-- Refuse an arrival to its sender and release what it holds (R308, 13 R401 step 5). -/
def dropArrival (s : State) (a : Arrival) (status : Nat) : State :=
  let s1 := updSlot { s with arrivals := s.arrivals.filter fun b => b.no ≠ a.no } a.slot fun v => { v with held := false }
  let s2 := { s1 with sinter := clearRange s1.sinter (a.slot * Config.slotBytes) Config.slotBytes }
  sendResponse s2 a.src 0x85 a.xid status 0 0 []

/-- A complete arrival. -/
def arrived (a : Arrival) : Bool := decide (0 < a.total) && decide (a.got = a.total)

/-- The arrival becomes the stream of slot i: the acceptance goes to the sender (R308, 13 R401 step 4, R403). -/
def acceptArrival (s : State) (a : Arrival) (i p : Nat) (body : List Byte) : State :=
  let s1 := updSlot { s with arrivals := s.arrivals.filter fun b => b.no ≠ a.no } a.slot fun v => { v with held := false }
  let s2 := { s1 with sinter := clearRange s1.sinter (a.slot * Config.slotBytes) Config.slotBytes }
  let s3 := importInto s2 i p a.hdr body
  let h := streamHandle s3 i
  let q := getPeer s3 a.src
  let s4 := setPeer s3 a.src { q with okSlots := q.okSlots ++ [(h, q.rsp.tx)], okMoves := q.okMoves ++ [(a.move, h)] }
  sendResponse s4 a.src 0x85 a.xid stOk 0 h []

/-- Import of an arrival. -/
def importArrival (s : State) (p no quad : Nat) : Except Refused Ans :=
  match s.arrivals.find? fun a => a.no == no && a.part == p && arrived a with
  | none => .error (stStaleHandle, 0)
  | some a =>
    let body := loadBytes s.sinter (a.slot * Config.slotBytes) (hdrBytes a.hdr)
    if headerOk a.hdr = false ∨ a.bytes ≠ 256 + hdrBytes a.hdr ∨ hdrN a.hdr 36 4 ≠ crc32c body then
      .ok (.status (dropArrival s a stImportCorrupt) stImportCorrupt [])
    else
      match (if (quad = 0xFF ∨ quad = a.slot / 1024) ∧ (getSlot s a.slot).retired = false then some a.slot
        else chooseSlot s (calsOf s p) quad) with
      | none => .error (stNoSlot, 0)
      | some i =>
        let s1 := acceptArrival s a i p body
        .ok (.done s1 [(8, 4, (streamHandle s1 i).toNat)])

/-- Import of a record in a region: its header is read, and then its state. -/
def importRegion (s : State) (m p quad : Nat) (h : BitVec 16) (ofs : Nat) : Except Refused Ans := do
  needRegion s p h
  need (regFits s h ofs 256 = true) stRegionRange 0
  needLink s h
  let a := (getRegion s (regIdx h)).base + ofs
  regRead s m 0 h ofs 256 fun d => do
    let hd := loadBytes d a 256
    need (headerOk hd = true) stImportCorrupt 0
    need (regFits s h ofs (256 + hdrBytes hd) = true) stRegionRange 0
    regRead s m 1 h (ofs + 256) (hdrBytes hd) fun e => do
      let body := loadBytes e (a + 256) (hdrBytes hd)
      need (hdrN hd 36 4 = crc32c body) stImportCorrupt 0
      match chooseSlot s (calsOf s p) quad with
      | none => .error (stNoSlot, 0)
      | some i =>
        let s1 := importInto (dropUsers s (mboxUser m)) i p hd body
        return .done s1 [(8, 4, (streamHandle s1 i).toNat)]

/-- STREAM_IMPORT (R48, R308). -/
def execStreamImport (m : Mb) : State → Host.Outcome State Fault Refusal :=
  eci 0x65 m fun s m p => do
    let kind := par s m 8 1
    let quad := par s m 18 1
    need (kind ≤ 1) stBadField 8
    need (quadOk s p quad = true) stBadField 18
    if kind = 1 then importArrival s p (par s m 16 2) quad
    else importRegion s m p quad (parReg s m 10) (par s m 12 4)

/-- ARRIVAL_TIMEOUT (R308): an arrival not imported within EXPORT_TO is discarded and refused to its sender. -/
def execArrivalTimeout (a : Fin 16) (s : State) : Host.Outcome State Fault Refusal :=
  match s.arrivals.find? fun b => b.no == a.val && arrived b with
  | none => .next s
  | some b => .next (dropArrival s b (Config.arrivalRefusal.val + 1))

end Sys2Proof.Machine
end

