-- ==== Sys2Proof/Machine/Channels.lean ====
section
/-! DEFINITION. Channel commands (09 Table 09.12, R309, R315; 12 R359, R381). -/

namespace Sys2Proof.Machine

/-- The rings that CHANNEL_CREATE and CHANNEL_RESUME name. -/
structure Rings where
  sqReg : BitVec 16
  sqOfs : Nat
  sqLog : Nat
  cqReg : BitVec 16
  cqOfs : Nat
  cqLog : Nat
  deriving DecidableEq, Repr

/-- Ring parameters of a command. -/
def ringsOf (s : State) (m : Nat) : Rings :=
  { sqReg := parReg s m 12, sqOfs := par s m 16 4, sqLog := par s m 20 1, cqReg := parReg s m 22, cqOfs := par s m 24 4,
    cqLog := par s m 28 1 }

/-- Field ranges of the rings. -/
def ringFields (r : Rings) : Except Refused Unit := do
  need (r.sqOfs % 64 = 0) stBadField 16
  need (4 ≤ r.sqLog ∧ r.sqLog ≤ 16) stBadField 20
  need (r.cqOfs % 64 = 0) stBadField 24
  need (4 ≤ r.cqLog ∧ r.cqLog ≤ 16) stBadField 28

/-- The rings name live regions (R302, 5). -/
def ringRegions (s : State) (p : Nat) (r : Rings) : Except Refused Unit := do
  needRegion s p r.sqReg
  needRegion s p r.cqReg

/-- The rings fit their regions, the CQ in one that the block may write (R359). -/
def ringPlaces (s : State) (r : Rings) : Except Refused Unit := do
  need ((getRegion s (regIdx r.cqReg)).ro = false) stBadField 22
  need (regFits s r.sqReg r.sqOfs (64 * 2 ^ r.sqLog) = true) stRegionRange 0
  need (regFits s r.cqReg r.cqOfs (64 * 2 ^ r.cqLog) = true) stRegionRange 0

/-- A channel with new rings: doorbells 0, no entry waiting (R309). -/
def withRings (c : Chan) (r : Rings) : Chan :=
  { c with sqReg := r.sqReg, sqOfs := r.sqOfs, sqLog := r.sqLog, cqReg := r.cqReg, cqOfs := r.cqOfs, cqLog := r.cqLog,
           sqProd := 0, sqCons := 0, cqProd := 0, cqCons := 0, stamps := [], wrote := 0 }

/-- Every context of a mask lies on a Caldera of the partition (log entry 49). -/
def maskOk (s : State) (p mask : Nat) : Bool :=
  (List.range 64).all fun x => !bit mask x || decide ((getCal s (ctxCal x)).part = p)

/-- CHANNEL_CREATE. -/
def execChannelCreate (m : Mb) : State → Host.Outcome State Fault Refusal :=
  eci 0x50 m fun s m p => do
    let r := ringsOf s m
    let mask := par s m 32 8
    ringFields r
    need (maskOk s p mask = true) stBadField 32
    needImage s p (parReg s m 8)
    ringRegions s p r
    ringPlaces s r
    match freeIdx 256 fun k => (getChan s k).live with
    | none => .error (stNoResource, 0)
    | some k =>
      let c : Chan := { gen := nextGen 8 (getChan s k).gen, live := true, part := p, img := parReg s m 8,
                        mask := BitVec.ofNat 64 mask }
      let s1 := setChan s k (withRings c r)
      return .done s1 [(8, 2, chanHandle s1 k)]

/-- Entries of a channel are pending: not taken, accepted and not complete, or with a record owed (log entry 50). -/
def chanPending (s : State) (i : Nat) : Bool :=
  decide ((getChan s i).sqProd ≠ (getChan s i).sqCons) || s.items.any (·.ch == i) || s.posts.any (·.ch == i)

/-- A shared semaphore is bound to the channel. -/
def chanBound (s : State) (i : Nat) : Bool := s.sems.any fun e => e.2.bind == 2 && (e.2.prod == i || e.2.cons == i)

/-- The channel's index is free again; its generation counter stays (R301). -/
def freeChan (s : State) (i : Nat) : State := setChan (dropChan s i) i { gen := (getChan s i).gen }

/-- CHANNEL_DESTROY (R315). -/
def execChannelDestroy (m : Mb) : State → Host.Outcome State Fault Refusal :=
  eci 0x52 m fun s m p => do
    let h := par s m 8 2
    let i := chanIdx h
    needChan s p h
    need (chanBound s i = false) stObjectBusy 0
    need (chanPending s i = false ∨ par s m 10 1 = 1) stObjectBusy 0
    let s1 := cancelQueued s (fun t => t.ch == i) stCancelled
    if s1.items.any (·.ch == i) ∨ s1.posts.any (·.ch == i) then return .wait s1 (.chDestroy i)
    else return .done (freeChan s1 i) []

/-- STATE of CHANNEL_QUERY. -/
def chanCode : ChanState → Nat
  | .created => 0
  | .admitted => 1
  | .hostLost => 2
  | .ringError => 3

/-- CHANNEL_QUERY. -/
def execChannelQuery (m : Mb) : State → Host.Outcome State Fault Refusal :=
  eci 0x53 m fun s m p => do
    let h := par s m 8 2
    needChan s p h
    let c := getChan s (chanIdx h)
    return .done s [(8, 1, chanCode c.st), (12, 4, c.nextSeq.toNat), (16, 4, c.lastConf.toNat), (20, 2, c.sqCons.toNat),
      (22, 2, c.cqProd.toNat)]

/-- CHANNEL_RESUME (R309, 12 R381). -/
def execChannelResume (m : Mb) : State → Host.Outcome State Fault Refusal :=
  eci 0x54 m fun s m p => do
    let h := par s m 8 2
    let i := chanIdx h
    let r := ringsOf s m
    ringFields r
    needChan s p h
    ringRegions s p r
    let c := getChan s i
    need (c.st = .hostLost ∨ c.st = .ringError) stBadField 8
    ringPlaces s r
    return .done (setChan (dropChan s i) i { withRings c r with st := if c.adm.isSome then .admitted else .created }) []

end Sys2Proof.Machine
end

