-- ==== Sys2Proof/Machine/Shared.lean ====
section
/-! DEFINITION. Semaphore, table and gradient-set commands (08 R270, R277, R282 to R285; 09 R304, R307; 12 R360;
05 R169, R174). -/

namespace Sys2Proof.Machine

/-! ### Semaphores -/

/-- The semaphore that bytes 8 to 10 name: ranges of SCOPE and CAL. -/
def needSem (s : State) (m p : Nat) : Except Refused Unit := do
  need (par s m 9 1 ≤ 1) stBadField 9
  need (par s m 9 1 = 1 ∨ (calsOf s p).contains (par s m 10 1) = true) stBadField 10

/-- Its key. -/
def parSem (s : State) (m : Nat) : Nat := semKey (par s m 9 1 == 1) (par s m 10 1) (par s m 8 1)

/-- Consumers that a channel's links of partition p lead to. -/
def linksFrom (s : State) (p i : Nat) : List Nat :=
  (s.sems.filter fun e => e.2.bind == 2 && e.2.part == p && e.2.prod == i).map (·.2.cons)

/-- Channels reached from a list of channels within n links. -/
def closure (s : State) (p : Nat) : Nat → List Nat → List Nat
  | 0, l => l
  | n + 1, l => closure s p n (l ++ l.flatMap (linksFrom s p)).eraseDups

/-- The edge would close a cycle (R307). -/
def closesCycle (s : State) (p prod cons : Nat) : Bool := (closure s p 256 [cons]).contains prod

/-- SEM_BIND (R270, R307). -/
def execSemBind (m : Mb) : State → Host.Outcome State Fault Refusal :=
  eci 0x80 m fun s m p => do
    let k := parSem s m
    let kind := par s m 11 1
    let x := par s m 12 1
    let a := par s m 14 2
    let b := par s m 16 2
    needSem s m p
    need (kind = 1 ∨ kind = 2) stBadField 11
    need (kind = 2 ∨ (x ≤ 63 ∧ (par s m 9 1 = 1 ∨ ctxCal x = par s m 10 1))) stBadField 12
    if kind = 1 then needCtx s p x
    else
      needChan s p a
      needChan s p b
    need ((getSem s k).bind = 0) stObjectBusy 0
    if kind = 1 then
      return .done (setSem s k { value := par s m 20 2, bind := 1, ctx := x, part := p }) []
    else
      need (closesCycle s p (chanIdx a) (chanIdx b) = false) stGraphCycle 0
      return .done (setSem s k { value := par s m 20 2, bind := 2, part := p, prod := chanIdx a, cons := chanIdx b }) []

/-- A work item that uses the semaphore is in a window (R270, log entry 51). -/
def semBusy (s : State) (k : Nat) : Bool :=
  let v := getSem s k
  s.items.any fun i => (sharedOf i).contains k || (inWindow i && ((v.bind == 1 && i.ctx == v.ctx)
    || (v.bind == 2 && i.part == v.part && (i.ch == v.prod || i.ch == v.cons))))

/-- SEM_UNBIND (R270, R307): the edge goes with the last semaphore bound to its pair. -/
def execSemUnbind (m : Mb) : State → Host.Outcome State Fault Refusal :=
  eci 0x81 m fun s m p => do
    let k := parSem s m
    needSem s m p
    need ((getSem s k).bind ≠ 0) stBadField 8
    need ((getSem s k).part = p) stStaleHandle 0
    need (semBusy s k = false) stObjectBusy 0
    return .done (updSem s k fun v => { value := v.value, sat := v.sat, ptr := v.ptr }) []

/-- SEM_QUERY (Table 08.3). -/
def execSemQuery (m : Mb) : State → Host.Outcome State Fault Refusal :=
  eci 0x82 m fun s m p => do
    let k := parSem s m
    let v := getSem s k
    needSem s m p
    need (v.bind = 0 ∨ v.part = p) stStaleHandle 0
    return .done s [(8, 4, v.value + 65536 * v.bind + 262144 * (if v.bind = 1 then v.ctx else 0) + 16777216 * b2n v.sat)]

/-! ### Tables -/

/-- Location parameters of TABLE_REGISTER and TABLE_RELOAD. -/
def locOf (s : State) (m : Nat) : Loc :=
  if par s m 17 1 = 1 then ⟨some (par s m 20 1), 0, par s m 24 8⟩ else ⟨none, parReg s m 18, par s m 24 8⟩

/-- Field ranges of a location. -/
def locFields (s : State) (m : Nat) : Except Refused Unit := do
  need (par s m 17 1 ≤ 1) stBadField 17
  need (par s m 17 1 = 0 ∨ par s m 20 1 ≤ 63) stBadField 20
  need (par s m 24 8 % 64 = 0) stBadField 24

/-- A location of n bytes: a live space 2 region that it fits, or a peer (12 R360). -/
def locPlace (s : State) (p : Nat) (l : Loc) (n : Nat) : Except Refused Unit := do
  if l.peer.isSome then return ()
  needRegion s p l.reg
  need ((getRegion s (regIdx l.reg)).host = false) stBadField 18
  need (regFits s l.reg l.addr n = true) stRegionRange 0

/-- TABLE_REGISTER (R282, R283). -/
def execTableRegister (m : Mb) : State → Host.Outcome State Fault Refusal :=
  eci 0x70 m fun s m p => do
    let rb := 64 * par s m 8 2
    let rows := par s m 12 4
    need (1 ≤ par s m 8 2 ∧ par s m 8 2 ≤ 64) stBadField 8
    need (1 ≤ rows) stBadField 12
    need (par s m 16 1 ≤ 1) stBadField 16
    locFields s m
    locPlace s p (locOf s m) (rb * rows)
    match freeIdx 64 fun k => (getTable s k).live with
    | none => .error (stNoResource, 0)
    | some k =>
      return .done (setTable s k { live := true, part := p, rowBytes := rb, rows, bypass := par s m 16 1 == 1, gen := 1,
                                   loc := locOf s m }) [(8, 1, k), (9, 1, 1)]

/-- A table index of the partition. -/
def needTable (s : State) (p t : Nat) : Except Refused Unit := do
  need (t ≤ 63) stBadField 8
  need ((getTable s t).live = true ∧ (getTable s t).part = p) stStaleHandle 0

/-- Generation after g (R283). -/
def nextTabGen (g : Nat) : Nat := if g = 255 then 1 else g + 1

/-- A work item in a window holds generation g of table t, or a lookup tagged with it is in flight (R284, R285). -/
def genHeld (s : State) (t g : Nat) : Bool :=
  s.items.any (fun i => i.tables.contains (t, g)) ||
    (List.range 4).any fun c => (getCal s c).lookups.any fun l => l.table == t && l.gen == g

/-- The older generation of a table retires: its sectors go, TABLE_RETIRED (R285). -/
def retireOld (s : State) (t : Nat) : State :=
  let v := getTable s t
  match v.old with
  | none => s
  | some _ =>
    postEvent { s with tephra := s.tephra.filter fun e => !(e.1.1 == t && e.1.2.1 == v.oldGen) } v.part 0x0005
      (leBytes 1 t ++ leBytes 1 v.oldGen)

/-- A reload takes effect (R285): the current generation becomes the older one. -/
def reloadNow (s : State) (t : Nat) (l : Loc) : State :=
  let s1 := retireOld s t
  let v := getTable s1 t
  setTable s1 t { v with gen := nextTabGen v.gen, loc := l, oldGen := v.gen, old := some v.loc, pend := none }

/-- TABLE_RELOAD (R285). -/
def execTableReload (m : Mb) : State → Host.Outcome State Fault Refusal :=
  eci 0x71 m fun s m p => do
    let t := par s m 8 1
    let v := getTable s t
    need (t ≤ 63) stBadField 8
    locFields s m
    needTable s p t
    locPlace s p (locOf s m) (v.rowBytes * v.rows)
    need (v.pend.isSome = false) stTableBusy 0
    if v.old.isSome ∧ genHeld s t v.oldGen = true then
      return .wait (setTable s t { v with pend := some (locOf s m, m) }) (.reload t)
    else return .done (reloadNow s t (locOf s m)) [(8, 1, nextTabGen v.gen)]

/-- TABLE_RELOAD_EFFECT (R285): nothing holds the older generation any more. -/
def execTableReloadEffect (t : Fin 64) (s : State) : Host.Outcome State Fault Refusal :=
  let v := getTable s t.val
  match v.pend with
  | none => .next s
  | some (l, m) =>
    if genHeld s t.val v.oldGen then .next s
    else .next (respond (reloadNow s t.val l) m stOk 0 [(8, 1, nextTabGen v.gen)])

/-- TABLE_TIMEOUT (R285): the pending reload is refused. -/
def execTableTimeout (t : Fin 64) (s : State) : Host.Outcome State Fault Refusal :=
  let v := getTable s t.val
  match v.pend with
  | none => .next s
  | some (_, m) => .next (respond (setTable s t.val { v with pend := none }) m stTableBusy 0 [])

/-- TABLE_RELEASE. -/
def execTableRelease (m : Mb) : State → Host.Outcome State Fault Refusal :=
  eci 0x72 m fun s m p => do
    let t := par s m 8 1
    needTable s p t
    let v := getTable s t
    need (genHeld s t v.gen = false ∧ genHeld s t v.oldGen = false ∧ v.pend.isSome = false) stObjectBusy 0
    return .done { setTable s t {} with tephra := s.tephra.filter fun e => e.1.1 ≠ t } []

/-! ### Gradient sets -/

/-- Frames that a tile occupies (05 R169). -/
def tileFrames (t : Tile) : List Nat := if t.p64 && !t.row then [t.frame, t.frame + 1] else [t.frame]

/-- Frames of a partition that its gradient sets have taken. -/
def takenFrames (s : State) (p : Nat) : BitVec 32 :=
  (s.gsets.filter fun e => e.2.live && e.2.part == p).foldl (fun a e => a ||| e.2.frames) 0

/-- Zero frames on every Caldera of a partition (R304). -/
def zeroFrames (s : State) (p : Nat) (frames : BitVec 32) : State :=
  (calsOf s p).foldl (fun s c => updCal s c fun k =>
    { k with grad := (List.range 32).foldl (fun g f =>
        if frames.getLsbD f then clearRange g (262144 * f) 262144 else g) k.grad }) s

/-- GRADSET_ALLOC (R304). -/
def execGradsetAlloc (m : Mb) : State → Host.Outcome State Fault Refusal :=
  eci 0x90 m fun s m p => do
    let h := par s m 8 2
    let fr : BitVec 32 := BitVec.ofNat 32 (par s m 12 4)
    needChan s p h
    let im := imgOf s (getChan s (chanIdx h)).img
    need (im.training = true) stBadField 8
    need ((im.tiles.all fun t => (tileFrames t).all fun f => fr.getLsbD f) = true) stBadField 12
    need (fr &&& takenFrames s p = 0) stNoResource 0
    match freeIdx 16 fun k => (getGset s k).live with
    | none => .error (stNoResource, 0)
    | some k =>
      let g := nextGen 4 (getGset s k).gen
      return .done (zeroFrames (setGset s k { gen := g, live := true, part := p, chan := chanIdx h,
                                                    chanGen := (getChan s (chanIdx h)).gen, frames := fr }) p fr)
        [(8, 1, k + 16 * g)]

/-- The set was taken for the channel that channel index i now stands for (R304). -/
def ofChan (s : State) (g : GSet) (i : Nat) : Bool := g.live && g.chan == i && g.chanGen == (getChan s i).gen

/-- A gradient-set handle of the partition. -/
def needGset (s : State) (p h : Nat) : Except Refused Unit :=
  let g := getGset s (h % 16)
  need (g.live = true ∧ g.gen = h / 16 ∧ g.part = p) stStaleHandle 0

/-- GRADSET_ZERO (R304, 05 R174): a fold is one step of the model, so none is in progress. -/
def execGradsetZero (m : Mb) : State → Host.Outcome State Fault Refusal :=
  eci 0x91 m fun s m p => do
    let h := par s m 8 1
    needGset s p h
    let g := getGset s (h % 16)
    return .done (zeroFrames (setGset s (h % 16) { g with corrupt := false }) p g.frames) []

/-- A training work item: one that a training image runs (05 R154). -/
def trainingItem (s : State) (i : Item) : Bool := (imgOf s i.img).training

/-- GRADSET_RELEASE. -/
def execGradsetRelease (m : Mb) : State → Host.Outcome State Fault Refusal :=
  eci 0x92 m fun s m p => do
    let h := par s m 8 1
    needGset s p h
    let g := getGset s (h % 16)
    need ((s.items.any fun i => ofChan s g i.ch && trainingItem s i) = false) stObjectBusy 0
    return .done (setGset s (h % 16) { gen := g.gen }) []

end Sys2Proof.Machine
end

