-- ==== Sys2Proof/Machine/Report.lean ====
section
/-! DEFINITION. Fault records, the log of locations, stopping an attempt for a fault, and what a damaged word or a
port fault does (14_faults_and_recovery.md R414 to R431; 01 R39; 08 R269). -/

namespace Sys2Proof.Machine

/-! ### Records (R430) -/

/-- One millisecond of the block's clock. -/
def msClk : Nat := 12000000

/-- DETAIL of a record (Table 14.4). -/
def recDetail (i : Option Item) (outcome : Nat) : Word :=
  match i with
  | some i => if 1 ≤ outcome ∧ outcome ≤ 3 then BitVec.ofNat 32 (i.ch + 256 * (i.seq.toNat % 2 ^ 24)) else 0
  | none => 0

/-- FAULT_CORRECTED to the partition the fault lies in, or to every partition (09 R316). -/
def recEvent (s : State) (i : Option Item) (f : FRec) (count : Nat) : State :=
  match i with
  | some i => postEvent s i.part 0x0010 (recBytes f count)
  | none =>
    if f.cal < 4 then postEvent s (getCal s f.cal).part 0x0010 (recBytes f count)
    else postBlockEvent s 0x0010 (recBytes f count)

/-- A unit of a port (Table 14.1). -/
def isPort (u : BitVec 8) : Bool := decide (0x20 ≤ u.toNat) && decide (u.toNat ≤ 0x22)

/-- Report a fault: the interrupt, and the record at most once a millisecond for a unit and location. -/
def report (s : State) (i : Option Item) (unit : BitVec 8) (outcome : Nat) (cal ctx : Option Nat) (loc : Word) :
    State :=
  let f : FRec := { unit, outcome, cal := cal.getD 0xFF, ctx := ctx.getD 0xFF, loc, detail := recDetail i outcome }
  let s1 := if outcome ≠ 0 ∨ isPort unit = true then raiseInt s intFault else s
  let key := (unit, loc)
  let bump := fun (e : Nat × Nat) (l : List ((BitVec 8 × Word) × (Nat × Nat))) =>
    updFirst (fun h => decide (h.1 = key)) (fun _ => (key, e)) l
  let rs := fun (n : Nat) => (s1.flt.recs ++ [(f, n)]).drop (s1.flt.recs.length - 63)
  match s1.flt.held.find? fun h => decide (h.1 = key) with
  | some (_, (n, t)) =>
    if s1.clk < t + msClk then { s1 with flt := { s1.flt with held := bump (n + 1, t) s1.flt.held } }
    else recEvent { s1 with flt := { s1.flt with held := bump (0, s1.clk) s1.flt.held, recs := rs n } } i f n
  | none => recEvent { s1 with flt := { s1.flt with held := s1.flt.held ++ [(key, (0, s1.clk))], recs := rs 0 } } i f 0

/-! ### Permanence (R423, Table 14.3) -/

/-- What a permanent fault costs. -/
inductive Act where
  | none | fence | retireSlot | retireTephra | retireLine | block
  deriving DecidableEq, Repr

/-- Location compared and action of Table 14.3; no location for a unit that the log does not serve. -/
def permKey (f : FaultRep) : Option (List Nat × Act) :=
  let c := (f.cal.map (·.val)).getD 0xFF
  let l := f.loc.toNat
  match f.unit.toNat with
  | 0x01 => some ([1, c, l], .fence)
  | 0x02 => some ([2, c, l], .fence)
  | 0x05 => some ([5, c, l], .fence)
  | 0x06 => some ([6, c, l], .fence)
  | 0x03 => some ([3, l % 4096], .retireSlot)
  | 0x04 => some ([4, l % 2 ^ 18], .retireTephra)
  | 0x08 => some ([8, if l % 2 = 1 then 0xFF else c, l % 2 ^ 16], .retireLine)
  | 0x14 => some ([0x14, c, l % 256 / 8], .fence)
  | 0x15 => some ([0x15, c, l % 32], .fence)
  | 0x16 => some ([0x16, c], .fence)
  | 0x17 => some ([0x17, l], .block)
  | u =>
    if 0x10 ≤ u ∧ u ≤ 0x13 then
      some (if bit l 16 then ([0x10, c, l % 256 / 16, l / 256 % 256 / 16], .fence) else ([0x11, c], .fence))
    else none

/-- The location has an entry that has not expired. -/
def isLogged (s : State) (k : List Nat) : Bool := s.flt.log.any fun e => decide (e.1 = k)

/-- Log a detection; the oldest of 64 entries is dropped. -/
def logFault (s : State) (k : List Nat) (f : FRec) : State :=
  { s with flt := { s.flt with log := (s.flt.log ++ [(k, f)]).drop (s.flt.log.length - 63) } }

/-- FAULT_LOG_EXPIRE (R423): the oldest entry has stood 1 s. -/
def execFaultLogExpire (s : State) : Host.Outcome State Fault Refusal :=
  .next { s with flt := { s.flt with log := s.flt.log.drop 1 } }

/-! ### Stopping an attempt (R418, R420, R421) -/

/-- The stopped item completes with FAULTED: an add that R420 excludes, or a fault of a replay that does not fence, or
of a third attempt. -/
def failsNow (i : Item) (fencing : Bool) : Bool := i.adds || i.third || (i.replayed && !fencing)

/-- OUTCOME of a fault found in an attempt that has stopped or halted already: 1 or 2 as the stopped item goes on, 0
for a halted one, whose item completes with HALTED (log entry 88). -/
def lateCode (i : Item) : Nat := if i.stopped then (if i.fail || i.adds then 2 else 1) else 0

/-- An ADD of the item's attempt that excludes it from replay has started, and runs on when the attempt stops (R418,
R420). -/
def addsRun (s : State) (i : Item) : Bool :=
  (allXfers s).any fun t => t.ctx == i.ctx && t.ch == i.ch && t.seq == i.seq && farAdd t && t.started && !t.err

/-- Fault records take OUTCOME 1 when the attempt runs again, 2 when the item completes FAULTED. -/
def stopCode (s : State) (i : Item) : Nat := if failsNow i false || addsRun s i then 2 else 1

/-- Stop the attempt of an item of a window for a fault; a halted or stopped one stays as it is. -/
def faultItem (s : State) (i : Item) (fencing : Bool) : State :=
  if i.stopped ∨ i.halt.reason ≠ 0 then s
  else settle (stopAttempt s { i with fail := failsNow i fencing }) i.ctx

/-- A fence is due, unless the Caldera is fenced already: dispatch to the Caldera stops, and its executing item's
attempt is stopped (R424, 1 and 2). -/
def startFence (s : State) (c : Nat) : State :=
  if (getCal s c).fenced then s else
  let s1 := updCal s c fun k => { k with fenced := true, fenceDue := true }
  match execItem s1 c with
  | some i => if i.entered then faultItem s1 i true else s1
  | none => s1

/-! ### Damaged words (R414, R415; 01 R39) -/

/-- Byte b of slot i lies in the committed copy. -/
def inCopy (s : State) (i b : Nat) : Bool :=
  let v := getSlot s i
  decide (v.st ≠ .free) &&
    (if isHalf v then decide (b / 16384 = b2n v.half) && decide (b % 16384 < stateBytes v) else decide (b < stateBytes v))

/-- Slots of the resident row of a stream, when they hold its whole state. -/
def resSlots (v : Slot) : Option (List Nat) :=
  if v.resN = v.widthM1 + 1 then some ((List.range v.resN).map (v.resSlot + ·)) else none

/-- The resident row passes its parity check (02 R77). -/
def rowGood (k : Cal) (f32 : Bool) (slots : List Nat) (r : Nat) : Bool :=
  slots.all fun n => (List.range 256).all fun c => !badCell k.acc f32 n r c

/-- A resident row saved as a commit (01 R39); with `bad` the quadrant reports a write error twice. -/
def saveResident (s : State) (i : Nat) (slots : List Nat) (bad : Bool) : State :=
  let v := getSlot s i
  let m := saveRow (getCal s v.resCal) s.sinter v.f32 slots 0 v.resRow (saveBase s i)
  if bad then faultStream { s with sinter := m } i 0x02
  else
    { setSlot s i { v with half := isHalf v && !v.half, seq := v.seq + 1, commit := BitVec.ofNat 64 (timeNow s),
                           damaged := false } with sinter := m }

/-- The stream of an export in progress faults when the export fails (01 R39). -/
def poison (s : State) (i : Nat) : State :=
  { s with exports := s.exports.map fun e => if e.slot = i then { e with poisoned := true } else e }

/-- Byte n of the record of an export has not been read into it: the write or the segment that carries it has not been
presented (01 R39). -/
def unread (s : State) (e : Export) (n : Nat) : Bool :=
  match e.peer with
  | some q => (getPeer s q).req.queue.any fun t =>
      !t.sent && decide (t.f.type = 5) && t.f.aux.setWidth 16 == e.move
        && decide (t.f.aux.toNat / 65536 % 256 = n / 4096)
  | none => (jobOf s (.exp e.slot)).any fun j => j.stages.flatten.any fun b =>
      decide (b.kind = .write) && decide (b.addr ≤ e.addr + n) && decide (e.addr + n < b.addr + b.len)

/-- A move to a peer that has failed sends no more segments, and CANCEL (13 R403). -/
def cancelMove (s : State) (e : Export) : State :=
  match e.peer with
  | none => s
  | some q => sendRequest (dropState s q e.move) q .gone 0 0 fun fr =>
      { fr with type := 6, aux := e.move.setWidth 32 }

/-- An export fails at once, since its record cannot be read (01 R39): a peer move sends no more segments, and CANCEL;
the stream is FAULTED. -/
def exportLost (s : State) (e : Export) : State := cancelMove (exportFail (poison s e.slot) e.slot stFaulted) e

/-- The committed copy of a stream that is moving out has a bad word: byte b of its slot. -/
def movingDamaged (s : State) (i b : Nat) : State :=
  match s.exports.find? fun e => e.slot == i with
  | none => s
  | some e =>
    if (getSlot s i).st = .migrating ∧ unread s e (256 + (if isHalf (getSlot s i) then b % 16384 else b)) = true then
      exportLost s e
    else poison s i

/-- A row of an item is left unused from now on (01 R35, R39). -/
def dropRows (s : State) (p : Item → Bool) (v : Nat) : State :=
  let gone := fun (i : Item) => (rowsOf s i).foldl
    (fun m e => if e.2 = v then m ||| BitVec.ofNat 256 (2 ^ e.1) else m) i.rowFault
  let drop := fun (i : Item) => if p i = true ∧ namesSlot s v i = true then { i with rowFault := gone i } else i
  { s with items := s.items.map drop }

/-- An uncorrectable word at byte b of slot i, in its committed copy (01 R39). While a dispatcher restore reads a
half-slot copy, or a copy that no starting state repeats yet, the row is left unused and the stream is FAULTED at once
(log entry 52); with `bad` a resident row cannot be saved over it. -/
def copyDamaged (s : State) (i b : Nat) (bad : Bool) : State :=
  let v := getSlot s i
  let read := fun (t : Item) => t.restoring && (isHalf v || !t.entered)
  match v.st with
  | .idle => faultStream s i 0x01
  | .queued => faultStream s i 0x01
  | .resident =>
    match resSlots v with
    | some slots =>
      if rowGood (getCal s v.resCal) v.f32 slots v.resRow then saveResident s i slots bad else faultStream s i 0x01
    | none => faultStream s i 0x01
  | .pinned =>
    if s.items.any fun t => read t && namesSlot s i t then faultStream (dropRows s read i) i 0x01
    else setSlot s i { v with damaged := true }
  | .migrating => movingDamaged s i b
  | .exported => movingDamaged s i b
  | _ => s

/-- Retire a slot (Table 14.3) for a bad word at byte b: its stream is FAULTED, and one that is moving out when its
export has failed (01 R39). -/
def retireSlot (s : State) (i b : Nat) : State :=
  let s1 := updSlot s i fun v => { v with retired := true }
  match (getSlot s1 i).st with
  | .free => s1
  | .faulted => s1
  | .migrating => if inCopy s1 i b then movingDamaged s1 i b else poison s1 i
  | .exported => poison s1 i
  | _ => faultStream s1 i 0x01

/-- Drop the sector at way w of a Tephra set, counting from the most recent. -/
def dropSector (s : State) (st w : Nat) : State :=
  let same := s.tephra.filter fun e => sectorSet e.1.1 e.1.2.2.1 e.1.2.2.2 == st
  match same[w]? with
  | some v => { s with tephra := s.tephra.filter fun e => !decide (e.1 = v.1) }
  | none => s

/-- Drop the line at way w of a set of a cache, counting from the most recent. -/
def dropLine (ls : List CLine) (st w : Nat) : List CLine :=
  match (ls.filter fun l => lineSet l.img l.line == st)[w]? with
  | some v => ls.filter fun l => !decide (l = v)
  | none => ls

/-- Take the way of a line out of use (Table 14.3): level 1 is the second level. -/
def retireWay (s : State) (c lvl st : Nat) : State :=
  if lvl = 1 then { s with l2Retired := s.l2Retired ++ [st] }
  else updCal s c fun q => { q with icRetired := q.icRetired ++ [st] }

/-- The gradient sets whose frame f a Caldera holds are corrupt: GRADSET_CORRUPT (05 R174, R415). -/
def corruptFrame (s : State) (c f : Nat) : State :=
  (List.range 16).foldl (fun s k =>
    let g := getGset s k
    if g.live = true ∧ g.part = (getCal s c).part ∧ g.frames.getLsbD f = true then
      postEvent (setGset s k { g with corrupt := true }) g.part 0x0007
        (leBytes 1 (k + 16 * g.gen) ++ leBytes 1 c ++ leBytes 1 f)
    else s) s

/-! ### Port faults (08 R269; 12 R368, R379) -/

/-- Mark the transfer or lookup of a user. -/
def markErr (s : State) (u : User) : State :=
  updMove s u (fun t => { t with err := true }) fun l => { l with err := true }

/-- Context, image and offset of the MOV bundle, and whether its signals are discarded, of a transfer or lookup. -/
def moverOf (s : State) (u : User) : Option (Nat × BitVec 16 × Nat × Bool) :=
  match u with
  | .xfer n => ((allXfers s).find? (·.id == n)).map fun t => (t.ctx, t.img, t.ofs, t.mute)
  | .look n => ((allLooks s).find? (·.id == n)).map fun l => (l.ctx, l.img, l.ofs, l.mute)
  | _ => none

/-- A port fault of a transfer or lookup: it fails, and the attempt that issued it is stopped, or with `halt` its
context halts with REGION_FAULT (12 R379, R382; 13 R397). -/
def portFault (s : State) (u : User) (unit : BitVec 8) (loc : Word) (halt : Bool) (detail : Word) : State :=
  match moverOf s u with
  | none => report s none unit 0 none none loc
  | some (x, img, ofs, mute) =>
    let s1 := markErr s u
    match (if mute then none else winItemOf s1 x) with
    | none => report s1 none unit 0 (some (ctxCal x)) none loc
    | some i =>
      if i.stopped ∨ i.halt.reason ≠ 0 then report s1 none unit 0 (some (ctxCal x)) (some x) loc
      else if halt then
        moveHalt (report s1 (some i) unit 0 (some (ctxCal x)) (some x) loc) x img ofs false (hRegionFault, detail)
      else
        faultItem (report s1 (some i) unit (stopCode s1 i) (some (ctxCal x)) (some x) loc) i false

end Sys2Proof.Machine
end

