-- ==== Sys2Proof/Machine/Fetch.lean ====
section
/-! DEFINITION. Instruction fetch: a line arrives (07_programs.md R241 to R245). -/

namespace Sys2Proof.Machine

/-- Put a line at the front of a cache of some ways, evicting the least recently used line of a full set (R241). -/
def fillSet (ls : List CLine) (ways : Nat) (l : CLine) : List CLine :=
  let st := lineSet l.img l.line
  let rest := ls.filter fun q => !(q.img == l.img && q.line == l.line)
  let same := rest.filter fun q => lineSet q.img q.line == st
  let rest' := if ways ≤ same.length then
      match same.getLast? with
      | some v => rest.filter fun q => !decide (q = v)
      | none => rest
    else rest
  if ways = 0 then rest' else l :: rest'

/-- Halt every context that waits on a line (R243). -/
def haltWaiting (s : State) (xs : List Nat) (reason : Nat) : State :=
  xs.foldl (fun s x => haltIssue s x (getCtx s x).pc 7 reason 0) s

/-- Drop the requests of every Caldera for a line. -/
def dropFetches (s : State) (img : BitVec 16) (line : Nat) : State :=
  (List.range 4).foldl (fun s c => dropFetch s c img line) s

/-- Contexts that wait on a line, on any Caldera: the next bundle of their item needs it now. -/
def lineWaiters (s : State) (img : BitVec 16) (line : Nat) : List Nat :=
  (List.range 64).filter fun x =>
    match nextTurn s x with
    | .fetch _ ls => imgNow s x == img && ls.contains line
    | _ => false

/-- Image that an item's next attempt runs: that of the channel, or for a replay the one its attempt started on (07
R252, R253). -/
def placeImg (s : State) (i : Item) : BitVec 16 :=
  if i.replayed = true ∧ i.third = false then i.imgStart else (getChan s i.ch).img

/-- A fill cannot be read: the contexts that wait on the line halt with FETCH_ERROR (R243). -/
def failLine (s : State) (img : BitVec 16) (line : Nat) : State :=
  haltWaiting (dropFetches s img line) (lineWaiters s img line) hFetchError

/-- Mark an image damaged (R243, R245): IMAGE_DAMAGED, and its queued items, those that would run it, complete with
IMAGE_CHANGED. -/
def damageImage (s : State) (img : BitVec 16) : State :=
  let i := imgOf s img
  if i.damaged then s
  else
    let s1 := postEvent (setImage s (imgIdx img) { i with damaged := true }) i.part 0x0008 (leBytes 2 img.toNat)
    cancelQueued s1 (fun t => placeImg s t == img) stImageChanged

/-- A checked line enters both levels (R241, R243). -/
def fillLine (s : State) (c : Nat) (l : CLine) : State :=
  let st := lineSet l.img l.line
  let s1 := updCal s c fun k =>
    { k with icache := fillSet k.icache (4 - (k.icRetired.filter (· == st)).length) l }
  { s1 with l2 := fillSet s1.l2 (6 - (s1.l2Retired.filter (· == st)).length) l }

/-- LOC of a fill of a line that fails its CRC (14 Table 14.1): level, set, and the way that the line would take,
counting from the most recent. -/
def fillLoc (s : State) (c : Nat) (l2 : Bool) (img : BitVec 16) (line : Nat) : Nat :=
  let st := lineSet img line
  let way := fun (ls : List CLine) (ways : Nat) => min (ls.filter fun q => lineSet q.img q.line == st).length (ways - 1)
  if l2 then 1 + 2 * st + 8192 * way s.l2 (6 - (s.l2Retired.filter (· == st)).length)
  else 2 * st + 8192 * way (getCal s c).icache (4 - ((getCal s c).icRetired.filter (· == st)).length)

/-- Report a fill that failed its CRC, for a context that waits on the line. The first failure of a fill is refetched
and so corrected (14 Table 14.2), and not logged; the second is NOT_CLEARED, or permanent, when the way is retired
(DESIGN CHOICE, log entry 158). -/
def badFill (s : State) (c : Nat) (l2 : Bool) (f : Fetch) (x : Nat) : State :=
  let n := fillLoc s c l2 f.img f.line
  let lv := b2n l2
  let cal := if l2 then none else some c
  let i := winItemOf s x
  let k := [8, cal.getD 0xFF, n]
  let code := if f.tries = 0 then 0 else if isLogged s k then 3 else 2
  let s1 := report s i 0x08 code cal (some x) (BitVec.ofNat 32 n)
  let s2 := if f.tries = 0 then s1 else logFault s1 k ⟨0x08, code, cal.getD 0xFF, x, BitVec.ofNat 32 n, recDetail i code⟩
  if code = 3 then retireWay s2 c lv (lineSet f.img f.line) else s2

/-- Check a line's bytes (R243), read from its backing store (l2) or from the second level: the line enters both levels;
after a first mismatch the backing store is read once more; after a second the contexts that wait halt and the image is
damaged. A request on which no context waits is dropped instead. -/
def checkLine (s : State) (c : Nat) (l2 : Bool) (f : Fetch) (d : List Byte) : State :=
  let ws := lineWaiters s f.img f.line
  if BitVec.ofNat 32 (crc32c d) = (imgOf s f.img).ltab.getD f.line 0 then
    fillLine (dropFetch s c f.img f.line) c ⟨f.img, f.line, d⟩
  else
    let s1 := match ws with
      | x :: _ => badFill s c l2 f x
      | [] => s
    if f.tries = 0 then
      readLine (updCal (dropJob s1 (.fetch c f.img f.line)) c fun k =>
        { k with fetches := k.fetches.map fun g => if g = f then { g with tries := 1 } else g }) c f.img f.line
    else if ws = [] then dropFetch s1 c f.img f.line
    else damageImage (haltWaiting (dropFetches s1 f.img f.line) ws hImageChanged) f.img

/-- A port fault of a line request (12 R368, R379): reported, naming a context that waits on the line (14 R417), and the
line cannot be read. With no context waiting the request is dropped. -/
def fillFault (s : State) (host : Bool) (loc : Word) (img : BitVec 16) (line : Nat) : State :=
  match lineWaiters s img line with
  | [] => dropFetches s img line
  | x :: _ =>
    failLine (report s (winItemOf s x) (if host then 0x21 else 0x20) 0 (some (ctxCal x)) (some x) loc) img line

/-- A requested line arrives (R242, R243): from the second level at the first try, or from its backing store once its
reads have ended. Without `ok` the block finds a parity error on the data (12 R368, R379). -/
def arriveLine (s : State) (c : Nat) (f : Fetch) (ok : Bool) : State :=
  let u : User := .fetch c f.img f.line
  match (if f.tries = 0 then cachedLine s.l2 f.img f.line else none), linePlace s f.img f.line with
  | some l, _ => checkLine s c false f l.data
  | none, none => failLine s f.img f.line
  | none, some p =>
    if jobOf s u = none then readLine s c f.img f.line
    else if jobDone s u = false then s
    else if ok = false ∨ jobErr s u = true then
      fillFault s p.1 (if p.1 then 0 else BitVec.ofNat 32 (memChan p.2)) f.img f.line
    else checkLine s c true f (loadBytes (jobRx s u) p.2 256)

/-- LINE_FILL (R243): a line that a Caldera asked for. -/
def execLineFill (c : Fin 4) (img : BitVec 16) (line : Nat) (ok : Bool) (s : State) :
    Host.Outcome State Fault Refusal :=
  match (getCal s c.val).fetches.find? fun f => f.img == img && f.line == line with
  | none => .next s
  | some f => .next (arriveLine s c.val f ok)

end Sys2Proof.Machine
end

