-- ==== Sys2Proof/Machine/Fault.lean ====
section
/-! DEFINITION. What a detected fault does: attribution, the stores, the datapath, the scrub, the array's compare,
fences, and the watchdogs (14_faults_and_recovery.md R412 to R430; 02 R101; 10 R337). -/

namespace Sys2Proof.Machine

/-! ### Attribution (R417) -/

/-- UNIT is of a Caldera's datapath (Table 14.1, 0x10 to 0x16). -/
def isDatapath (u : BitVec 8) : Bool := decide (0x10 ≤ u.toNat) && decide (u.toNat ≤ 0x16)

/-- UNIT is of a store protected by SECDED (Table 14.1, 0x01 to 0x07). -/
def isSecded (u : BitVec 8) : Bool := decide (1 ≤ u.toNat) && decide (u.toNat ≤ 7)

/-- The work item that a fault is attributed to, if any. -/
def faultOwner (s : State) (f : FaultRep) : Option Item :=
  match f.ctx.bind fun x => winItemOf s x.val with
  | some i => some i
  | none => if isDatapath f.unit then f.cal.bind fun c => execItem s c.val else none

/-- The item's attempt has already been stopped, or its context halted. -/
def stoppedItem (i : Item) : Bool := i.stopped || decide (i.halt.reason ≠ 0)

/-- Context that the record of a fault names (R417): that of the item it is attributed to, where the check names one or
lies in a datapath. -/
def namedCtx (f : FaultRep) (i : Option Item) : Option Nat :=
  if f.ctx.isSome || isDatapath f.unit then i.map (·.ctx) else none

/-- Caldera of a fault, if any. -/
def calOf (f : FaultRep) : Option Nat := f.cal.map (·.val)

/-- The fault record that the log keeps. A fault that names no context, as one that the scrub finds, leaves CTX 0xFF
even where it stops an item's attempt (R417). -/
def logRec (f : FaultRep) (i : Option Item) (outcome : Nat) : FRec :=
  { unit := f.unit, outcome, cal := (calOf f).getD 0xFF, ctx := (namedCtx f i).getD 0xFF, loc := f.loc,
    detail := recDetail i outcome }

/-- Report a fault for an item, if any, with an outcome. -/
def reportFault (s : State) (f : FaultRep) (i : Option Item) (outcome : Nat) : State :=
  report s i f.unit outcome (calOf f) (namedCtx f i) f.loc

/-- Report a fault and log its location. -/
def reportLog (s : State) (f : FaultRep) (k : List Nat) (i : Option Item) (outcome : Nat) : State :=
  logFault (reportFault s f i outcome) k (logRec f i outcome)

/-! ### Faults of an attempt (R418, R421, R423) -/

/-- OUTCOME of a fault that stops an item's attempt, or that is found in one that has stopped or halted (log entry
88). -/
def attemptCode (s : State) (i : Item) : Nat := if stoppedItem i then lateCode i else stopCode s i

/-- A fault attributed to an item stops its attempt, unless it has stopped or halted; where it is permanent, it fences
the Caldera it lies in, whose executing item stops (R424), and an attempt on another Caldera that met it stops too
(R414). -/
def attemptFault (s : State) (f : FaultRep) (k : List Nat) (i : Item) : State :=
  if isLogged s k then
    let c := (calOf f).getD i.cal
    let s1 := startFence (reportLog s f k (some i) 3) c
    if c = i.cal then s1 else faultItem s1 i true
  else faultItem (reportLog s f k (some i) (attemptCode s i)) i false

/-- A fault of a Caldera's datapath or of one of its stores. One that names no context fences the Caldera where it is
permanent; otherwise a datapath's brings an engine reset, and a store's is corrected (R414, R417). -/
def calFault (s : State) (f : FaultRep) (k : List Nat) : State :=
  match faultOwner s f with
  | some i => attemptFault s f k i
  | none =>
    match calOf f with
    | none => reportLog s f k none 0
    | some c =>
      if isLogged s k then startFence (reportLog s f k none 3) c
      else
        let s1 := reportLog s f k none 0
        if isDatapath f.unit then startStep s1 2 c 6 none [] else s1

/-! ### Double-bit errors (R414, R415) -/

/-- A free value in an 8 B word of a memory that is written with a fresh code. -/
def freshWord (m : Mem) (a n : Nat) : Mem :=
  storeBytes m a (leBytes 4 (Config.freeWord n).toNat ++ leBytes 4 (Config.freeWord (n + 1)).toNat)

/-- The attempt whose program RESTORE reads a word, rather than a dispatcher restore of its item (02 R92; R414). -/
def wordReader (s : State) (f : FaultRep) : Option Item :=
  (faultOwner s f).filter fun i => i.entered && !i.restoring

/-- What an uncorrectable Sinter word does to its slot: the slot is retired where the fault is permanent, and a word
of the committed copy follows 01 R39. -/
def slotDamage (s : State) (f : FaultRep) (perm : Bool) : State :=
  let i := f.loc.toNat % 4096
  let b := f.loc.toNat / 4096 % 4096 * 8
  if perm then retireSlot s i b else if inCopy s i b then copyDamaged s i b f.saveBad else s

/-- A Sinter word: slot [11:0], word [23:12] (R39, Table 14.3). An attempt that reads it is stopped (R414). -/
def sinterFault (s : State) (f : FaultRep) (k : List Nat) : State :=
  let n := f.loc.toNat % 4096
  let perm := isLogged s k
  let lost := (getSlot s n).st ≠ .faulted ∧ (getSlot (slotDamage s f perm) n).st = .faulted
  let code := if perm then 3 else
    match wordReader s f with
    | some i => attemptCode s i
    | none => if lost then 4 else 0
  let s1 := slotDamage (reportLog s f k (faultOwner s f) code) f perm
  match wordReader s1 f with
  | some i => faultItem s1 i perm
  | none => s1

/-- A Tephra sector: set [13:0], way [17:14]. It is read again, and the way is retired where the fault is permanent. -/
def tephraFault (s : State) (f : FaultRep) (k : List Nat) : State :=
  let st := f.loc.toNat % 16384
  let perm := isLogged s k
  let s1 := dropSector (reportLog s f k (faultOwner s f) (if perm then 3 else 0)) st (f.loc.toNat / 16384 % 16)
  if perm then { s1 with tephraRetired := s1.tephraRetired ++ [st] } else s1

/-- An instruction-cache line: level [0], 0 for a Caldera's cache; set [12:1]; way [15:13]. It is read again, and the
way is retired where the fault is permanent. -/
def lineFault (s : State) (f : FaultRep) (k : List Nat) : State :=
  let l := f.loc.toNat
  let st := l / 2 % 4096
  let w := l / 8192 % 8
  let perm := isLogged s k
  let s1 := reportLog s f k (faultOwner s f) (if perm then 3 else 0)
  let c := (calOf f).getD 0
  let s2 := if l % 2 = 1 then { s1 with l2 := dropLine s1.l2 st w }
    else updCal s1 c fun q => { q with icache := dropLine q.icache st w }
  if perm then retireWay s2 c (l % 2) st else s2

/-- CP memory: FATAL_STATUS, and a block reset (Table 14.3). -/
def cpMemFault (s : State) (f : FaultRep) : State := startStep (raiseFatal (reportFault s f none 3) 4) 4 0 8 none []

/-- Fold read of a gradient frame (05 R174). -/
def foldFault (s : State) (f : FaultRep) (k : List Nat) : State :=
  match calOf f with
  | none => reportLog s f k none 0
  | some c =>
    let perm := isLogged s k
    let s1 := corruptFrame (reportLog s f k none (if perm then 3 else 4)) c (f.loc.toNat * 8 / 262144)
    if perm then startFence s1 c else s1

/-! ### FAULT_DETECTED -/

/-- A global semaphore, the partition it is bound to (Table 14.3). -/
def semaphoreFault (s : State) (f : FaultRep) : State :=
  let v := getSem s (1024 + f.loc.toNat % 256)
  if v.bind = 0 then reportFault s f none 0 else startStep (reportFault s f none 3) 3 v.part 10 none []

/-- A port's fault: it stops the attempt that it is attributed to (12 R368, R379). -/
def unitPortFault (s : State) (f : FaultRep) : State :=
  match faultOwner s f with
  | none => reportFault s f none 0
  | some i => faultItem (reportFault s f (some i) (attemptCode s i)) i false

/-- The fabric: its attempt stops; a permanent one resets the block. -/
def fabricFault (s : State) (f : FaultRep) (k : List Nat) : State :=
  if isLogged s k then startStep (reportLog s f k (faultOwner s f) 3) 4 0 9 none []
  else
    match faultOwner s f with
    | none => reportLog s f k none 0
    | some i => faultItem (reportLog s f k (some i) (attemptCode s i)) i false

/-- A fault found at a read or by a check, by its UNIT (Table 14.1). -/
def detected (s : State) (f : FaultRep) : State :=
  let k := ((permKey f).map (·.1)).getD []
  if isSecded f.unit = true ∧ f.double = false then reportFault s f (faultOwner s f) 0
  else
    match f.unit.toNat with
    | 0x01 => calFault s f k
    | 0x02 => if (faultOwner s f).isSome then calFault s f k else foldFault s f k
    | 0x03 => sinterFault s f k
    | 0x04 => tephraFault s f k
    | 0x05 => calFault s f k
    | 0x06 => calFault s f k
    | 0x07 => cpMemFault s f
    | 0x08 => lineFault s f k
    | 0x17 => fabricFault s f k
    | u =>
      if u = 0x16 ∧ f.shared = true then startStep (reportFault s f none 3) 4 0 9 none []
      else if u = 0x16 ∧ f.cal.isNone = true then semaphoreFault s f
      else if 0x10 ≤ u ∧ u ≤ 0x16 then calFault s f k
      else if 0x20 ≤ u ∧ u ≤ 0x22 then unitPortFault s f
      else s

/-- Checks work while the block is out of reset. -/
def awake (s : State) : Bool := decide (s.life.phase ≠ .held) && decide (s.life.phase ≠ .stopped)

/-- A finding of a check of the array that this report tells of is reported now (02 R77). -/
def dropFound (s : State) (f : FaultRep) : State :=
  match f.cal with
  | none => s
  | some c => updCal s c.val fun k => { k with found := delFirst (fun g => decide (g = f)) k.found }

/-- FAULT_DETECTED (R412 to R431). -/
def execFaultDetected (f : FaultRep) (s : State) : Host.Outcome State Fault Refusal :=
  if awake s then .next (detected (dropFound s f) f) else .next s

/-! ### SCRUB (R413 to R415) -/

/-- Work item in a window whose grant holds a word that the scrub found. -/
def wordOwner (s : State) (f : FaultRep) : Option Item :=
  let l := f.loc.toNat
  s.items.find? fun i => inWindow i && calOf f == some i.cal &&
    match f.unit.toNat with
    | 0x01 => decide (i.spadBase ≤ 8 * l) && decide (8 * l < i.spadBase + i.spadLen)
    | 0x05 => i.halves.getLsbD (l % 4)
    | 0x06 => decide (i.laneBase ≤ l / 256 % 256) && decide (l / 256 % 256 < i.laneBase + i.laneN)
    | _ => false

/-- The word belongs to a frame of a live gradient set. -/
def frameLive (s : State) (c f : Nat) : Bool :=
  s.gsets.any fun g => g.2.live && g.2.part == (getCal s c).part && g.2.frames.getLsbD f

/-- A double-bit error that the scrub finds in a Caldera's store, beside the attempt it stops: what is written. -/
def scrubWrite (s : State) (f : FaultRep) (c : Nat) : State :=
  let a := 8 * f.loc.toNat
  let n := s.draws
  match f.unit.toNat with
  | 0x01 =>
    if spadTop ≤ a then updCal s c fun k => { k with spad := clearRange k.spad (a / 64 * 64) 64 }
    else { updCal s c fun k => { k with spad := freshWord k.spad a n } with draws := n + 2 }
  | 0x02 =>
    let s1 := { updCal s c fun k => { k with grad := freshWord k.grad a n } with draws := n + 2 }
    corruptFrame s1 c (a / 262144)
  | _ => s

/-- Its outcome where it is not permanent. -/
def scrubCode (s : State) (f : FaultRep) (c : Nat) : Nat :=
  let a := 8 * f.loc.toNat
  match f.unit.toNat with
  | 0x01 => if spadTop ≤ a then 4 else 0
  | 0x02 => if frameLive s c (a / 262144) then 4 else 0
  | _ => 0

/-- A double-bit error that the scrub finds in a Caldera's store. -/
def scrubCal (s : State) (f : FaultRep) (k : List Nat) : State :=
  match wordOwner s f, calOf f with
  | some i, _ => attemptFault s f k i
  | none, none => s
  | none, some c =>
    if isLogged s k then startFence (scrubWrite (reportLog s f k none 3) f c) c
    else scrubWrite (reportLog s f k none (scrubCode s f c)) f c

/-- What the scrub does with an error it finds; its faults name no context. -/
def scrubbed (s : State) (g : FaultRep) : State :=
  let f := { g with ctx := none }
  let k := ((permKey f).map (·.1)).getD []
  if isSecded f.unit = false then s
  else if f.double = false then reportFault s f none 0
  else
    match f.unit.toNat with
    | 0x03 => sinterFault s f k
    | 0x04 => tephraFault s f k
    | 0x07 => cpMemFault s f
    | _ => scrubCal s f k

/-- SCRUB. -/
def execScrub (f : FaultRep) (s : State) : Host.Outcome State Fault Refusal :=
  if awake s then .next (scrubbed s f) else .next s

/-! ### CHECK_COMPARE (02 R96 to R101) -/

/-- LOC of a mismatch: the cell where one row and one column locate it (Table 14.1). A check row or check column among
the two names no cell of a tile (02 R56), so the model takes that pattern as not locating a cell, and its permanent
location is the Caldera (DESIGN CHOICE, log entry 149). For another pattern R101 locates the Caldera and Table 14.1
does not say which row and column stand in LOC: the model puts the first of each, 0 where there is none or where it is
the check row or column (DESIGN CHOICE, log entry 139). -/
def cellLoc (rows cols : List Nat) : Word :=
  match rows, cols with
  | [r], [c] => if r < 256 ∧ c < 256 then BitVec.ofNat 32 (r + 256 * c + 65536) else BitVec.ofNat 32 (r % 256 + 256 * (c % 256))
  | _, _ => BitVec.ofNat 32 (rows.headD 0 % 256 + 256 * (cols.headD 0 % 256))

/-- Runs of a Caldera with their next compare made; runs with no group left leave. -/
def comparedRuns (rs : List Run) : List Run :=
  (updFirst (fun r => decide (r.compared < r.promoted)) (fun r => { r with compared := r.compared + 1 }) rs).filter
    fun r => decide (r.compared < groupsOf r.k)

/-- The mismatch report of a group (R101). -/
def mismatchOf (s : State) (h : Handed) : Mismatch :=
  { ctx := h.ctx, item := (winItemOf s h.ctx).map fun i => (i.ch, i.seq), slot := h.slot, f32 := h.f32, index := h.index,
    rows := missedRows h, cols := missedCols h }

/-- The report of a group's compares (R98 to R101): nothing where they pass, else the mismatch and its fault. -/
def compareGroup (s : State) (c : Nat) (h : Handed) : State :=
  if missedRows h = [] ∧ missedCols h = [] then s
  else
    detected (updCal s c fun k => { k with mismatch := some (mismatchOf s h) })
      { unit := 0x11, cal := some (Fin.ofNat 4 c), ctx := some (Fin.ofNat 64 h.ctx),
        loc := cellLoc (missedRows h) (missedCols h), shared := false, double := false, saveBad := false }

/-- A handed-over group with the bits that faults have changed since then in the check column's register of a row (rows)
and in the check row's register of a column (cols); number 256 is the corner (log entry 135). -/
def strike (h : Handed) (rows cols : List (Fin 257 × BitVec 88)) : Handed :=
  let flip := fun (ts : List Chunk) (n : Nat) (x : BitVec 88) =>
    ts.modify n fun t => { t with c := t.c ^^^ x }
  let ts := rows.foldl (fun ts p => flip ts (257 * p.1.val + 256) p.2) h.chunks
  { h with chunks := cols.foldl (fun ts p => flip ts (257 * 256 + p.1.val) p.2) ts }

/-- CHECK_COMPARE: the compares of the oldest promoted group not yet compared report. -/
def execCheckCompare (c : Fin 4) (rows cols : List (Fin 257 × BitVec 88)) (s : State) : Host.Outcome State Fault Refusal :=
  match (getCal s c.val).groups with
  | [] => .next s
  | h :: r =>
    let s1 := updCal s c.val fun k => { k with runs := comparedRuns k.runs, groups := r }
    .next (settle (compareGroup s1 c.val (strike h rows cols)) h.ctx)

/-! ### Fences (R422, R424, R425; 10 R337) -/

/-- Rows of an item whose half-slot copy is damaged, which a replay would read (01 R39). -/
def damagedRows (s : State) (i : Item) : List (Nat × Nat) :=
  (usedRows s i).filter fun e => (getSlot s e.2).damaged && isHalf (getSlot s e.2)

/-- Rows of an item that a replay leaves unused: those with a damaged copy, and those whose stream is FAULTED (01 R35,
R39). -/
def lostAtReplay (s : State) (i : Item) : BitVec 256 :=
  ((usedRows s i).filter fun e => (damagedRows s i).contains e || decide ((getSlot s e.2).st = .faulted)).foldl
    (fun m e => m ||| BitVec.ofNat 256 (2 ^ e.1)) i.rowFault

/-- The streams of an item whose replay would read a damaged copy become FAULTED, and their rows are left unused (01
R39). -/
def faultDamaged (s : State) (i : Item) : State :=
  let s1 := (damagedRows s i).foldl (fun t e => if (getSlot t e.2).st = .faulted then t else faultStream t e.2 0x01) s
  setItem s1 { i with rowFault := lostAtReplay s i }

/-- Put an item of a window back into its queue (R421, R422; 08 R276): what it took from the local semaphores of this
Caldera goes back, and with `all` everything it took. It holds no generation of a table any more (08 R284). -/
def requeue (s : State) (i : Item) (all : Bool) : State :=
  let back := i.acqs.filter fun a => all || decide (a.sem < 1024)
  let kept := (i.acqs.filter fun a => !(all || decide (a.sem < 1024))).map fun a => { a with left := a.taken }
  let keep := if i.maskIn = true ∧ i.loading = 0 then
      loadBytes (getCal s i.cal).spad (keepBase i (maskBytes i)) (maskBytes i) else i.maskKeep
  let j := { i with place := .queued, stopped := false, ended := false, loading := 0, restoring := false, entered := false,
                    acqs := kept, defer := [], maskKeep := keep, starts := [], tables := [], back := true }
  let s1 := back.foldl (fun s a => semAdd s a.sem a.taken) (setItem (putBack s i) j)
  let s2 := (rowsOf s1 i).foldl (fun s p =>
    if dispatched s p.2 then s
    else updSlot s p.2 fun v => if v.st = .pinned then { v with st := .queued, resValid := false } else v) s1
  leaveWindow s2 i

/-- An item that has not executed in the attempt that it was placed for goes back to its queue; that costs it no attempt
(R422). One that waits for its replay on another Caldera or for its third attempt keeps its acquisitions (08 R276). -/
def requeueWaiting (s0 : State) (i0 : Item) : State :=
  let s := faultDamaged s0 i0
  match winItemOf s i0.ctx with
  | none => s
  | some i => requeue s { i with attempt := i.attempt - 1 } !(i.replayed || i.third)

/-- The executing item of a Caldera that is fenced goes back for a replay on the Caldera that takes over, or, after its
replay, for its third attempt (R421); one that has not executed yet goes back as a staged item (R422). -/
def requeueExec (s : State) (c : Nat) : State :=
  match execItem s c with
  | none => s
  | some i =>
    if i.entered = false then requeueWaiting s i
    else
      let s1 := faultDamaged s i
      match execItem s1 c with
      | none => s1
      | some i => requeue s1 (if i.replayed then { i with third := true } else { i with replayed := true }) false

/-- The staged item goes back (R422). -/
def requeueStaged (s : State) (c : Nat) : State :=
  match stagedItem s c with
  | none => s
  | some i => requeueWaiting s i

/-- A channel of a fenced bin: the first remaining bin that passes, or else the one of lowest utilisation (R337,
R424 step 6). -/
def retestChan (p : Nat) (s : State) (i : Nat) : State :=
  let q := getPart s p
  let bins := (trialOrder s p i q.bins.length).filter fun b => !(getCal s (q.bins.getD b 0)).fenced
  match (getChan s i).adm with
  | none => s
  | some a =>
    let b := (bins.find? fun b => (binTest (binFigs s p b i) (figOf a)).isNone).orElse fun _ => bins.head?
    match b with
    | none => s
    | some b => updChan s i fun c => { c with bin := some b }

/-- The admission change for a fenced Caldera (R337). -/
def degrade (s : State) (c : Nat) : State :=
  let p := (getCal s c).part
  let q := getPart s p
  if q.spare = some c then setPart s p { q with spare := none }
  else
    match (if q.full then none else q.spare) with
    | some sp => setPart s p { q with bins := q.bins.map (fun b => if b = c then sp else b), spare := none }
    | none =>
      ((admitted s p).filter fun e => (e.2.bin.bind fun b => q.bins[b]?) == some c).foldl
        (fun s e => retestChan p s e.1) s

/-- Queued items of a partition without an unfenced Caldera complete with FAULTED (R425). -/
def allFenced (s : State) (p : Nat) : State :=
  if openCals s p = [] then cancelQueued s (fun i => i.part == p) stFaulted else s

/-- Steps 3 to 7 of a fence (R424). -/
def finishFence (s : State) (c : Nat) : State :=
  let p := (getCal s c).part
  let s1 := startStep s 2 c 5 ((execItem s c).map (·.ctx)) []
  let s2 := requeueExec (requeueStaged s1 c) c
  let s3 := match running s2 2 c with
    | some q => endStep (engReset s2 c) q
    | none => s2
  let s4 := degrade (evictCal s3 c) c
  let s5 := postEvent s4 p 0x0011 (leBytes 1 c)
  let s6 := postEvent s5 p 0x0013 (leBytes 1 (openCals s5 p).length)
  allFenced (updCal s6 c fun k => { k with fenceDue := false }) p

/-- FENCE_CALDERA (R424): once the stopped attempt is quiescent. -/
def execFenceCaldera (c : Fin 4) (s : State) : Host.Outcome State Fault Refusal :=
  let due := (getCal s c.val).fenceDue
  let still := match execItem s c.val with
    | none => true
    | some i => !i.entered || (i.stopped && quiescent s i.ctx)
  if due && still then .next (finishFence s c.val) else .next s

/-! ### Watchdogs and hangs (R427 to R429) -/

/-- Limit of the progress watchdog of an item's image, in ticks. -/
def wdogLimit (s : State) (i : Item) : Nat :=
  let w := (imgOf s i.img).wdog
  if w = 0 then Config.wdogDefault else w

/-- WATCHDOG (R427): the executing item's context has issued no bundle within the limit. Its record carries
NOT_CLEARED: no OUTCOME of Table 14.4 names an item that completes with HALTED (DESIGN CHOICE, log entry 158). -/
def execWatchdog (x : Fin 64) (s : State) : Host.Outcome State Fault Refusal :=
  match itemOf s x.val with
  | none => .next s
  | some i =>
    let c := getCtx s x.val
    if mayIssue s x.val i = true ∧ c.beat + wdogLimit s i ≤ timeNow s then
      let s1 := report s (some i) 0x30 2 (some i.cal) (some x.val) (BitVec.ofNat 32 x.val)
      .next (haltIssue s1 x.val ((c.bun.map (·.ofs)).getD c.pc) 7 hWatchdog 0)
    else .next s

/-- HUNG_CONTEXT (R428): a halted context is not quiescent 200 µs after the halt. -/
def execHungContext (x : Fin 64) (s : State) : Host.Outcome State Fault Refusal :=
  if (getCtx s x.val).halted = true ∧ quiescent s x.val = false then
    .next (startStep s 1 x.val 4 (some x.val) [])
  else .next s

/-- CP_WDOG (R429), with a record of OUTCOME NOT_CLEARED (DESIGN CHOICE, log entry 158). -/
def execCpWdog (s : State) : Host.Outcome State Fault Refusal :=
  if s.cp.fwState ≠ .running then .next s
  else
    let s0 := report s none 0x31 2 none none 0
    let s1 := raiseFatal { s0 with cp := { s0.cp with fwState := .failed } } 1
    let again := s.flt.blockEnd.any fun t => decide (s.clk < t + 1000 * msClk)
    .next (if again then startStep s1 5 0 11 none [] else startStep s1 4 0 7 none [])

end Sys2Proof.Machine
end

