-- ==== Sys2Proof/Machine/Window.lean ====
section
/-! DEFINITION. The dispatch window: which item is placed, its grants, the start of an attempt, restores, execution,
replay, and commit (01 R35 to R42, R52; 02 R66; 05 R155, R156, R170, R172; 06 R177, R178, R186; 07 R240, R252; 08 R273
to R276, R284; 09 R313; 10 R334; 11 R340 to R342, R356; 14 R418 to R421). -/

namespace Sys2Proof.Machine

/-! ### Room for a grant (02 R66, 06 R177) -/

/-- Items in the window of a Caldera. -/
def windowOf (s : State) (c : Nat) : List Item := s.items.filter fun i => inWindow i && i.cal == c

/-- Ranges [a, a + n) and [b, b + m) do not meet. -/
def apart (a n b m : Nat) : Bool := decide (a + n ≤ b) || decide (b + m ≤ a) || decide (n = 0) || decide (m = 0)

/-- Scratchpad bytes that an image reserves. -/
def spadNeed (im : Image) : Nat := 1024 * im.spadKib

/-- The grant gives an image what it declares, apart from what the other items of the window hold. -/
def grantOk (im : Image) (g : Grant) (others : List Item) : Bool :=
  decide (g.slotBase + im.slots ≤ 8) && decide (popcount 2 g.halves.toNat = im.rowHalves)
    && decide (popcount 2 (g.halves.toNat / 4) = im.colHalves) && decide (g.laneBase % 16 = 0)
    && decide (g.laneBase + im.lanes ≤ 256) && decide (g.spadBase + spadNeed im ≤ spadTop)
    && others.all fun o =>
      apart g.slotBase im.slots o.slotBase o.slots && decide (g.halves &&& o.halves = 0) && !(im.decay && o.decay)
        && apart g.laneBase im.lanes o.laneBase o.laneN && apart g.spadBase (spadNeed im) o.spadBase o.spadLen

/-- A range of n within [0, lim) at a multiple of a step beside [a, a + m). -/
def gapFits (n lim step a m : Nat) : Bool :=
  decide (n ≤ a) || decide (ceilDiv (a + m) step * step + n ≤ lim) || decide (m = 0 ∧ n ≤ lim)

/-- A Caldera's window can take an item of an image (10 R334). -/
def roomFor (s : State) (c : Nat) (im : Image) : Bool :=
  !(getCal s c).fenced &&
  match windowOf s c with
  | [] => true
  | [o] => gapFits im.slots 8 1 o.slotBase o.slots
      && decide (im.rowHalves + popcount 2 o.halves.toNat ≤ 2)
      && decide (im.colHalves + popcount 2 (o.halves.toNat / 4) ≤ 2) && !(im.decay && o.decay)
      && gapFits im.lanes 256 16 o.laneBase o.laneN && gapFits (spadNeed im) spadTop 1 o.spadBase o.spadLen
  | _ => false

/-! ### The item that is placed (11 R342, R356) -/

/-- Amounts an item still has to acquire on Caldera c, by semaphore: those of its entry point's list that it does not
keep from an earlier placement (R356, 08 R276). -/
def toAcquire (s : State) (i : Item) (c : Nat) : List (Nat × Nat) :=
  ((imgOf s (placeImg s i)).acqs.getD i.e.entry []).foldl (fun l a =>
    let k := semKey a.glob c a.sem
    if i.acqs.any (·.sem == k) then l
    else if l.any (·.1 == k) then l.map fun e => if e.1 = k then (k, e.2 + a.amount) else e
    else l ++ [(k, a.amount)]) []

/-- Every semaphore of the list is shared, of the partition, and holds its amount. -/
def semsHold (s : State) (p : Nat) (l : List (Nat × Nat)) : Bool :=
  l.all fun e => decide ((getSem s e.1).bind = 2) && decide ((getSem s e.1).part = p)
    && decide (e.2 ≤ (getSem s e.1).value)

/-- No earlier accepted chunk names a stream of the item (R356); items stand in the order of acceptance. -/
def firstOfStreams (s : State) (i : Item) : Bool :=
  (s.items.takeWhile fun j => !sameItem i j).all fun j => j.e.streams.all fun h => !i.e.streams.contains h

/-- Contexts of a mask on Caldera c that an item of its partition may run on now. -/
def freeCtxs (s : State) (c : Nat) (mask : BitVec 64) : List Nat :=
  (calCtxs c).filter fun x => mask.getLsbD x && (getCtx s x).exist && (winItemOf s x).isNone

/-- Caldera of the item's bin. -/
def binCal (s : State) (i : Item) : Option Nat := (getChan s i.ch).bin.bind fun b => (getPart s i.part).bins[b]?

/-- The item may go to Caldera c: its bin's, or the spare when its own has no room (10 R334). -/
def mayPlace (s : State) (c : Nat) (i : Item) : Bool :=
  match binCal s i with
  | none => false
  | some b => decide (b = c) || (decide ((getPart s i.part).spare = some c) && !roomFor s b (imgOf s (placeImg s i)))

/-- An eligible on-time item of the partition waits (10 R329). -/
def onTimeWaits (s : State) (p : Nat) : Bool :=
  s.items.any fun i => i.part == p && decide (i.place = .queued) && i.eligible && !i.late

/-- The item asks for the window of Caldera c. -/
def asks (s : State) (c : Nat) (i : Item) : Bool :=
  decide (i.place = .queued) && i.part == (getCal s c).part && i.eligible && firstOfStreams s i && mayPlace s c i
    && semsHold s i.part (toAcquire s i c) && decide (freeCtxs s c (getChan s i.ch).mask ≠ [])
    && !(i.late && onTimeWaits s i.part)

/-- Key of an item at an arbiter pointer: late items last, then the deadline, then the channel from the pointer on. -/
def dispKey (ptr : Nat) (i : Item) : Nat × Nat × Nat := (b2n i.late, i.deadline, (i.ch + 256 - ptr) % 256)

/-- Key a comes before key b. -/
def keyLt (a b : Nat × Nat × Nat) : Bool :=
  decide (a.1 < b.1) || (decide (a.1 = b.1) &&
    (decide (a.2.1 < b.2.1) || (decide (a.2.1 = b.2.1) && decide (a.2.2 < b.2.2))))

/-- The first of each channel's items, in the order of acceptance (11 Table 11.1: ring order within a channel). -/
def ringFirst (l : List Item) : List Item := l.foldl (fun a i => if a.any (·.ch == i.ch) then a else a ++ [i]) []

/-- The item that wins the window of Caldera c (11 Table 11.1). -/
def winner (s : State) (c : Nat) : Option Item :=
  let ptr := (getCal s c).dispPtr
  (ringFirst (s.items.filter (asks s c))).foldl (fun b i =>
    match b with
    | none => some i
    | some b => if keyLt (dispKey ptr i) (dispKey ptr b) then some i else some b) none

/-! ### Lists of the entry (09 R313) -/

/-- Address of word n of a mask tensor, through its index values. -/
def maskAddr (d : Desc) (vals : List Nat) (n : Nat) : Int :=
  d.eff + ((withVal d vals [n]).headD 0 : Nat) * d.strides.headD 0

/-- The reset mask's descriptor through MASKH, and the addresses of its STEPS words of 256 bits, in step order (01 R49,
07 R237, R238). -/
def maskWords (s : State) (x : Nat) (i : Item) : Except Stop (Desc × List Nat) := do
  let h := i.e.maskh
  let d ← useDesc s x h
  stopIf (d.space = 1 ∨ d.space = 4) hDescInvalid (BitVec.ofNat 32 h)
  let vals ← valsOf s x d
  stopIf (d.ndim ≠ 1 ∨ (d.indirect = true ∧ vals.length < i.e.steps)) hDescShape (BitVec.ofNat 32 h)
  let word := maskAddr d vals
  let wild := fun (n : Nat) => d.indirect && decide (d.sizes.headD 0 ≤ vals.getD n 0)
  let out := fun (n : Nat) => decide (word n < d.base) || decide ((d.base : Int) + d.limit < word n + 32)
    || (decide (d.space = 0) && decide ((spadTop : Int) < word n + 32))
  let r := getRegion s (regIdx d.region)
  let off := fun (n : Nat) => decide (word n < r.base) || decide ((r.base : Int) + r.size < word n + 32)
  match (List.range i.e.steps).find? fun n => wild n || out n with
  | some n =>
    if wild n then .error (hIndexRange, BitVec.ofNat 32 (vals.getD n 0)) else .error (hBounds, lowWord (word n))
  | none =>
    stopIf (spaceOk s i.part d false = false ∨ linkOk s d = false) hRegionFault (lowWord d.eff)
    match (List.range i.e.steps).find? fun n => decide (d.space ≠ 0) && off n with
    | some n => .error (hRegionFault, lowWord (word n))
    | none => .ok (d, (List.range i.e.steps).map fun n => (word n).toNat)

/-- What a step of an item's loading answers: it waits for a read, it has failed, or it is done. -/
inductive Loaded where
  | wait (s : State) | stop (e : Stop) | done (s : State)
  deriving DecidableEq, Repr

/-- The descriptor list goes into the context's table (09 R313, 1): read at the first entry to a window, the same
bytes on a later one. -/
def loadDescs (s : State) (i : Item) : Loaded :=
  let r := getRegion s (regIdx i.e.dreg)
  let a := r.base + i.e.dofs
  let put := fun (s : State) (bs : List Byte) => updCal s (ctxCal i.ctx) fun k =>
    { k with spad := storeBytes k.spad (descAddr i.ctx i.e.dfirst) bs }
  match i.descs with
  | some bs => .done (put s bs)
  | none =>
    if i.e.dcount = 0 then .done (setItem s { i with descs := some [] })
    else if regLive s i.part i.e.dreg = false ∨ r.invalid = true ∨ (r.host = true ∧ hostUp s = false) then
      .stop (hRegionFault, BitVec.ofNat 32 a)
    else
      match fwRead s (.item i.ch i.seq 0) r.host [(a, 64 * i.e.dcount)] with
      | .wait t => .wait t
      | .bad => .stop (hRegionFault, BitVec.ofNat 32 a)
      | .here m =>
        let bs := loadBytes m a (64 * i.e.dcount)
        .done (put (setItem s { i with descs := some bs }) bs)

/-- The reset mask's copy is in the item's reservation, and MASKH names it. -/
def putMask (s : State) (i : Item) (bs : List Byte) : State :=
  keepBytes (setItem s { i with maskIn := true }) i (keepBase i (maskBytes i)) bs

/-- The reset mask goes into the item's reservation (09 R313, 2): read through MASKH at the first entry to a window, the
same words on a later one. -/
def loadMask (s : State) (i : Item) : Loaded :=
  if i.e.mask = false then .done s
  else if i.maskIn then .done (putMask s i i.maskKeep)
  else
    match maskWords s i.ctx i with
    | .error e => .stop e
    | .ok (d, ws) =>
      if d.space = 0 then .done (putMask s i (ws.flatMap fun a => loadBytes (getCal s (ctxCal i.ctx)).spad a 32))
      else
        match fwRead s (.item i.ch i.seq 1) (d.space == 3) (ws.map fun a => (a, 32)) with
        | .wait t => .wait t
        | .bad => .stop (hRegionFault, lowWord d.eff)
        | .here m => .done (putMask s i (ws.flatMap fun a => loadBytes m a 32))

/-! ### Rows (01 R35, R40, R42) -/

/-- Row r is reset at step 0. -/
def resetAtStart (s : State) (i : Item) (r : Nat) : Bool := (maskWord s i 0).getLsbD r

/-- Positions that the resident row of a slot takes. -/
def resSpan (v : Slot) : Nat × Nat :=
  if v.f32 then (v.resSlot / 2, (v.resSlot % 2 + v.resN + 1) / 2) else (v.resSlot, v.resN)

/-- The image processes the state in several segments (01 R27). -/
def segmented (s : State) (i : Item) : Bool :=
  match (imgOf s i.img).layers with
  | [] => false
  | l :: _ => decide (l.segM1 < l.widthM1)

/-- First row-image of the state that the array holds at the end of the item: that of its last segment (log entry
53). -/
def lastSeg (s : State) (i : Item) : Nat :=
  match (imgOf s i.img).layers with
  | [] => 0
  | l :: _ => l.widthM1 - l.segM1

/-- The stream of slot v is RESIDENT in the row, Caldera and slots that an item gives it (R40 rule 2). -/
def resMatches (s : State) (i : Item) (r v : Nat) : Bool :=
  let w := getSlot s v
  w.resValid && w.resCal == i.cal && w.resRow == r && decide ((stateSlots s i).head? = some w.resSlot)
    && !segmented s i

/-- A RESIDENT row stands in the positions granted to an item, whose operations reach every row of them, and the item
does not name its stream. -/
def inTheWay (s : State) (i : Item) (v : Nat) : Bool :=
  let w := getSlot s v
  let sp := resSpan w
  w.resValid && decide (w.st = .resident) && w.resCal == i.cal && !namesSlot s v i && !apart sp.1 sp.2 i.slotBase i.slots

/-- Put slot v into a list of slots in the order of eviction: QDEPTH 0 first, then the oldest COMMIT_TIME (R42). -/
def evictInsert (s : State) (v : Nat) : List Nat → List Nat
  | [] => [v]
  | w :: r =>
    let key := fun (n : Nat) => (min 1 (getSlot s n).qdepth, (getSlot s n).commit.toNat)
    if (key v).1 < (key w).1 ∨ ((key v).1 = (key w).1 ∧ (key v).2 < (key w).2) then v :: w :: r
    else w :: evictInsert s v r

/-- Evict the RESIDENT rows in the way of an item (R42). -/
def evictFor (s : State) (i : Item) : State :=
  (((List.range 4096).filter (inTheWay s i)).foldl (fun l v => evictInsert s v l) []).foldl evict s

/-- Rows of an item that run unused because their stream is FAULTED or their handle is stale (R35). -/
def badRows (s : State) (i : Item) : BitVec 256 :=
  (i.e.streams.zipIdx).foldl (fun m e =>
    if streamOk s e.1 = true ∧ (getSlot s (slotOf e.1)).st ≠ .faulted then m else m ||| BitVec.ofNat 256 (2 ^ e.2))
    i.rowFault

/-- Streams of the used rows become PINNED; a row that does not match its RES_ fields loses them. No rule says what
RES_VALID reads while a stream is PINNED: a matching row keeps it, although the chunk then overwrites that row, and the
others read 0 until their commit (DESIGN CHOICE, log entry 156). -/
def pinRows (s : State) (i : Item) : State :=
  (usedRows s i).foldl (fun s e =>
    updSlot s e.2 fun v =>
      { v with st := .pinned, resValid := resMatches s i e.1 e.2 }) s

/-- A used row needs a dispatcher restore. -/
def needsRestore (s : State) (i : Item) : Bool :=
  (usedRows s i).any fun e => !resetAtStart s i e.1 && !(getSlot s e.2).resValid

/-- Rows of full-slot states with the place of their starting copies, one after the other before the mask (R26). -/
def startPlaces (s : State) (i : Item) : List (Nat × Nat) :=
  let full := (usedRows s i).filter fun e => !isHalf (getSlot s e.2)
  let size := fun (l : List (Nat × Nat)) => (l.map fun e => stateBytes (getSlot s e.2)).sum
  full.zipIdx.map fun e => (e.1.1, keepBase i (maskBytes i + size full) + size (full.take e.2))

/-- The starting copies of full-slot states go into the item's reservation (R26). -/
def startCopies (s : State) (i : Item) : State :=
  (usedRows s i).foldl (fun t e =>
    match (startPlaces s i).find? fun p => decide (p.1 = e.1) with
    | none => t
    | some p => keepBytes t i p.2 (loadBytes (committed s e.2) 0 (stateBytes (getSlot s e.2)))) s

/-- Put the starting state of every used row into the state slots: zero for a row reset at step 0, the committed copy
for the others, or for those that `want` names (R40, R91). -/
def restoreRows (s : State) (i : Item) (want : Nat × Nat → Bool) : State :=
  let sl := stateSlots s i
  (usedRows s i).foldl (fun s e =>
    let f := (getSlot s e.2).f32
    let q := commitBase s i e.1 e.2
    if resetAtStart s i e.1 then
      updCal s i.cal fun k => sl.foldl (fun k n => setSlotRow k f n e.1 fun _ => 0) k
    else if want e then updCal s i.cal fun k => restoreRow k q.1 f sl 0 e.1 q.2
    else s) s

/-! ### The course of a dispatcher restore (01 R29; 11 R345 to R349, Table 11.1) -/

/-- Rows that a dispatcher restore of an item puts back: those that no array row held, or at a replay or before a
backward phase every row. -/
def wanted (s : State) (i : Item) (e : Nat × Nat) : Bool :=
  decide (1 < i.attempt) || i.fwdDone || !(getSlot s e.2).resValid

/-- A dispatcher restore of an item begins: the row-images of the rows that it puts back are to be collected. -/
def beginRest (s : State) (i : Item) : State :=
  let us := ((usedRows s i).filter fun e => !resetAtStart s i e.1 && wanted s i e).flatMap fun e =>
    (List.range (stateSlots s i).length).map fun n => (⟨i.ctx, e.1, e.2, n, []⟩ : RowImg)
  updCal (dropRest s i) i.cal fun k => { k with rest := k.rest ++ us, restSince := s.clk }

/-- A row-image's bytes in the committed copy. -/
def imgBytes (s : State) (i : Item) (u : RowImg) : List Byte :=
  let q := commitBase s i u.row u.slot
  let n := imageBytes (getSlot s u.slot).f32
  loadBytes q.1 (q.2 + u.no * n) n

/-- A row-image goes from its bytes into its slot's row. -/
def putImg (s : State) (i : Item) (u : RowImg) (bs : List Byte) : State :=
  updCal s i.cal fun k =>
    restoreRow k (storeBytes [] 0 bs) (getSlot s u.slot).f32 ((stateSlots s i).drop u.no |>.take 1) 0 u.row 0

/-- The row-image that a Caldera collects next from another quadrant. -/
def crossImg (s : State) (c : Nat) : Option RowImg := (getCal s c).rest.find? fun u => u.slot / 1024 ≠ c

/-- Caldera c asks for the outbound port of quadrant q: it has room in its restore buffer for what it asks for (11 R345,
R353). -/
def asksPort (s : State) (q c : Nat) : Bool :=
  ((crossImg s c).any fun u => u.slot / 1024 == q) && decide ((getCal s c).rbuf.length < 32)

/-- Order of a Caldera at an outbound port: aged by 4,096 FCLK, the oldest first; then DEADLINE; then the index from the
pointer on (11 R342, R343). -/
def portKey (s : State) (q c : Nat) : List Nat :=
  let k := getCal s c
  let place := (c + 5 - tget 0 q s.xqPtr % 5) % 5
  if 24576 ≤ s.clk - k.restSince then [0, k.restSince, 0, place]
  else [1, 0, ((crossImg s c).bind fun u => (winItemOf s u.ctx).map (·.deadline)).getD 0, place]

/-- The Caldera that the outbound port of quadrant q grants next. -/
def portWinner (s : State) (q : Nat) : Option Nat :=
  ((List.range 4).filter (asksPort s q)).foldl (fun o c =>
    match o with
    | none => some c
    | some b => if lexLt (portKey s q c) (portKey s q b) then some c else some b) none

/-- The outbound port of quadrant q, when it is free, carries one row-image into a restore buffer, in 2 FCLK. -/
def portCycle (s : State) (q : Nat) : State :=
  match (if tget 0 q s.xqFree ≤ s.clk then portWinner s q else none) with
  | none => s
  | some c =>
    match crossImg s c, (crossImg s c).bind fun u => winItemOf s u.ctx with
    | some u, some i =>
      let s1 := updCal s c fun k =>
        { k with rest := delFirst (fun v => decide (v = u)) k.rest, rbuf := k.rbuf ++ [{ u with bytes := imgBytes s i u }],
                 restSince := s.clk }
      { s1 with xqPtr := tput 0 q ((c + 1) % 5) s1.xqPtr, xqFree := tput 0 q (s.clk + 12) s1.xqFree }
    | _, _ => s

/-- One row-image goes into a slot of Caldera c: from the restore buffer, or else from the Caldera's own quadrant. -/
def slotWrite (s : State) (c : Nat) : State :=
  let k := getCal s c
  match k.rbuf, k.rest.find? fun u => u.slot / 1024 = c with
  | u :: r, _ =>
    let s1 := updCal s c fun k => { k with rbuf := r }
    (winItemOf s u.ctx).elim s1 fun i => putImg s1 i u u.bytes
  | [], some u =>
    let s1 := updCal s c fun k => { k with rest := delFirst (fun v => decide (v = u)) k.rest }
    (winItemOf s u.ctx).elim s1 fun i => putImg s1 i u (imgBytes s i u)
  | [], none => s

/-- Something of a dispatcher restore of an item is still to be collected or written. -/
def restLeft (s : State) (i : Item) : Bool :=
  let k := getCal s i.cal
  (k.rest ++ k.rbuf).any fun u => u.ctx == i.ctx

/-- The plane port of Caldera c is wanted by no operation of the executing item. -/
def planeFree (s : State) (c : Nat) : Bool := decide (tget 0 (pathNo .plane) (getCal s c).free ≤ s.clk)

/-- One ACLK cycle of the dispatcher restores: 4 KiB into the slots of each Caldera whose plane port is free, and a
row-image over each outbound port that is (01 R29, 11 R345). -/
def restCycle (s : State) : State :=
  let s1 := (List.range 4).foldl (fun s c => if planeFree s c then slotWrite (slotWrite s c) c else s) s
  (List.range 4).foldl portCycle s1

/-! ### The start of an attempt (07 Table 07.14) -/

/-- A training work item's deltas take this many bytes. -/
def deltaBytes (s : State) (i : Item) : Nat := ((imgOf s i.img).tiles.map tileBytes).sum

/-- The context as an attempt finds it: SR_STATE is given. A halt request stays pending over a replay in the window
(R257). -/
def startCtx (s : State) (i : Item) (sr : Word) (again : Bool) : Ctx :=
  let c := getCtx s i.ctx
  let w := fun (n : Nat) => BitVec.ofNat 32 n
  let cs := tput 0 2 (if i.e.mask then 1 else 0) (tput 0 1 (w i.e.rows) (tput 0 0 (w i.e.steps) []))
  { exist := c.exist, pc := (imgOf s i.img).entries.getD i.e.entry 0, c := cs, cPrev := cs, astat := startAstat c.astat,
    sr, srStart := sr, last := c.last, haltReq := again && c.haltReq, dbgHalt := c.dbgHalt, dbgStep := c.dbgStep,
    stalls := c.stalls, beat := timeNow s, defer := c.defer, trace := c.trace, semSave := c.semSave }

/-- Slots of the layers of records 1 on, which start from a zero state (R250). -/
def layerSlots (s : State) (i : Item) : List (Bool × Nat) :=
  ((imgOf s i.img).layers.drop 1).flatMap fun l =>
    let f := l.f32 == 1
    (List.range (l.segM1 + 1)).map fun n => (f, absSlot i f ((if f then 2 * l.slot0 else l.slot0) + n))

/-- Registers of a lane range. -/
def laneMask (i : Item) : BitVec 256 := BitVec.ofNat 256 ((2 ^ i.laneN - 1) * 2 ^ i.laneBase)

/-- An attempt starts on the item's context, again in its window or for the first time in it: its sequencer state, lane
registers, halves, zero layers and deltas. What checks have found in an earlier attempt and not reported is gone. -/
def startAttempt (s : State) (i : Item) (sr : Word) (again : Bool) : State :=
  let dz := if trainingItem s i then min (deltaBytes s i) i.spadLen else 0
  let s1 := emptyHalves (setCtx s i.ctx (startCtx s i sr again)) i.cal i.halves
  updCal s1 i.cal fun k =>
    let k1 := (layerSlots s i).foldl (fun k e => setSlotPlane k e.1 e.2 fun _ _ => 0) k
    { k1 with found := k1.found.filter (fun f => f.ctx.map (·.val) != some i.ctx),
              written := k1.written &&& ~~~laneMask i, spad := clearRange k1.spad i.spadBase dz }

/-- Private semaphores of a context, with their values (08 R273). -/
def privates (s : State) (x : Nat) : List (Nat × Nat) :=
  (s.sems.filter fun e => e.2.bind == 1 && e.2.ctx == x).map fun e => (e.1, e.2.value)

/-! ### DISPATCH_PLACE -/

/-- The item with its grants and acquisitions (02 R66, 08 R274, R284). -/
def granted (s : State) (c : Nat) (g : Grant) (i : Item) : Item :=
  let h := placeImg s i
  let im := imgOf s h
  let tabs := (s.tables.filter fun e => e.2.live && e.2.part == i.part).map fun e => (e.1, e.2.gen)
  { i with place := if windowOf s c = [] then .exec else .staged, cal := c, ctx := g.ctx.val, slotBase := g.slotBase,
           slots := im.slots, halves := g.halves, decay := im.decay, laneBase := g.laneBase, laneN := im.lanes,
           spadBase := g.spadBase, spadLen := spadNeed im, img := h, imgStart := h,
           entered := false,
           attempt := i.attempt + 1, acqs := i.acqs ++ (toAcquire s i c).map (fun e => ⟨e.1, e.2, e.2⟩),
           tables := tabs, ended := false, stopped := false, adds := false,
           fwdDone := false, yields := 0, fail := false,
           sr0 := some (i.sr0.getD (getCtx s g.ctx.val).sr) }

/-- The streams of a placed item enter its window (01 R35, R42, Table 01.5). -/
def enterRows (s : State) (i : Item) : State :=
  let i1 := { i with rowFault := badRows s i, starts := [] }
  pinRows (evictFor (setItem s i1) i1) i1

/-- The first restore of a placed item begins (01 R26, R40). -/
def firstRestore (s : State) (i : Item) : State :=
  let s1 := startCopies ((usedRows s i).foldl (fun t e =>
    if resetAtStart s i e.1 then updSlot t e.2 fun v => { v with resValid := false } else t) s) i
  let i1 := { i with starts := startPlaces s i, restoring := needsRestore s1 i }
  let s2 := restoreRows (setItem s1 i1) i1 fun _ => false
  if i1.restoring then beginRest s2 i1 else s2

/-- A list of a placed item cannot be read: its context halts before its first bundle. -/
def loadStop (s : State) (i : Item) (e : Stop) : State :=
  haltIssue (setItem s { i with loading := 0 }) i.ctx (getCtx s i.ctx).pc 7 e.1 e.2

/-- The reset mask of a placed item, and then its first restore. -/
def loadLast (s : State) (x : Nat) : State :=
  match winItemOf s x with
  | none => s
  | some i =>
    match loadMask s i with
    | .wait t => t
    | .stop e => loadStop s i e
    | .done t => (winItemOf t x).elim t fun j => firstRestore t { j with loading := 0 }

/-- The lists of a placed item, one after the other (09 R313). -/
def loadLists (s : State) (i : Item) : State :=
  if i.loading = 2 then loadLast s i.ctx
  else
    match loadDescs s i with
    | .wait t => t
    | .stop e => loadStop s i e
    | .done t => (winItemOf t i.ctx).elim t fun j => loadLast (setItem t { j with loading := 2 }) i.ctx

/-- Place the item (R66, R356): its grant and acquisitions, its rows, the start of its attempt, and its lists. -/
def placeItem (s : State) (c : Nat) (g : Grant) (i : Item) : State :=
  let j := { granted s c g i with loading := 1 }
  let s1 := (toAcquire s i c).foldl (fun s e => updSem s e.1 fun v => { v with value := v.value - e.2 }) (setItem s j)
  let s2 := enterRows (updCal s1 c fun k => { k with dispPtr := (i.ch + 1) % 256 }) j
  let s3 := startAttempt s2 j (j.sr0.getD 0) false
  let s4 := updCtx s3 j.ctx fun x => { x with semSave := privates s3 j.ctx }
  (winItemOf s4 j.ctx).elim s4 (loadLists s4)

/-- The block is in IDLE, or POWER_STATE IDLE waits for the windows to empty (15 R448). -/
def idling (s : State) : Bool :=
  decide (s.life.pstate = .idle) || s.mbs.any fun e => decide (e.2.st = .busy) && decide (e.2.wait = .idle)

/-- DISPATCH_PLACE (02 R66, 09 R313, 10 R334, 11 R342, R356): an item of the window that waits for its lists goes on
with them; or else the winner of the Caldera's window is placed with a grant that fits it. A winner of a damaged image
completes with IMAGE_CHANGED (07 R245). -/
def execDispatchPlace (c : Fin 4) (g : Grant) (s : State) : Host.Outcome State Fault Refusal :=
  let k := getCal s c.val
  let w := windowOf s c.val
  if s.life.phase ≠ .running ∨ k.fenced = true ∨ k.held = true then .next s
  else
    match w.find? (fun i => decide (i.loading ≠ 0) && !i.stopped), winner s c.val with
    | some i, _ => .next (loadLists s i)
    | none, none => .next s
    | none, some i =>
      let im := imgOf s (placeImg s i)
      if 2 ≤ w.length ∨ idling s = true then .next s
      else if im.damaged then .next (finishItem s i stImageChanged)
      else if (freeCtxs s c.val (getChan s i.ch).mask).contains g.ctx.val = true ∧ grantOk im g w = true then
        .next (placeItem s c.val g i)
      else .next s

/-! ### RESTORE_COMPLETE and EXECUTE_START -/

/-- Rows whose state a save of an item writes. -/
def savedRows (s : State) (i : Item) : List (Nat × Nat) :=
  (usedRows s i).filter fun e => decide ((getSlot s e.2).st = .pinned)

/-- Write the state rows of an item into the uncommitted halves or in place (01 R36). -/
def saveRows (s : State) (i : Item) : State :=
  { s with sinter := (savedRows s i).foldl (fun m e =>
      saveRow (getCal s i.cal) m (getSlot s e.2).f32 (stateSlots s i) (lastSeg s i) e.1 (saveBase s e.2)) s.sinter }

/-- Checks have found a fault of the item that FAULT_DETECTED has not reported yet. -/
def foundOf (s : State) (i : Item) : Bool :=
  (getCal s i.cal).found.any fun f => f.ctx.map (·.val) == some i.ctx

/-- The parity check of a save's reads (02 R77, R102). -/
def noteSave (s : State) (i : Item) : State :=
  (savedRows s i).foldl (fun t e => noteParity t i.ctx (getSlot s e.2).f32 (stateSlots s i) [e.1]) s

/-- Save and go on, unless a read of the save finds a parity error, which then waits for its report (02 R77). -/
def saveChecked (s : State) (i : Item) (f : State → State) : State :=
  let t := noteSave s i
  if foundOf t i then t else f s

/-- The forward phase of a training item ends: its state rows are written, and the restore of the starting states
begins (05 R155, R156). A half-slot copy that a scrub has marked damaged meanwhile is read as it stands, as the
running chunk goes on under 01 R39: the spec does not say what this restore does with it (DESIGN CHOICE, log entry
142). -/
def endForward (s : State) (i : Item) : State :=
  let need := (usedRows s i).any fun e => !resetAtStart s i e.1
  let j := { i with fwdDone := true, fwdAt := some (i.fwdAt.getD (getCtx s i.ctx).bundles), restoring := need }
  let s1 := restoreRows (saveRows (setItem s j) i) j fun _ => false
  if need then beginRest (updCtx s1 i.ctx fun c => { c with pausedAt := timeNow s }) j else s1

/-- Flags of a dispatcher restore's normalisation of P64 pairs (03 R108). -/
def restoreFl (s : State) (i : Item) : Fl :=
  ((usedRows s i).filter fun e => !resetAtStart s i e.1 && wanted s i e).foldl (fun f e =>
    let q := commitBase s i e.1 e.2
    f ||| restoreRowFlags q.1 (getSlot s e.2).f32 (stateSlots s i).length 0 q.2) 0

/-- A restore of an item finishes. The flags of its normalisation go into ASTAT, where they halt nothing, as no bundle
issued it (DESIGN CHOICE, log entry 160). The watchdog goes on where a restore before a backward phase has paused it,
and otherwise starts with the attempt (14 R427). -/
def endRestore (s : State) (i : Item) : State :=
  let s1 := restoreRows (setItem (dropRest s i) { i with restoring := false }) i (wanted s i)
  updCtx s1 i.ctx fun c =>
    { c with astat := c.astat ||| (restoreFl s i).setWidth 32,
             beat := if i.fwdDone then c.beat + (timeNow s - c.pausedAt) else timeNow s }

/-- The forward phase of the executing training item may end: at a bundle boundary or behind END, with nothing that it
issued left; in a later attempt where that of an earlier one ended (05 R161). -/
def forwardDue (s : State) (i : Item) : Bool :=
  trainingItem s i && mayIssue s i.ctx i && !i.fwdDone && decide ((getCtx s i.ctx).bun = none) && quiescent s i.ctx
    && !foundOf s i && decide (i.fwdAt.getD (getCtx s i.ctx).bundles = (getCtx s i.ctx).bundles)

/-- RESTORE_COMPLETE (01 R40, 05 R156): the dispatcher restore of the executing item, or else of the staged one, which
waits while an operation of the executing item has the plane port (11 R345); what is left of it is put in place now.
With none outstanding, the end of the forward phase of an executing training item, which begins the restore of its
backward phase (log entry 54). -/
def execRestoreComplete (c : Fin 4) (s : State) : Host.Outcome State Fault Refusal :=
  match (windowOf s c.val).find? (fun i => i.restoring && decide (i.place = .exec)),
        (windowOf s c.val).find? (·.restoring), execItem s c.val with
  | some i, _, _ => .next (endRestore s i)
  | none, some i, _ => if restLeft s i = true ∧ planeFree s c.val = false then .next s else .next (endRestore s i)
  | none, none, some i => if forwardDue s i then .next (saveChecked s i fun t => endForward t i) else .next s
  | none, none, none => .next s

/-- EXECUTE_START (11 R341): the item that entered the window first takes the array issue grant once it is restored. -/
def execExecuteStart (c : Fin 4) (s : State) : Host.Outcome State Fault Refusal :=
  match execItem s c.val with
  | none => .next s
  | some i =>
    if i.entered = false ∧ i.loading = 0 ∧ i.restoring = false ∧ i.stopped = false ∧ (getCal s c.val).fenced = false then
      let us := if i.imgs.contains i.img then i.imgs else i.imgs ++ [i.img]
      .next (updCtx (setItem s { i with entered := true, imgs := us }) i.ctx fun x => { x with beat := timeNow s })
    else .next s

/-! ### REPLAY_START (14 R418, R419; 01 R39) -/

/-- The item at the start of its replay; the attempt after a replay is the third (R421). -/
def replayItem (i : Item) : Item :=
  { i with stopped := false, ended := false, replayed := true, third := i.third || i.replayed, attempt := i.attempt + 1,
           img := i.imgStart, acqs := i.acqs.map (fun a => { a with left := a.taken }), defer := [], adds := false,
           fwdDone := false, yields := 0 }

/-- The replay of a stopped item starts; one that still waits for its lists goes on with them. -/
def startReplay (s0 : State) (i0 : Item) : State :=
  let s1 := faultDamaged s0 i0
  match winItemOf s1 i0.ctx with
  | none => s1
  | some i =>
    let j := replayItem i
    let c := getCtx s1 i.ctx
    let s2 := c.semSave.foldl (fun s e => updSem s e.1 fun v => { v with value := e.2 }) (setItem s1 j)
    let s3 := startAttempt s2 j c.srStart true
    let need := (usedRows s3 j).any fun e => !resetAtStart s3 j e.1
    if j.loading ≠ 0 then s3
    else
      let s4 := restoreRows (setItem s3 { j with restoring := need }) j fun _ => false
      if need then beginRest s4 j else s4

/-- REPLAY_START (R419): a stopped attempt is quiescent. -/
def execReplayStart (c : Fin 4) (s : State) : Host.Outcome State Fault Refusal :=
  match (windowOf s c.val).find? fun i => i.stopped && !i.fail with
  | none => .next s
  | some i =>
    if quiescent s i.ctx = true ∧ (getCal s c.val).fenced = false then .next (startReplay s i) else .next s

/-! ### CHUNK_COMMIT (01 R36, R37, R52; 05 R172, R173; 08 R275) -/

/-- Byte of the gradient buffer where a tile's total starts (05 R169). -/
def totalAddr (t : Tile) : Nat := t.frame * 262144 + (if t.row then 1024 * t.frow else 0)

/-- Fold one delta into its total, with the flags (05 R172). -/
def foldTile (spad : Mem) (a : Mem × Fl) (t : Tile) (d : Nat) : Mem × Fl :=
  let f := t.row || !t.p64
  let n := if f then 4 else 8
  (List.range (tileBytes t / n)).foldl (fun a e =>
    let r := addElem f a.1 (totalAddr t + n * e) (decSlot f (load spad (d + n * e) n))
    (r.1, a.2 ||| r.2)) a

/-- The gradient fold of a training item, in tile order; its flags go into ASTAT (log entry 55). -/
def foldAll (s : State) (i : Item) : State :=
  if trainingItem s i then
    let k := getCal s i.cal
    let q := ((imgOf s i.img).tiles.zipIdx).foldl (fun a e => foldTile k.spad a e.1 (deltaAddr s i e.2)) (k.grad, 0)
    updCtx (setCal s i.cal { k with grad := q.1 }) i.ctx fun c => { c with astat := c.astat ||| q.2.setWidth 32 }
  else s

/-- STEPS after a commit (R52): from the row's last reset on, or the whole chunk added. -/
def stepsAfter (s : State) (i : Item) (r : Nat) (v : Slot) : BitVec 64 :=
  match (List.range i.e.steps).reverse.find? fun p => (maskWord s i p).getLsbD r with
  | some p => BitVec.ofNat 64 (i.e.steps - p)
  | none => v.steps + BitVec.ofNat 64 i.e.steps

/-- The slot-table update of one committed row (R36, Table 01.5); s is the state at the commit. R36 sets RES_VALID
after a training commit too, although the row then holds what the backward phase left in it and Table 01.4 asks for an
identical copy: the model follows R36, and a matching next chunk starts without a restore (DESIGN CHOICE, log entry
143). -/
def commitRow (s : State) (i : Item) (r : Nat) (v : Slot) : Slot :=
  let d := v.qdepth - 1
  { v with half := isHalf v && !v.half, seq := v.seq + 1, steps := stepsAfter s i r v, commit := BitVec.ofNat 64 (timeNow s),
           resValid := true, resCal := i.cal, resRow := r, resSlot := (stateSlots s i).headD 0,
           resN := (stateSlots s i).length, st := .resident, qdepth := d,
           chValid := v.chValid && decide (0 < d), damaged := false }

/-- Rows that a commit carries: used, PINNED, and written. -/
def goodRows (s : State) (i : Item) (bad : List (Fin 256)) : List (Nat × Nat) :=
  (usedRows s i).filter fun e =>
    decide ((getSlot s e.2).st = .pinned) && !(bad.any fun b => b.val == e.1)

/-- The other rows of the item. -/
def lostRows (s : State) (i : Item) (bad : List (Fin 256)) : List (Nat × Nat) :=
  (rowsOf s i).filter fun e => !(goodRows s i bad).contains e

/-- Commit an item (R36): state rows, fold, slot table, releases, record, and the window. -/
def commitItem (s : State) (i : Item) (bad : List (Fin 256)) : State :=
  let good := goodRows s i bad
  let lost := lostRows s i bad
  let s1 := foldAll (if i.fwdDone then s else saveRows s i) i
  let s2 := good.foldl (fun t e => updSlot t e.2 (commitRow s1 i e.1)) s1
  let s3 := (lost.filter fun e => decide ((getSlot s e.2).st = .pinned)).foldl (fun s e => faultStream s e.2 0x02) s2
  let s4 := i.defer.foldl (fun s e => semAdd s e.1 e.2) s3
  let i1 := { i with rowFault := lost.foldl (fun m e => m ||| BitVec.ofNat 256 (2 ^ e.1)) i.rowFault }
  let s5 := owePost { s4 with items := delFirst (sameItem i) s4.items } i1 stOk
  let s6 := lost.foldl (fun s e => endChunk s e.2) s5
  resolveChDestroy (resolveForce (leaveWindow s6 i1))

/-- An engine reads a frame of the gradient buffer of Caldera c that a fold of item i's tiles writes (05 R173). -/
def frameRead (s : State) (i : Item) (t : Xfer) : Bool :=
  let fs := (imgOf s i.img).tiles.flatMap tileFrames
  t.started && decide (t.src.space = 1) && t.scal == i.cal &&
    (xferElems t).any fun e => fs.contains (addrOf t.src t.sidx e / 262144)

/-- The fold of a training item waits (05 R173): for an earlier training item of its channel that is dispatched to this
Caldera, and for an engine's read of one of its frames. -/
def foldWaits (s : State) (i : Item) : Bool :=
  trainingItem s i &&
    (((s.items.takeWhile fun j => !sameItem i j).any fun j =>
        inWindow j && j.cal == i.cal && j.ch == i.ch && trainingItem s j)
      || (allXfers s).any (frameRead s i))

/-- Everything the executing item issued has reached its place and been checked, a training item has run both its
phases, and its fold need not wait (R36, 05 R155, R173, 07 R219). -/
def commitDue (s : State) (i : Item) : Bool :=
  i.ended && i.entered && !i.stopped && !i.restoring && decide (i.halt.reason = 0)
    && decide ((getCtx s i.ctx).bun = none) && quiescent s i.ctx && (!trainingItem s i || i.fwdDone) && !foldWaits s i
    && !foundOf s i

/-- CHUNK_COMMIT: `bad` names the rows whose state write failed twice. -/
def execChunkCommit (c : Fin 4) (bad : List (Fin 256)) (s : State) : Host.Outcome State Fault Refusal :=
  match execItem s c.val with
  | none => .next s
  | some i =>
    if commitDue s i = false then .next s
    else if i.fwdDone then .next (commitItem s i bad)
    else .next (saveChecked s i fun t => commitItem t i bad)

end Sys2Proof.Machine
end

