-- ==== Sys2Proof/Machine/Registers.lean ====
section
/-! DEFINITION. The register window: mailbox control, forced escalation, doorbells, interrupt and fatal status, TIME,
and writes of the other locations (09_command_interface.md R293 to R297, R309, Tables 09.1 to 09.9; 12 R373, R379). -/

namespace Sys2Proof.Machine

/-- The window answers while the block is out of power-on reset, but not while CRP_PWR_SAFE reads 1 in RETAIN or OFF
(R294), END apart, which leaves the registers of Table 09.1 live (15 R454; log entry 99). -/
def windowLive (s : State) : Bool :=
  decide (s.life.phase ≠ .held)
    && (!s.life.pwrSafe || decide (s.life.lc = 7) || decide (s.life.pstate = .active) || decide (s.life.pstate = .idle))

/-- An access to the window: nothing happens while the window does not answer. -/
def access (f : State → State) (s : State) : Host.Outcome State Fault Refusal :=
  if windowLive s then .next (f s) else .next s

/-! ### Mailboxes (R297) -/

/-- RING: a mailbox that is not BUSY becomes BUSY behind those rung before it; a BUSY one sets OVERRUN. -/
def mbRing (m : Nat) (s : State) : State :=
  let b := getMb s m
  if b.st = .busy then setMb s m { b with overrun := true }
  else { setMb s m { b with st := .busy, rsp := [], wait := .none } with mbOrder := s.mbOrder ++ [m] }

/-- RELEASE: DONE returns to IDLE. -/
def mbRelease (m : Nat) (s : State) : State :=
  let b := getMb s m
  if b.st = .done then setMb s m { b with st := .idle } else s

/-- W1C of OVERRUN. -/
def mbOverrunClear (m : Nat) (s : State) : State := updMb s m fun b => { b with overrun := false }

/-- MB_RING. -/
def execMbRing (m : Mb) (s : State) : Host.Outcome State Fault Refusal := access (mbRing m.val) s

/-- MB_RELEASE. -/
def execMbRelease (m : Mb) (s : State) : Host.Outcome State Fault Refusal := access (mbRelease m.val) s

/-- MB_OVERRUN_CLEAR. -/
def execMbOverrunClear (m : Mb) (s : State) : Host.Outcome State Fault Refusal := access (mbOverrunClear m.val) s

/-! ### FORCE_ESC (R296) -/

/-- A FORCE_ESC write starts the step of a level that it names with the key. -/
def forceEsc (level : Nat) (w : Word) (s : State) : State :=
  if w.toNat / 65536 = 0xE5C4 ∧ w.toNat % 8 = level then startStep s level 0 2 none [] else s

/-- FORCE_BLOCK_RESET. -/
def execForceBlockReset (w : Word) (s : State) : Host.Outcome State Fault Refusal := access (forceEsc 4 w) s

/-- FORCE_POWER_CYCLE. -/
def execForcePowerCycle (w : Word) (s : State) : Host.Outcome State Fault Refusal := access (forceEsc 5 w) s

/-! ### Doorbells (R309, 10 R326) -/

/-- Entries of a ring between two indices. -/
def ringDist (prod cons : BitVec 16) : Nat := (prod - cons).toNat

/-- Entries that the SQ of a channel has free. -/
def sqFree (c : Chan) : Nat := 2 ^ c.sqLog - 1 - ringDist c.sqProd c.sqCons

/-- SQ_DB of channel index i: PROD, the stamps of the entries it covers first, and the overflow check. -/
def sqDoorbell (i : Nat) (prod : BitVec 16) (s : State) : State :=
  let c := getChan s i
  let adv := ringDist prod c.sqProd
  if c.live = false then setChan s i { c with sqProd := prod }
  else if sqFree c < adv then
    postEvent (setChan s i { c with sqProd := prod, st := .ringError }) c.part 0x0040 (leBytes 2 (chanHandle s i))
  else if c.st = .hostLost ∨ c.st = .ringError then setChan s i { c with sqProd := prod }
  else setChan s i { c with sqProd := prod, stamps := c.stamps ++ List.replicate adv (timeNow s) }

/-- SQ_DB_WRITE. -/
def execSqDbWrite (i : Fin 256) (w : Word) (s : State) : Host.Outcome State Fault Refusal :=
  access (sqDoorbell i.val (w.setWidth 16)) s

/-- CQ_DB of channel index i: CONS. -/
def cqDoorbell (i : Nat) (w : Word) (s : State) : State := updChan s i fun c => { c with cqCons := w.extractLsb' 16 16 }

/-- CQ_DB_WRITE. -/
def execCqDbWrite (i : Fin 256) (w : Word) (s : State) : Host.Outcome State Fault Refusal :=
  access (cqDoorbell i.val w) s

/-- EQ_DB of partition p: CONS. -/
def eqDoorbell (p : Nat) (w : Word) (s : State) : State := updPart s p fun q => { q with eqCons := w.extractLsb' 16 16 }

/-- EQ_DB_WRITE. -/
def execEqDbWrite (p : Fin 4) (w : Word) (s : State) : Host.Outcome State Fault Refusal :=
  access (eqDoorbell p.val w) s

/-! ### Status registers and TIME -/

/-- W1C of INT_STATUS. -/
def intWrite (w : Word) (s : State) : State := { s with cp := { s.cp with intStatus := s.cp.intStatus &&& ~~~w } }

/-- An enabled bit of INT_STATUS among those of a mask. -/
def enabledInt (s : State) (mask : Word) : Bool := decide (s.cp.intStatus &&& s.cp.intEnable &&& mask ≠ 0)

/-- The event interrupt output: EVENT, MBOX or CQ with its enable (R296). -/
def eventInt (s : State) : Bool := enabledInt s 0b11001

/-- The fault interrupt output: FAULT with its enable (R296). -/
def faultInt (s : State) : Bool := enabledInt s 0b00010

/-- The fatal interrupt output: FATAL with its enable (R296). -/
def fatalInt (s : State) : Bool := enabledInt s 0b00100

/-- INT_STATUS_WRITE. -/
def execIntStatusWrite (w : Word) (s : State) : Host.Outcome State Fault Refusal := access (intWrite w) s

/-- W1C of FATAL_STATUS bits [4:0]; LAST_STEP stays. -/
def fatalWrite (w : Word) (s : State) : State :=
  { s with cp := { s.cp with fatal := s.cp.fatal &&& ~~~(w &&& 0x1F) } }

/-- FATAL_STATUS_WRITE. -/
def execFatalStatusWrite (w : Word) (s : State) : Host.Outcome State Fault Refusal := access (fatalWrite w) s

/-- A read of TIME_LO: TIME[31:0], with TIME[63:32] latched into TIME_HI. -/
def readTimeLo (s : State) : State :=
  let t := timeNow s
  { s with cp := { s.cp with icpl := BitVec.ofNat 32 t, timeHi := BitVec.ofNat 32 (t / 2 ^ 32) } }

/-- TIME_LO_READ. -/
def execTimeLoRead (s : State) : Host.Outcome State Fault Refusal := access readTimeLo s

/-! ### REGISTER_WRITE (R293, R297) -/

/-- MB_CTRL: OVERRUN is cleared, then RELEASE, then RING act. -/
def mbCtrlWrite (m : Nat) (w : Nat) (s : State) : State :=
  let s1 := if bit w 4 then mbOverrunClear m s else s
  let s2 := if bit w 3 then mbRelease m s1 else s1
  if bit w 0 then mbRing m s2 else s2

/-- A write of a 32-bit register. -/
def wordWrite (a : Nat) (w : Word) (s : State) : State :=
  if a = 0x10 then fatalWrite w s
  else if a = 0x14 then forceEsc 5 w (forceEsc 4 w s)
  else if a = 0x20 then intWrite w s
  else if a = 0x24 then { s with cp := { s.cp with intEnable := w &&& 0x1F } }
  else if 0x100 ≤ a ∧ a < 0x140 then mbCtrlWrite ((a - 0x100) / 4) w.toNat s
  else if 0x20000 ≤ a ∧ a < 0x20400 then sqDoorbell ((a - 0x20000) / 4) (w.setWidth 16) s
  else if 0x30000 ≤ a ∧ a < 0x30400 then cqDoorbell ((a - 0x30000) / 4) w s
  else if 0x40000 ≤ a ∧ a < 0x40010 then eqDoorbell ((a - 0x40000) / 4) w s
  else s

/-- Offset within the command buffers: mailbox and byte. -/
def cmdBuffer (a : Nat) : Option (Nat × Nat) :=
  if 0x10000 ≤ a ∧ a < 0x12000 ∧ a % 0x200 < 0x100 then some ((a - 0x10000) / 0x200, a % 0x200) else none

/-- An access of the mailbox buffers: 4, 8, 16, 32 or 64 B. -/
def bufferSize (n : Nat) : Bool := n == 4 || n == 8 || n == 16 || n == 32 || n == 64

/-- Write the bytes of a list whose enables are 1 (12 R371). -/
def storeEnabled (m : Mem) (a : Nat) (bs : List Byte) (be : BitVec 64) : Mem :=
  (bs.zipIdx).foldl (fun m e => if be.getLsbD e.2 then storeByte m (a + e.2) e.1 else m) m

/-- A write of n bytes at an offset, with the byte enables of its n bytes: command buffers take aligned accesses of 4 to
64 B while their mailbox is not BUSY, registers aligned words; everything else is ignored. A word of a register with an
enable of 0 counts as a write of another size (DESIGN CHOICE, log entry 162). -/
def windowWrite (a n : Nat) (data : BitVec 512) (be : BitVec 64) (s : State) : State :=
  if a % n ≠ 0 then s
  else
    match cmdBuffer a with
    | some (m, o) =>
      if bufferSize n = false ∨ (getMb s m).st = .busy then s
      else updMb s m fun b => { b with cmd := storeEnabled b.cmd o (leBytes n data.toNat) be }
    | none => if n = 4 ∧ be.toNat % 16 = 15 then wordWrite a (data.setWidth 32) s else s

/-- REGISTER_WRITE; one with bad parity is discarded and reported (12 R379). -/
def execRegisterWrite (ofs : BitVec 24) (size : Nat) (data : WinData) (parOk : Bool) (s : State) :
    Host.Outcome State Fault Refusal :=
  access (fun s => if parOk then windowWrite ofs.toNat size data.data data.be s else report s none 0x21 0 none none 0) s

end Sys2Proof.Machine
end

