-- ==== Sys2Proof/Machine/Take.lean ====
section
/-! DEFINITION. Ring entries: which is taken, its checks, acceptance, and when it becomes eligible (09 R309 to R312,
Table 09.14; 10 R325 to R329, R338; 01 R15 to R22; 11 Table 11.1). -/

namespace Sys2Proof.Machine

/-! ### Taking an entry (R310) -/

/-- Records that the channel owes: those to be posted, and those of its items that are not complete. -/
def owed (s : State) (i : Nat) : Nat :=
  (s.posts.filter (·.ch == i)).length + (s.items.filter fun t => t.ch == i && !t.silent).length

/-- The CQ has room for one more record than it owes. -/
def cqRoom (s : State) (i : Nat) : Bool :=
  let c := getChan s i
  decide (ringDist c.cqProd c.cqCons + owed s i + 1 ≤ 2 ^ c.cqLog - 1)

/-- A CHANNEL_DESTROY of the channel waits. -/
def closing (s : State) (i : Nat) : Bool :=
  s.mbs.any fun e => decide (e.2.st = .busy) && decide (e.2.wait = .chDestroy i)

/-- The channel has an entry that may be taken. -/
def hasEntry (s : State) (i : Nat) : Bool :=
  let c := getChan s i
  c.live && decide (c.st = .admitted) && decide (c.sqProd ≠ c.sqCons) && cqRoom s i && !closing s i

/-- The first channel of a partition, from its pointer on, whose entry may be taken and that meets p. -/
def pickChan (s : State) (p : Nat) (f : Nat → Bool) : Option Nat :=
  ((List.range 256).map fun n => ((getPart s p).sqPtr + n) % 256).find? fun i =>
    (getChan s i).part == p && hasEntry s i && f i

/-- The channel of a partition whose entry is taken next: the one whose entry is being read, or else the winner of the
round (11 R342, Table 11.1). -/
def nextChan (s : State) (p : Nat) : Option Nat :=
  (pickChan s p fun i => (jobOf s (.entry i 0)).isSome).orElse fun _ => pickChan s p fun _ => true

/-- The firmware takes the next entry of channel i. -/
def takes (s : State) (i : Nat) : Bool :=
  decide (s.life.phase = .running) && decide (s.cp.fwState = .running) && nextChan s (getChan s i).part == some i

/-- The entry is taken: CONS, its stamp, the round-robin pointer. -/
def advance (s0 : State) (i : Nat) : State :=
  let s := dropUsers s0 (entryUser i)
  let c := getChan s i
  updPart (setChan s i { c with sqCons := c.sqCons + 1, stamps := c.stamps.drop 1 }) c.part fun q =>
    { q with sqPtr := (i + 1) % 256 }

/-- The next sequence number is used (R311). -/
def number (s : State) (i : Nat) : State := updChan s i fun c => { c with nextSeq := c.nextSeq + 1 }

/-- A refused entry owes its record. It is no work item, so no deadline applies (R314). -/
def refuseEntry (s : State) (i status : Nat) (b : List Byte) : State :=
  let c := getChan s i
  { number s i with posts := s.posts ++ [
      { ch := i, seq := c.nextSeq, status, replayed := false, irq := bit (hdrN b 1 1) 0, astat := 0,
        user := BitVec.ofNat 32 (hdrN b 44 4), ctx := 0, img := c.img, halt := {}, rowFault := 0, deadline := 2 ^ 64 }] }

/-! ### Fields (Table 09.14; R312, 1 and 2) -/

/-- Fields of an entry of which the checks alone make use: the type and the stream list. -/
structure Lists where
  chunk : Bool
  lreg : BitVec 16
  lofs : Nat
  deriving DecidableEq, Repr

/-- The entry's lists. -/
def listsOf (b : List Byte) : Lists :=
  { chunk := hdrN b 0 1 == 1, lreg := BitVec.ofNat 16 (hdrN b 24 2), lofs := hdrN b 28 4 }

/-- The entry's fields, without its streams. -/
def entryOf (b : List Byte) : Entry :=
  { irq := bit (hdrN b 1 1) 0, mask := bit (hdrN b 1 1) 1, steps := hdrN b 2 2, rows := hdrN b 4 2, entry := hdrN b 6 2,
    wstart := hdrN b 8 8, deadline := hdrN b 16 8, user := BitVec.ofNat 32 (hdrN b 44 4),
    dreg := BitVec.ofNat 16 (hdrN b 32 2), dfirst := hdrN b 34 2, dofs := hdrN b 36 4, dcount := hdrN b 40 2,
    maskh := hdrN b 42 2, streams := [] }

/-- A reserved byte or bit is non-zero. -/
def entryReserved (b : List Byte) : Bool :=
  decide (hdrN b 1 1 / 4 ≠ 0) || decide (hdrN b 26 2 ≠ 0) || decide (hdrN b 48 16 ≠ 0)

/-- Field ranges. -/
def entryRanges (nentry : Nat) (l : Lists) (e : Entry) : Bool :=
  (if l.chunk then decide (1 ≤ e.steps ∧ e.steps ≤ 1024 ∧ 1 ≤ e.rows ∧ e.rows ≤ 256)
    else decide (e.steps = 0 ∧ e.rows = 0 ∧ l.lreg = 0))
    && decide (e.entry < nentry) && decide (l.lofs % 64 = 0) && decide (e.dofs % 64 = 0) && decide (e.dcount ≤ 1023)
    && (decide (e.dcount ≠ 0) || decide (e.dreg = 0)) && decide (1 ≤ e.dfirst ∧ e.dfirst ≤ 1023)
    && decide (e.dfirst + e.dcount ≤ 1024)
    && (if e.mask then decide (1 ≤ e.maskh ∧ e.maskh ≤ 1023) else decide (e.maskh = 0))

/-- A semaphore of an acquisition list is bound as shared in the partition: a local one on some Caldera (07 R250). -/
def acqBound (s : State) (p : Nat) (a : AcqE) : Bool :=
  (List.range 4).any fun c =>
    let v := getSem s (semKey a.glob c a.sem)
    decide (v.bind = 2) && decide (v.part = p)

/-- A check with the status of its failure. -/
def must (c : Prop) [Decidable c] (st : Nat) : Except Nat Unit := if c then .ok () else .error st

/-- A list of n bytes lies in a live region of the partition that a link reset has not made invalid. -/
def listPlace (s : State) (p : Nat) (h : BitVec 16) (ofs n : Nat) : Except Nat Unit := do
  must (regLive s p h = true) stStaleHandle
  must ((getRegion s (regIdx h)).invalid = false) stHostLost
  must (regFits s h ofs n = true) stRegionRange

/-- Steps 1 and 2 of R312. The stream list is read next, so a host region must be within reach (12 R382). -/
def entryFields (s : State) (i : Nat) (b : List Byte) : Except Nat Unit := do
  let c := getChan s i
  let im := imgOf s c.img
  let l := listsOf b
  let e := entryOf b
  must (entryReserved b = false) stReservedField
  must (entryRanges im.entries.length l e = true) stBadField
  must (((im.acqs.getD e.entry []).all (acqBound s c.part)) = true) stBadField
  if l.chunk then
    listPlace s c.part l.lreg l.lofs (4 * e.rows)
    must ((getRegion s (regIdx l.lreg)).host = false ∨ hostUp s = true) stHostLost
  if e.dcount ≠ 0 then listPlace s c.part e.dreg e.dofs (64 * e.dcount)

/-! ### Admission of an entry (10 R338, R329) -/

/-- Where an accepted entry goes: its window, deadline and start, whether it is late, whether it is held. -/
structure Slotting where
  win : Nat
  deadline : Nat
  start : Nat
  late : Bool
  held : Bool
  deriving DecidableEq, Repr

/-- Start of window n. -/
def winStart (a : Adm) (n : Nat) : Nat := a.phase + n * a.period

/-- Window of a WSTART field. -/
def winOf (a : Adm) (e : Entry) : Nat := (e.wstart - a.phase) / a.period

/-- Latest window that may be asked for at a TIME. -/
def winLimit (a : Adm) (now : Nat) : Nat := if now < a.phase then 0 else (now - a.phase) / a.period + 1

/-- The late policy of Table 10.4 for an entry of window n with its arrival stamp. -/
def latePolicy (c : Chan) (a : Adm) (n stamp : Nat) : Except Nat Slotting := do
  let own : Slotting := ⟨n, winStart a n + a.deadline, winStart a n, false, false⟩
  if stamp < winStart a n + a.arrival then return own
  match a.late with
  | 1 =>
    let m := (stamp - a.phase - a.arrival) / a.period + 1
    must (c.heldWins.contains m = false) stAdmissionRefused
    return ⟨m, winStart a m + a.deadline, winStart a m, false, true⟩
  | 2 => return { own with late := true }
  | _ => .error stAdmissionRefused

/-- Step 3 of R312. -/
def entryAdmit (s : State) (i : Nat) (b : List Byte) : Except Nat Slotting := do
  let c := getChan s i
  let e := entryOf b
  match c.adm with
  | none => .error stAdmissionRefused
  | some a =>
    must ((listsOf b).chunk = decide (a.steps ≠ 0)) stAdmissionRefused
    must (e.entry = a.entry ∧ e.steps ≤ a.steps ∧ e.rows ≤ a.rows) stAdmissionRefused
    must (a.phase ≤ e.wstart ∧ winStart a (winOf a e) = e.wstart ∧ e.deadline = e.wstart + a.deadline)
      stAdmissionRefused
    must (winOf a e ≤ winLimit a (timeNow s)) stAdmissionRefused
    must (c.wins.contains (winOf a e) = false) stAdmissionRefused
    latePolicy c a (winOf a e) (c.stamps.headD (timeNow s))

/-! ### Streams (R312, 4 to 8) -/

/-- Where an entry's stream list lies: its first byte and its length. -/
def listAt (s : State) (b : List Byte) : Nat × Nat :=
  let l := listsOf b
  ((getRegion s (regIdx l.lreg)).base + l.lofs, 4 * (entryOf b).rows)

/-- The stream list of an entry, from the bytes read for it. -/
def streamList (s : State) (b : List Byte) (m : Mem) : List Word :=
  if (listsOf b).chunk then
    let bs := loadBytes m (listAt s b).1 (listAt s b).2
    (List.range (entryOf b).rows).map fun n => BitVec.ofNat 32 (hdrN bs (4 * n) 4)
  else []

/-- A command with FORCE waits to destroy, or to export, the stream of slot v (01 R41). -/
def forcing (s : State) (w : Wait) : Bool := s.mbs.any fun e => decide (e.2.st = .busy) && decide (e.2.wait = w)

/-- The status of a stream's state for a new chunk (01 Table 01.4). -/
def streamTaken (s : State) (h : Word) : Except Nat Unit := do
  let v := getSlot s (slotOf h)
  must (forcing s (.export_ (slotOf h)) = false ∧ v.st ≠ .migrating ∧ v.st ≠ .exported) stStreamExported
  must (v.st ≠ .faulted) stStreamFaulted

/-- The stream matches layer record 0 (07 R250). -/
def layerMatches (s : State) (im : Image) (h : Word) : Bool :=
  let v := getSlot s (slotOf h)
  match im.layers with
  | [] => false
  | l :: _ => decide (b2n v.f32 = l.f32) && decide (v.widthM1 = l.widthM1)

/-- The channel has a gradient set. -/
def hasGset (s : State) (i : Nat) : Bool := s.gsets.any fun g => ofChan s g.2 i

/-- Steps 4 to 8 of R312 for a chunk, and the gradient set of a training chunk (R304). -/
def entryStreams (s : State) (i : Nat) (hs : List Word) : Except Nat Unit := do
  let c := getChan s i
  let im := imgOf s c.img
  must ((hs.all fun h => streamOk s h && decide ((getSlot s (slotOf h)).part = c.part)
    && !forcing s (.destroy (slotOf h))) = true) stStaleHandle
  hs.forM (streamTaken s)
  must hs.Nodup stDuplicateStream
  must ((hs.all fun h => !(getSlot s (slotOf h)).chValid || decide ((getSlot s (slotOf h)).chan = i)) = true) stStreamBusy
  must (im.layers ≠ []) stBadField
  must ((hs.all (layerMatches s im)) = true) stBadField
  must (im.training = false ∨ hasGset s i = true) stNotPermitted

/-- The checks of R312 in order, over an entry and its stream list. -/
def entryCheck (s : State) (i : Nat) (b : List Byte) (hs : List Word) : Except Nat Slotting := do
  entryFields s i b
  let w ← entryAdmit s i b
  if (listsOf b).chunk then entryStreams s i hs
  return w

/-! ### Acceptance -/

/-- A stream takes one more chunk of channel i (01 R18, Table 01.5). -/
def bindStream (i : Nat) (v : Slot) : Slot :=
  { v with chan := i, chValid := true, qdepth := v.qdepth + 1, st := if v.st = .idle then .queued else v.st }

/-- The accepted work item. -/
def newItem (s : State) (i : Nat) (b : List Byte) (hs : List Word) (w : Slotting) : Item :=
  let c := getChan s i
  { ch := i, seq := c.nextSeq, part := c.part, task := !(listsOf b).chunk, e := { entryOf b with streams := hs },
    win := w.win, deadline := w.deadline, late := w.late, eligAt := w.start, img := c.img, imgStart := c.img }

/-- The channel's windows after an acceptance (10 R338, 5; Table 10.4). -/
def markWins (b : List Byte) (w : Slotting) (c : Chan) : Chan :=
  match c.adm with
  | none => c
  | some a =>
    { c with wins := winOf a (entryOf b) :: c.wins, heldWins := if w.held then w.win :: c.heldWins else c.heldWins }

/-- An accepted entry: its streams are bound and its item is queued. An item of a damaged image, or of a partition
whose Calderas are all fenced, completes at once (07 R245, 14 R425). -/
def acceptEntry (s : State) (i : Nat) (b : List Byte) (hs : List Word) (w : Slotting) : State :=
  let t := newItem s i b hs w
  let s1 := t.e.streams.foldl (fun s h => updSlot s (slotOf h) (bindStream i)) s
  let s2 := { updChan (number s1 i) i (markWins b w) with items := s.items ++ [t] }
  if (imgOf s2 t.img).damaged then finishItem s2 t stImageChanged else allFenced s2 t.part

/-- What a taken entry does once its stream list is read (R311, R312). -/
def runListed (s : State) (i : Nat) (b : List Byte) (hs : List Word) : State :=
  match entryCheck s i b hs with
  | .error st => refuseEntry (advance s i) i st b
  | .ok w => acceptEntry (advance s i) i b hs w

/-- The entry's stream list is read, unless the steps before that refuse the entry. A port fault of the read refuses it
with FAULTED (DESIGN CHOICE, log entry 161). -/
def runEntry (s : State) (i : Nat) (b : List Byte) : State :=
  match entryFields s i b with
  | .error st => refuseEntry (advance s i) i st b
  | .ok _ =>
    if (listsOf b).chunk = false then runListed s i b []
    else
      match fwRead s (.entry i 1) (getRegion s (regIdx (listsOf b).lreg)).host [listAt s b] with
      | .wait t => t
      | .bad => refuseEntry (advance s i) i stFaulted b
      | .here m => runListed s i b (streamList s b m)

/-- Take the next entry of channel i at the row of its TYPE: the firmware reads it first, again after a port fault. A
TYPE that Table 09.14 does not list is refused with BAD_COMMAND, whichever row takes it. -/
def takeEntry (type : Nat) (f : State → Nat → List Byte → State) (i : Nat) (s : State) :
    Host.Outcome State Fault Refusal :=
  if takes s i = false then .next s
  else
    match fwRead s (.entry i 0) (getRegion s (regIdx (getChan s i).sqReg)).host [(sqPlace s i, 64)] with
    | .wait t => .next t
    | .bad => .next (dropUsers s (entryUser i))
    | .here m =>
      let b := loadBytes m (sqPlace s i) 64
      if 2 < hdrN b 0 1 then .next (refuseEntry (advance s i) i stBadCommand b)
      else if hdrN b 0 1 ≠ type then .next s
      else .next (f s i b)

/-- RUN_CHUNK. -/
def execRunChunk (i : Fin 256) : State → Host.Outcome State Fault Refusal := takeEntry 1 runEntry i.val

/-- RUN_TASK. -/
def execRunTask (i : Fin 256) : State → Host.Outcome State Fault Refusal := takeEntry 2 runEntry i.val

/-- NOP: CONS advances. -/
def execNop (i : Fin 256) : State → Host.Outcome State Fault Refusal := takeEntry 0 (fun s i _ => advance s i) i.val

/-! ### ENTRY_ELIGIBLE (10 R328) -/

/-- The queued item becomes eligible once TIME has reached its window's start. -/
def execEntryEligible (i : Fin 256) (seq : Word) (s : State) : Host.Outcome State Fault Refusal :=
  match s.items.find? fun t => t.ch == i.val && t.seq == seq && !t.eligible with
  | none => .next s
  | some t => if t.eligAt ≤ timeNow s then .next (setItem s { t with eligible := true }) else .next s

end Sys2Proof.Machine
end

