-- ==== Sys2Proof/Machine/Post.lean ====
section
/-! DEFINITION. Posting: completion records, event records, and a channel's loss of the host (09 R311, R314, R316,
Tables 09.15 and 09.16; 12 R376, R379, R381). -/

namespace Sys2Proof.Machine

/-! ### Rings -/

/-- PHASE of the next record of a ring (R314). -/
def phaseBit (wrote log : Nat) : Nat := if wrote / 2 ^ log % 2 = 0 then 1 else 0

/-- Place of the record that stands n after PROD in a channel's CQ, in the CQ's region. -/
def cqPlace (c : Chan) (n : Nat) : Nat := c.cqOfs + 64 * ((c.cqProd.toNat + n) % 2 ^ c.cqLog)

/-- The firmware can write n bytes of the region that a handle names: a valid region of its generation, without
READONLY, that holds them, and, for a host region, a link that is up (12 R358, R359, R382). -/
def writable (s : State) (h : BitVec 16) (ofs n : Nat) : Bool :=
  let r := getRegion s (regIdx h)
  regValid s h && !r.ro && regFits s h ofs n && (!r.host || hostUp s)

/-- WRITEs of bytes into a region at an offset. -/
def regWrites (s : State) (h : BitVec 16) (ofs : Nat) (bs : List Byte) : List Burst :=
  let r := getRegion s (regIdx h)
  writeBursts r.host (r.base + ofs) bs

/-! ### COMPLETION_POST (09 Table 09.15; 12 R376) -/

/-- A completion record. -/
def recordOf (o : Post) (status phase late now : Nat) : List Byte :=
  let h := o.halt
  leBytes 4 o.seq.toNat ++ leBytes 1 status ++ leBytes 1 (phase + 2 * late + 4 * b2n o.replayed)
    ++ leBytes 1 o.astat.toNat ++ leBytes 1 (hslot h) ++ leBytes 8 now ++ leBytes 4 o.user.toNat ++ leBytes 1 o.ctx
    ++ leBytes 1 h.reason ++ leBytes 2 o.img.toNat ++ leBytes 4 h.ofs ++ leBytes 4 h.detail.toNat
    ++ leBytes 32 o.rowFault.toNat

/-- Records of a channel at a step of R376 or behind it. -/
def postsFrom (s : State) (i n : Nat) : List Post := s.posts.filter fun o => o.ch == i && decide (n ≤ o.stage)

/-- The first record of a channel at a step n goes to the next one. -/
def nextPost (s : State) (i n : Nat) : State :=
  { s with posts := updFirst (fun o => o.ch == i && decide (o.stage = n)) (fun o => { o with stage := n + 1 }) s.posts }

/-- The CQ of a channel lies in a space 3 region. -/
def hostCq (s : State) (i : Nat) : Bool := (getRegion s (regIdx (getChan s i).cqReg)).host

/-- The fence of every port that an item wrote (R365, R375, R376). -/
def dataFence (o : Post) : List Burst :=
  o.ports.map fun p =>
    if p = 16 then { kind := .fence, host := true, addr := 0, len := 4, data := [] }
    else { kind := .fence, host := false, addr := p, len := 0, data := [] }

/-- The record of a post, whose data fence has ended, goes to the CQ's port, and a deadline miss is reported (R314). -/
def writeRecord (s : State) (i : Nat) (o : Post) : State :=
  let c := getChan s i
  let n := (postsFrom s i 2).length
  let now := timeNow s
  let late := o.deadline < now
  let status := if jobErr s (.post i 0) = true ∧ hostCq s i = true then stHostLost else o.status
  let r := recordOf o status (phaseBit (c.wrote + n) c.cqLog) (if late then 1 else 0) now
  let s1 := moreJob (dropJob (nextPost s i 1) (.post i 0)) (.post i 1) (regWrites s c.cqReg (cqPlace c n) r)
  if late then
    postEvent s1 c.part 0x0012 (leBytes 2 (chanHandle s i) ++ leBytes 2 0 ++ leBytes 4 o.seq.toNat
      ++ leBytes 8 (now - o.deadline))
  else s1

/-- The CQ's port is fenced behind the records written, which may be several. -/
def fenceRecords (s : State) (i : Nat) : State :=
  let c := getChan s i
  let ws := (List.range (postsFrom s i 2).length).flatMap fun n => regWrites s c.cqReg (cqPlace c n) (List.replicate 64 0)
  addJob { dropJob s (.post i 1) with
    posts := s.posts.map fun o => if o.ch = i ∧ o.stage = 2 then { o with stage := 3 } else o } (.post i 2)
    [fenceBursts (hostCq s i) ws]

/-- The CQ's fence has completed: the records it covers are confirmed. -/
def confirm (s : State) (i : Nat) : State :=
  let c := getChan s i
  let l := postsFrom s i 3
  let s1 := dropJob { s with posts := s.posts.filter fun o => !(o.ch == i && decide (o.stage = 3)) } (.post i 2)
  let s2 := setChan s1 i { c with cqProd := c.cqProd + BitVec.ofNat 16 l.length, wrote := c.wrote + l.length,
                                  lastConf := ((l.getLast?).map (·.seq)).getD c.lastConf }
  resolveChDestroy (if l.any (·.irq) then raiseInt s2 intCq else s2)

/-- A record, or the fence of a CQ in integrator memory, has met a port fault: the records that no fence covers are
written again (DESIGN CHOICE, log entry 161). -/
def unconfirmed (s : State) (i : Nat) : State :=
  dropJob (dropJob { s with posts := s.posts.map fun o => if o.ch = i ∧ 2 ≤ o.stage then { o with stage := 1 } else o }
    (.post i 1)) (.post i 2)

/-- The oldest record of a channel that is not written, with the step that it can take now: its data fence, or, behind
that, its WRITE. -/
def dueRecord (s : State) (i : Nat) : Option Post :=
  (s.posts.find? fun o => o.ch == i && decide (o.stage ≤ 1)).filter fun o =>
    decide (o.stage = 0) || (jobDone s (.post i 0)
      && writable s (getChan s i).cqReg (cqPlace (getChan s i) (postsFrom s i 2).length) 64)

/-- A channel's written records are in place, and no fence of its CQ is under way. -/
def fenceDue (s : State) (i : Nat) : Bool :=
  (postsFrom s i 3).isEmpty && !(postsFrom s i 2).isEmpty && jobDone s (.post i 1)

/-- What has ended for a channel's records: a port fault, or the fence that confirms them. -/
def postEnded (s : State) (i : Nat) : Option State :=
  if jobErr s (.post i 1) = true ∨ jobErr s (.post i 2) = true then some (unconfirmed s i)
  else if (postsFrom s i 3).isEmpty = false ∧ jobDone s (.post i 2) = true then some (confirm s i)
  else none

/-- The next step of R376 on a channel: what has ended; else, with `write`, that of the oldest record not written; else,
with `fence`, the fence of the CQ. How many records one fence covers is left to the firmware. -/
def postStep (s : State) (i : Nat) (write fence : Bool) : State :=
  match postEnded s i, (if write then dueRecord s i else none) with
  | some t, _ => t
  | none, some o =>
    if o.stage = 0 then addJob (nextPost s i 0) (.post i 0) [dataFence o] else writeRecord s i o
  | none, none => if fence = true ∧ fenceDue s i = true then fenceRecords s i else s

/-- COMPLETION_POST: the next step of posting on a channel. -/
def execCompletionPost (i : Fin 256) (write fence : Bool) (s : State) : Host.Outcome State Fault Refusal :=
  if s.life.phase = .running then .next (postStep s i.val write fence) else .next s

/-! ### HOST_LOST (12 R381) -/

/-- A channel enters HOST_LOST: the records whose fence has completed are confirmed (12 R383); the event carries its
last confirmed SEQ; its queued items are cancelled, its items in windows run on, and no record of theirs is posted. -/
def loseChan (s0 : State) (i : Nat) : State :=
  if (getChan s0 i).live = false ∨ (getChan s0 i).st = .hostLost then s0
  else
    let s := if postsFrom s0 i 3 ≠ [] ∧ jobDone s0 (.post i 2) = true ∧ jobErr s0 (.post i 2) = false then confirm s0 i
             else s0
    let c := getChan s i
    let s1 := dropChan (setChan s i { c with st := .hostLost }) i
    let s2 := postEvent s1 c.part 0x0030 (leBytes 2 (chanHandle s i) ++ leBytes 2 0 ++ leBytes 4 c.lastConf.toNat)
    let s3 := { s2 with posts := s2.posts.filter fun o => o.ch ≠ i }
    let s4 := cancelQueued s3 (fun t => t.ch == i) stHostLost
    resolveChDestroy { s4 with items := s4.items.map fun t => if t.ch = i then { t with silent := true } else t }

/-! ### EVENT_POST (R316, Table 09.16) -/

/-- An event record. -/
def eventBytes (e : EvRec) (phase : Nat) : List Byte :=
  (leBytes 2 e.code.toNat ++ leBytes 1 phase ++ leBytes 1 0 ++ leBytes 4 e.lost ++ leBytes 8 e.time
    ++ e.payload ++ leBytes 16 0).take 32

/-- Place of the next event record in its ring's region. -/
def eqPlace (q : Part) : Nat := q.ringOfs + 32 * (q.eqProd.toNat % 2 ^ q.ringLog)

/-- The event ring of a partition has room, in a region that can be written. -/
def ringOpen (s : State) (p : Nat) : Bool :=
  let q := getPart s p
  q.exist && !evRingFull q && writable s q.ringReg (eqPlace q) 32

/-- The oldest queued event stands in the ring: PROD advances. -/
def eventPosted (s : State) (p : Nat) : State :=
  let q := getPart s p
  raiseInt (setPart (dropJob s (.event p)) p
    { q with queue := q.queue.drop 1, eqProd := q.eqProd + 1, wrote := q.wrote + 1 }) intEvent

/-- EVENT_POST: the oldest queued event goes to the ring's port, and PROD advances once its WRITE has ended; one that
met a port fault is written again. -/
def execEventPost (p : Fin 4) (s : State) : Host.Outcome State Fault Refusal :=
  match (getPart s p.val).queue with
  | [] => .next s
  | e :: _ =>
    let q := getPart s p.val
    if s.life.phase ≠ .running then .next s
    else if (jobOf s (.event p.val)).isSome then
      if jobDone s (.event p.val) = false then .next s
      else if jobErr s (.event p.val) then .next (dropJob s (.event p.val))
      else .next (eventPosted s p.val)
    else if ringOpen s p.val then
      .next (addJob s (.event p.val) [regWrites s q.ringReg (eqPlace q) (eventBytes e (phaseBit q.wrote q.ringLog))])
    else .next s

end Sys2Proof.Machine
end

