-- ==== Sys2Proof/Machine/Time.lean ====
section
/-! DEFINITION. The time base, and what one ACLK cycle does: the estimate, the stall counters and the dispatcher restores
(10 R318 to R324, R479; 08 R281; 11 R345). -/

namespace Sys2Proof.Machine

/-! ### One ACLK cycle (log entry 2) -/

/-- The estimate advances at 5 ticks in 12 cycles, after what TIME must stand still (10 R320, R322). -/
def tickTime (t : TimeBase) : TimeBase :=
  if t.st = .unset then t
  else
    let d := Config.aclkUnits
    { t with t12 := t.t12 + (d - t.hold12), hold12 := t.hold12 - d,
             left12 := if t.st = .locked then t.left12 else t.left12 + d }

/-- The code of Table 08.4 that counts a cycle of a context whose item is i. -/
def stallCode (c : Ctx) (i : Item) : Nat :=
  if c.issued then 0
  else if i.stopped then 0x10
  else if i.place = .staged then 1
  else if i.restoring then 0x0F
  else if i.entered = false then 1
  else if i.ended then 0x0D
  else c.cause

/-- One cycle of a context. -/
def tickCtx (s : State) (x : Nat) : State :=
  match winItemOf s x with
  | none => s
  | some i => updCtx s x fun c =>
      let n := stallCode c i
      { c with issued := false, stalls := tput 0 n (tget 0 n c.stalls + 1) c.stalls }

/-- CRP_PWR_SAFE rises once CRP_PSTATE reads RETAIN or OFF (15 R449, R451). -/
def settlePower (l : Life) : Life :=
  { l with pwrSafe := l.pwrSafe || decide (l.pstate = .retain) || decide (l.pstate = .off) }

/-- One ACLK cycle passes, unless the block is held in power-on reset. -/
def tick (s : State) : State :=
  if s.life.phase = .held then s
  else
    let s1 := { s with clk := s.clk + Config.aclkUnits, tb := tickTime s.tb, life := settlePower s.life }
    restCycle ((List.range 64).foldl tickCtx s1)

/-! ### TIME_SAMPLE (10 R318, R319, R322) -/

/-- The tolerance for a sample behind TIME. -/
def sampleTol (t : TimeBase) : Nat :=
  if t.st = .holdover ∨ t.st = .fault then max 1000 (ceilDiv (t.left12 / 12 * 50) 1000000) else 1000

/-- The time base takes an accepted sample: TIME steps to it or, behind TIME, stands still until the estimate has
advanced by the difference; the holdover timer starts again. -/
def locked (t : TimeBase) (v : Nat) : TimeBase :=
  let now := t.t12 / 12
  let t1 := if t.st = .unset ∨ now ≤ v then { t with t12 := 12 * v, hold12 := 0 } else { t with hold12 := 12 * (now - v) }
  { t1 with st := .locked, backs := 0, left12 := 0, mark12 := t1.t12 }

/-- An accepted sample: the event that leaves HOLDOVER carries TIME as it stands before the step (R323). -/
def sampleLock (s : State) (v : Nat) : State :=
  let s1 := if s.tb.st = .holdover ∨ s.tb.st = .fault then postBlockEvent s 0x0021 (leBytes 1 0) else s
  { s1 with tb := locked s1.tb v }

/-- Third backward step in a row: FAULT, unless it is the state already (R479). -/
def timeFault (s : State) : State :=
  let was := s.tb.st
  let s1 := raiseInt (postBlockEvent { s with tb := { s.tb with st := .fault } } 0x0022 []) intFault
  if was = .locked then postBlockEvent { s1 with tb := { s1.tb with left12 := 0 } } 0x0021 (leBytes 1 1) else s1

/-- A backward step: the sample is rejected. -/
def backStep (s : State) : State :=
  let n := s.tb.backs + 1
  let s1 := { s with tb := { s.tb with backs := n } }
  if n = 3 ∧ s.tb.st ≠ .fault then timeFault s1 else s1

/-- The check of R322 on a sample v. -/
def checkSample (s : State) (v : Nat) : State :=
  let now := timeNow s
  if s.tb.st = .unset then sampleLock s v
  else if now ≤ v then
    sampleLock (if Config.jumpMax s.straps.jumpSel < v - now then postBlockEvent s 0x0020 (leBytes 8 (v - now)) else s) v
  else if now - v ≤ sampleTol s.tb then sampleLock s v
  else backStep s

/-- The time base takes samples: behind phase 6 of a reset, which leaves it UNSET, with the firmware's FWSTATE FAILED
too (R321, 15 Table 15.2; log entry 108). -/
def sampling (s : State) : Bool := decide (s.life.phase = .running) || decide (s.life.phase = .failed)

/-- TIME_SAMPLE: a cycle with TBP_VALID = 1; in STEP mode only one with the strobe is a sample. -/
def execTimeSample (t : BitVec 64) (stepStrobe : Bool) (s : State) : Host.Outcome State Fault Refusal :=
  if sampling s = false ∨ (s.straps.stepEn = true ∧ stepStrobe = false) then .next s
  else .next (checkSample s (t + 2).toNat)

/-! ### HOLDOVER (10 R321, R479) -/

/-- The output TBP_HOLDOVER (R318, Table 10.3). -/
def tbpHoldover (s : State) : Bool := decide (s.tb.st = .holdover) || decide (s.tb.st = .fault)

/-- The holdover timer has expired: 100 µs of TIME since the last accepted sample, in twelfths of a tick. -/
def timerOut (t : TimeBase) : Bool := decide (t.mark12 + 12 * 100000 ≤ t.t12)

/-- HOLDOVER: 100 µs of TIME have passed without an accepted sample; before that the timer runs on. -/
def execHoldover (s : State) : Host.Outcome State Fault Refusal :=
  if s.tb.st = .locked ∧ timerOut s.tb = true then
    .next (postBlockEvent { s with tb := { s.tb with st := .holdover, left12 := 0 } } 0x0021 (leBytes 1 1))
  else .next s

end Sys2Proof.Machine
end

