-- ==== Sys2Proof/Machine/Remote.lean ====
section
/-! DEFINITION. Requests that peers make of the block: their checks, their effects and their answers
(13_light_port.md R394 to R402). -/

namespace Sys2Proof.Machine

/-! ### Answers of requests at their target (R398, R400) -/

/-- Elements of an ADD frame: type by AUX[1:0] as a format, and bytes. -/
def addFmt (k : Nat) : Nat := if k = 0 then 0 else if k = 1 then 11 else 10

/-- Add the elements of a frame in order (R394, R398). -/
def addAll (fmt : Nat) (m : Mem) (a : Nat) (bs : List Byte) : Mem × Fl :=
  let n := elemBytes fmt
  (List.range (bs.length / n)).foldl (fun acc k =>
    let r := atomicAt fmt acc.1 (a + n * k) ((bs.drop (n * k)).take n)
    (r.1, acc.2 ||| r.2)) (m, 0)

/-- Doorbells of a peer whose earlier requests are all answered apply in order, each with its DACK (R400). -/
def ringBells (s : State) : State :=
  let due := s.light.bells.filter fun b => decide (b.after = [])
  let s1 := { s with light := { s.light with bells := s.light.bells.filter fun b => !decide (b.after = []) } }
  due.foldl (fun s b => sendResponse (sqDoorbell b.chan b.prod s) b.peer 0x84 b.xid stOk 0 0 []) s1

/-- A request is answered by its target: doorbells need not wait for it any longer. -/
def answered1 (s : State) (id : Nat) : State :=
  let cut := fun (b : Bell) => { b with after := b.after.filter (· ≠ id) }
  ringBells { s with light := { s.light with remotes := s.light.remotes.filter (fun r => r.id ≠ id),
                                             bells := s.light.bells.map cut } }

/-- The answer of a request whose port requests and adds have ended: WACK, RDATA or AACK; a port fault answers FAULTED
(R397, R398). -/
def finishRemote (s : State) (r : Remote) : State :=
  let bad := jobErr s (.remote r.id) || r.err
  let rx := jobRx s (.remote r.id)
  let st := if bad then stFaulted else stOk
  let s1 := answered1 (dropJob s (.remote r.id)) r.id
  if r.mute then s1
  else if r.kind = 1 then sendResponse s1 r.peer 0x81 r.xid st 0 0 []
  else if r.kind = 2 then sendResponse s1 r.peer 0x82 r.xid st 0 0 (if bad then [] else loadBytes rx r.addr r.len)
  else sendResponse s1 r.peer 0x83 r.xid st (if bad then 0 else r.fl.setWidth 8) 0 []

/-- Answer every request whose port requests and adds have ended. -/
def settleRemotes (s : State) : State :=
  (s.light.remotes.filter fun r => jobDone s (.remote r.id) && addsEnded s (.remote r.id)).foldl finishRemote s

/-- A request goes to the Memory Port. -/
def startRemote (s : State) (r : Remote) (stages : List (List Burst)) : State :=
  let s1 := { s with nid := s.nid + 1, light := { s.light with remotes := s.light.remotes ++ [r] } }
  settleRemotes (addJob s1 (.remote r.id) stages)

/-! ### Checks of a request (R397) -/

/-- TARGET and offset of a frame's ADDR. -/
def frameTarget (f : Frame) : Nat × Nat := (f.addr.toNat / 2 ^ 48, f.addr.toNat % 2 ^ 48)

/-- TARGET names a live space 2 region, a scratchpad, or the doorbell page. -/
def targetLive (s : State) (t : Nat) : Bool :=
  let r := getRegion s (t % 1024)
  decide (t ≤ 3) || decide (t = 0x10) || (r.live && !r.host && r.gen == t / 1024)

/-- The access lies within the target. -/
def targetFits (s : State) (t ofs n : Nat) : Bool :=
  if t ≤ 3 then decide (ofs + n ≤ Config.spadRemote)
  else if t = 0x10 then true
  else decide (ofs + n ≤ (getRegion s (t % 1024)).size)

/-- The status of the first check that an access of n bytes fails, or OK. -/
def targetStatus (s : State) (t ofs n : Nat) (change : Bool) : Nat :=
  if targetLive s t = false then stStaleHandle
  else if targetFits s t ofs n = false then stRegionRange
  else if t = 0x10 ∨ (change = true ∧ 3 < t ∧ (getRegion s (t % 1024)).ro = true) then stNotPermitted
  else stOk

/-! ### Requests -/

/-- Channels that a range of integrator memory uses. -/
def chansOf (a n : Nat) : List Nat := ((writeBursts false a (List.replicate n 0)).map fun b => memChan b.addr).eraseDups

/-- Fences of a FLUSH: every channel that the sender's writes have used since its last one. -/
def flushBursts (ns : List Nat) : List Burst :=
  ns.map fun n => { kind := .fence, host := false, addr := n, len := 0, data := [] }

/-- WRITE (R398): FLAGS bit 0 is FLUSH. -/
def doWrite (f : Frame) (s : State) (q : Nat) : State :=
  let t := (frameTarget f).1
  let o := (frameTarget f).2
  let st := targetStatus s t o f.payload.length true
  let p := getPeer s q
  let flush := f.flags.getLsbD 0
  let base := (getRegion s (t % 1024)).base
  let ns := if t ≤ 3 then p.wrote else (p.wrote ++ chansOf (base + o) f.payload.length).eraseDups
  let r : Remote := { id := s.nid, peer := q, xid := f.xid, kind := 1, addr := base + o, len := f.payload.length, mute := false }
  if st ≠ stOk then sendResponse s q 0x81 f.xid st 0 0 []
  else
    let s1 := setPeer s q { p with wrote := if flush then [] else ns }
    let fence := if flush then [flushBursts ns] else []
    if t ≤ 3 then
      startRemote (updCal s1 t fun k => { k with spad := storeBytes k.spad o f.payload }) r fence
    else startRemote s1 r (writeBursts false (base + o) f.payload :: fence)

/-- READ: AUX bytes. One of more than 4,096 bytes, or across a 4 KiB boundary, breaks R391, which is told behind a
TARGET that is not live. -/
def doRead (f : Frame) (s : State) (q : Nat) : State :=
  let t := (frameTarget f).1
  let o := (frameTarget f).2
  let n := f.aux.toNat
  let st := if targetLive s t = true ∧ (4096 < n ∨ 4096 < o % 4096 + n) then stRegionRange else targetStatus s t o n false
  if st ≠ stOk then sendResponse s q 0x82 f.xid st 0 0 []
  else if t ≤ 3 then sendResponse s q 0x82 f.xid stOk 0 0 (loadBytes (getCal s t).spad o n)
  else
    let a := (getRegion s (t % 1024)).base + o
    startRemote s { id := s.nid, peer := q, xid := f.xid, kind := 2, addr := a, len := n, mute := false }
      [readBursts false a n]

/-- ADD (R398): the elements go in order to the atomic unit that serves their address (R394; 08 R289, 12 R367). -/
def doAdd (f : Frame) (s : State) (q : Nat) : State :=
  let t := (frameTarget f).1
  let o := (frameTarget f).2
  let n := f.payload.length
  let fmt := addFmt (f.aux.toNat % 4)
  let st := targetStatus s t o n true
  if st ≠ stOk then sendResponse s q 0x83 f.xid st 0 0 []
  else if t ≤ 3 then
    let r := addAll fmt (getCal s t).spad o f.payload
    sendResponse (updCal s t fun k => { k with spad := r.1 }) q 0x83 f.xid stOk (r.2.setWidth 8) 0 []
  else
    let a := (getRegion s (t % 1024)).base + o
    let r : Remote := { id := s.nid, peer := q, xid := f.xid, kind := 3, addr := a, len := n, mute := false }
    let s1 := { s with nid := s.nid + 1, light := { s.light with remotes := s.light.remotes ++ [r] } }
    let w := elemBytes fmt
    settleRemotes (goAdds ((List.range (n / w)).foldl (fun s k =>
      arriveAdd s (.remote r.id) (a + w * k) fmt ((f.payload.drop (w * k)).take w)) s1))

/-- DOORBELL (R397, R400): AUX[7:0] the channel index, AUX[31:16] PROD. -/
def doBell (f : Frame) (s : State) (q : Nat) : State :=
  let i := f.aux.toNat % 256
  if targetLive s (frameTarget f).1 = false then sendResponse s q 0x84 f.xid stStaleHandle 0 0 []
  else if (getChan s i).st ≠ .admitted ∨ (getChan s i).live = false then sendResponse s q 0x84 f.xid stBadField 0 0 []
  else
    let wait := (s.light.remotes.filter fun r => r.peer == q && decide (r.kind ≠ 2)).map (·.id)
    ringBells { s with light := { s.light with bells := s.light.bells ++
      [⟨q, wait, i, f.aux.extractLsb' 16 16, f.xid⟩] } }

/-! ### State moves (R401 to R403) -/

/-- Move number, segment and segment count of a STATE frame. -/
def stateMove (f : Frame) : BitVec 16 := f.aux.setWidth 16
def stateSeg (f : Frame) : Nat := f.aux.toNat / 65536 % 256
def stateSegs (f : Frame) : Nat := f.aux.toNat / 16777216

/-- A segment goes into the arrival: the header stays in CP memory, the state goes into the held slot. With the last
segment STATE_ARRIVED is posted. -/
def putSegment (s : State) (a : Arrival) (f : Frame) : State :=
  let k := stateSeg f
  let body := if k = 0 then f.payload.drop 256 else f.payload
  let at0 := if k = 0 then 0 else 4096 * k - 256
  let b := { a with hdr := if k = 0 then f.payload.take 256 else a.hdr, bytes := a.bytes + f.payload.length,
                    got := k + 1, total := stateSegs f, xid := f.xid }
  let s1 := { s with arrivals := updFirst (fun c => c.no == a.no) (fun _ => b) s.arrivals,
                     sinter := storeBytes s.sinter (a.slot * Config.slotBytes + at0) (body.take (Config.slotBytes - at0)) }
  if k + 1 = stateSegs f then
    postEvent s1 a.part 0x0004 (leBytes 2 a.no ++ leBytes 1 a.src ++ leBytes 1 0 ++ leBytes 4 (hdrN b.hdr 12 4))
  else s1

/-- The first segment of a move: a slot is held, or the move is refused. -/
def firstSegment (s : State) (q : Nat) (f : Frame) : State :=
  let no := (List.range 16).find? fun n => s.arrivals.all fun a => a.no ≠ n
  match no, chooseSlot s [0, 1, 2, 3] 0xFF with
  | some n, some v =>
    let a : Arrival := ⟨n, q, stateMove f, v, (getCal s (v / 1024)).part, [], 0, 0, stateSegs f, f.xid⟩
    putSegment { updSlot s v (fun w => { w with held := true }) with arrivals := s.arrivals ++ [a] } a f
  | _, _ => sendResponse s q 0x85 f.xid stNoSlot 0 0 []

/-- STATE. -/
def doState (f : Frame) (s : State) (q : Nat) : State :=
  if stateSeg f = 0 then firstSegment s q f
  else
    match s.arrivals.find? fun a => a.src == q && a.move == stateMove f && a.got == stateSeg f && !arrived a with
    | none => s
    | some a => putSegment s a f

/-- CANCEL (R403): the arrival is discarded, or the SRESULT OK already sent is sent again. A move that the block does
not hold is answered CANCELLED. -/
def doCancel (f : Frame) (s : State) (q : Nat) : State :=
  match s.arrivals.find? fun a => a.src == q && a.move == stateMove f,
        (getPeer s q).okMoves.reverse.find? fun m => m.1 == stateMove f with
  | some a, _ => dropArrival s { a with xid := f.xid } stCancelled
  | none, some m => sendResponse s q 0x85 f.xid stOk 0 m.2 []
  | none, none => sendResponse s q 0x85 f.xid stCancelled 0 0 []

end Sys2Proof.Machine
end

