-- ==== Sys2Proof/Machine/Plume.lean ====
section
/-! DEFINITION. Plume transport: received frames, acknowledgments and credits, answers to the block's own requests,
link control, and the loss of a port or a peer (13_light_port.md R387 to R407). -/

namespace Sys2Proof.Machine

/-! ### Frames kept and acknowledged (R393, R395) -/

/-- SEQ a comes before b in a space. -/
def before (a b : Word) : Bool := decide (0 < (b - a).toNat) && decide ((b - a).toNat < 2 ^ 31)

/-- An acknowledgment and a credit value reach a class: the frames below the one go, the grant rises to the other. -/
def ackClass (c : PClass) (ack : Word) (crd : BitVec 16) : PClass :=
  let l := c.queue.dropWhile fun t => t.sent && before t.f.seq ack
  { c with queue := l, timeouts := if l.length < c.queue.length then 0 else c.timeouts,
           crd := if (crd - c.crd).toNat < 2 ^ 15 then crd else c.crd }

/-- Send the kept frames of a class again, in order, from a SEQ on (R393). -/
def resend (stamp : Frame → Frame) (from_ : Word) (c : PClass) : PClass :=
  { c with queue := c.queue.map fun t =>
      if t.sent = true ∧ before t.f.seq from_ = false then { t with again := t.again + 1, f := stamp t.f } else t }

/-- Send every kept frame of a class again. -/
def resendAll (stamp : Frame → Frame) (c : PClass) : PClass :=
  match c.queue with
  | [] => c
  | t :: _ => resend stamp t.f.seq c

/-- A frame of the class is unacknowledged. -/
def unacked (c : PClass) : Bool := c.queue.any (·.sent)

/-- Primary port for peer q (R389). -/
def primaryPort (s : State) (q : Nat) : Nat := Nat.xor s.straps.peerId.val q % 2

/-- A pair moves back to its primary port when that is UP, a PROBE over it has been answered, and no frame is
unacknowledged (R389). -/
def moveBack (s : State) (q : Nat) : State :=
  let p := getPeer s q
  if p.alt = true ∧ p.probed = true ∧ portIsUp s (primaryPort s q) = true ∧ unacked p.req = false
      ∧ unacked p.rsp = false then
    askAgain (setPeer s q { p with alt := false, probed := false }) q
  else s

/-- No STATE frame of a move is left to be acknowledged. -/
def stateSent (p : Peer) (mv : BitVec 16) : Bool :=
  p.req.queue.all fun t => !(decide (t.f.type = 5) && t.f.aux.setWidth 16 == mv)

/-- Exports whose last STATE frame is acknowledged become EXPORTED (R402). -/
def exportsSent (s : State) (q : Nat) : State :=
  (s.exports.filter fun e => e.peer == some q && stateSent (getPeer s q) e.move).foldl (fun s e =>
    updSlot s e.slot fun v => if v.st = .migrating then { v with st := .exported } else v) s

/-- The acknowledgments and credits of a frame from q (R393). -/
def acked (s : State) (q : Nat) (f : Frame) : State :=
  let p := getPeer s q
  let a := ackClass p.req f.ackReq f.crdReq
  let b := ackClass p.rsp f.ackRsp f.crdRsp
  let ok := p.okSlots.filter fun e => !before e.2 f.ackRsp
  let s1 := setPeer s q { p with req := a, rsp := b, okSlots := ok, known := p.known || f.dsess == s.light.session }
  presentPeer (moveBack (exportsSent s1 q) q) q

/-! ### Loss of a peer (R404, R406, Table 13.6) -/

/-- LOC of a Light Port fault: port [0], peer [6:1] (14 Table 14.1). -/
def lightLoc (p q : Nat) : Word := BitVec.ofNat 32 (p + 2 * q)

/-- Transfers and lookups that wait for an answer of q. -/
def waitersOf (s : State) (q : Nat) : List User :=
  ((s.light.asked.filter fun a => a.peer == q && (match a.user with
    | .exp _ => false
    | _ => true)).map (·.user)).eraseDups

/-- Exports to q fail with FAULTED (R404). -/
def failExports (s : State) (q : Nat) : State :=
  (s.exports.filter fun e => e.peer == some q).foldl (fun s e =>
    exportFail (dropState s q e.move) e.slot stFaulted) s

/-- An imported stream that is moving out again: its own export fails first, for the stream is FAULTED now (R404). -/
def stopExport (s : State) (v : Nat) : State :=
  match s.exports.find? fun e => e.slot == v with
  | none => s
  | some e => cancelMove (exportFail s v stFaulted) e

/-- Streams imported from q whose SRESULT OK is not acknowledged become FAULTED (R404). -/
def failImports (s : State) (q : Nat) : State :=
  let s1 := (getPeer s q).okSlots.foldl (fun s e =>
    let v := slotOf e.1
    if streamOk s e.1 = false ∨ (getSlot s v).st = .faulted then s else faultStream (stopExport s v) v 0x10) s
  setPeer s1 q { getPeer s1 q with okSlots := [] }

/-- Incomplete arrivals of q are discarded. -/
def dropIncomplete (s : State) (q : Nat) : State :=
  (s.arrivals.filter fun a => a.src == q && !arrived a).foldl (fun s a =>
    { updSlot s a.slot (fun v => { v with held := false }) with
      arrivals := s.arrivals.filter (fun b => b.no ≠ a.no),
      sinter := clearRange s.sinter (a.slot * Config.slotBytes) Config.slotBytes }) s

/-- A class loses the pool grants of its peer: their units are not granted again (R395; log entry 111). -/
def recallClass (n : Nat) (c : PClass) : PClass := { c with hold := c.hold + 68 * n }

/-- The pool grants of a peer go back to the pool. -/
def recalled (p : Peer) : Peer :=
  { p with pool := 0, req := recallClass p.pool p.req, rsp := recallClass p.pool p.rsp }

/-- Only the frames of a class that have been presented are kept: the others go, with their SEQs (R393, R405). -/
def keepSent (c : PClass) : PClass :=
  { c with queue := c.queue.filter (·.sent), tx := c.tx - BitVec.ofNat 32 (waitingFrames c.queue), timeouts := 0 }

/-- Peer q is declared lost (R404, R406, Table 13.6). The frames that have been presented are kept (R393). -/
def declareLost (s : State) (q : Nat) : State :=
  let ws := waitersOf s q
  let mute := fun (r : Remote) => if r.peer = q then { r with mute := true } else r
  let s1 := failExports (failImports s q) q
  let r := recalled (getPeer s1 q)
  let s2 := setPeer s1 q { r with lost := true, req := keepSent r.req, rsp := keepSent r.rsp }
  let s3 := { s2 with light := { s2.light with
    asked := s2.light.asked.filter fun a => a.peer ≠ q
    remotes := s2.light.remotes.map mute
    bells := s2.light.bells.filter fun b => b.peer ≠ q } }
  let s4 := postBlockEvent (report s3 none 0x22 0 none none (lightLoc (portOf s q) q)) 0x0032 (leBytes 1 q)
  ws.foldl (fun s u => portFault s u 0x22 (lightLoc (portOf s q) q) false 0) (dropIncomplete s4 q)

/-- Peer q is lost, and a PROBE asks for it (R406). -/
def losePeer (s : State) (q : Nat) : State := sendCtl (declareLost s q) q 0xC3

/-! ### Receiving (R385, R388, R390, R392, R407) -/

/-- The frame is addressed to port p of the block: its address, its cluster, the cluster's EtherType, and no tag (R385,
R388). -/
def addressed (s : State) (p : Nat) (f : Frame) : Bool :=
  f.dst == macOf s.straps.cluster s.straps.peerId.val p && f.smac.extractLsb' 16 16 == s.straps.cluster
    && f.etype == etherType s && !f.tagged

/-- The header is one of Table 13.3: VER, reserved fields of zero, and LEN bytes of payload (R390; log entry 109). -/
def plumeOk (f : Frame) : Bool :=
  f.ver == 1 && f.rsv1 == 0 && f.rsv2 == 0 && decide (f.len.toNat = f.payload.length) && decide (f.len.toNat ≤ 4096)

/-- A frame that reaches the transport: a port that is UP, a valid FCS, the block's address, header fields as Table
13.3 gives them, and the type and class of its row. -/
def frameFits (s : State) (p : Fin 2) (f : Frame) (type cls : BitVec 8) : Bool :=
  decide (s.life.phase = .running) && portIsUp s p.val && f.fcsOk && addressed s p.val f && plumeOk f
    && f.type == type && f.cls == cls && decide (f.src ≠ s.straps.peerId) && decide (f.ssess ≠ 0)

/-- What a restart of a peer that is lost already ends: what it was sent, and what came from it, since the loss (R404,
R407). -/
def endLost (s : State) (q : Nat) : State := dropIncomplete (failExports (failImports s q) q) q

/-- The session of a frame's sender: a first contact is recorded; another number shows that the peer has restarted,
which loses it and starts new SEQ spaces (R407). -/
def meet (s : State) (f : Frame) : State :=
  let q := f.src.val
  let p := getPeer s q
  if p.sess = f.ssess then s
  else if p.sess = 0 then setPeer s q { p with sess := f.ssess }
  else
    let s1 := if p.lost then endLost s q else declareLost s q
    sendCtl (setPeer s1 q { sess := f.ssess, lost := true, alt := p.alt }) q 0xC3

/-- DSESS is the block's session, or 0 before the sender knows it: until a frame of it with that session has been
accepted (R392, Table 13.3). -/
def dsessOk (s : State) (f : Frame) : Bool :=
  f.dsess == s.light.session || (f.dsess == 0 && !(getPeer s f.src.val).known)

/-- Grants lent to the peers that port p serves. -/
def lent (s : State) (p : Nat) : Nat :=
  ((s.light.peers.filter fun e => portOf s e.1 == p).map fun e => e.2.pool).sum

/-- Take back the grants of the peers that have sent no frame in the last 100 µs (R395; log entry 111). -/
def takeBack (s : State) : State :=
  { s with light := { s.light with peers := tmap {} (fun _ p =>
      if 0 < p.pool ∧ p.heard + 12 * 100000 < s.clk then recalled p else p) s.light.peers } }

/-- Units of an accepted frame are granted again, but for those of grants taken back. -/
def regrant (n : Nat) (c : PClass) : PClass :=
  { c with grant := c.grant + BitVec.ofNat 16 (n - c.hold), hold := c.hold - n }

/-- A frame is accepted: the next SEQ, its units granted again, and one more grant from the pool while there is one
(R395). -/
def took (s0 : State) (q : Nat) (rsp : Bool) (f : Frame) : State :=
  let s := takeBack (setPeer s0 q { getPeer s0 q with heard := s0.clk })
  let p := getPeer s q
  let c := classOf p rsp
  let p1 := withClass p rsp (regrant (unitsOf f.payload.length) { c with rx := c.rx + 1, nak := false })
  let lend := decide (p.pool < 24) && decide (68 * (lent s (portOf s q) + 1) ≤ 7104)
  setPeer s q (if lend then
      { p1 with pool := p1.pool + 1, req := { p1.req with grant := p1.req.grant + 68 },
                rsp := { p1.rsp with grant := p1.rsp.grant + 68 } }
    else p1)

/-- A frame above the expected SEQ: one NAK until a frame is accepted (R392). -/
def nakOnce (s : State) (q : Nat) (rsp : Bool) : State :=
  let p := getPeer s q
  let c := classOf p rsp
  if c.nak then s
  else ctlOver (setPeer s q (withClass p rsp { c with nak := true })) (portOf s q) q 0xC2 c.rx (if rsp then 1 else 0)

/-- Units of the frames presented to q so far, of both classes. -/
def sentTo (s : State) (q : Nat) : BitVec 16 × BitVec 16 := ((getPeer s q).req.used, (getPeer s q).rsp.used)

/-- A request or response frame of a row: the frame expected next is accepted and acts; LINK answers it when no frame
that is presented then carries its acknowledgment (R393). -/
def recv (type : BitVec 8) (rsp : Bool) (h : State → Nat → State) (p : Fin 2) (f : Frame) (s : State) :
    Host.Outcome State Fault Refusal :=
  if frameFits s p f type (if rsp then 1 else 0) = false then .next s
  else
    let q := f.src.val
    let s1 := meet s f
    let c := classOf (getPeer s1 q) rsp
    if dsessOk s1 f = false then .next s1
    else if f.seq = c.rx then
      let s2 := took s1 q rsp f
      let s3 := h (acked s2 q f) q
      .next (if sentTo s3 q = sentTo s2 q then sendCtl s3 q 0xC1 else s3)
    else if before c.rx f.seq then .next (nakOnce s1 q rsp)
    else .next (sendCtl s1 q 0xC1)

/-- PLUME_WRITE. -/
def execPlumeWrite (p : Fin 2) (f : Frame) : State → Host.Outcome State Fault Refusal := recv 0x01 false (doWrite f) p f

/-- PLUME_READ. -/
def execPlumeRead (p : Fin 2) (f : Frame) : State → Host.Outcome State Fault Refusal := recv 0x02 false (doRead f) p f

/-- PLUME_ADD. -/
def execPlumeAdd (p : Fin 2) (f : Frame) : State → Host.Outcome State Fault Refusal := recv 0x03 false (doAdd f) p f

/-- DOORBELL. -/
def execDoorbell (p : Fin 2) (f : Frame) : State → Host.Outcome State Fault Refusal := recv 0x04 false (doBell f) p f

/-- STATE. -/
def execState (p : Fin 2) (f : Frame) : State → Host.Outcome State Fault Refusal := recv 0x05 false (doState f) p f

/-- CANCEL. -/
def execCancel (p : Fin 2) (f : Frame) : State → Host.Outcome State Fault Refusal := recv 0x06 false (doCancel f) p f

/-! ### Answers to the block's requests (R397, R398, R402) -/

/-- A status other than OK and FAULTED halts the context with REGION_FAULT (R397). -/
def refuseMove (s : State) (u : User) (addr : Nat) : State :=
  match moverOf s u with
  | none => s
  | some (x, img, ofs, mute) =>
    let s1 := markErr s u
    match winItemOf s1 x with
    | none => s1
    | some i => settle (moveHalt s1 x img ofs (mute || i.stopped) (hRegionFault, BitVec.ofNat 32 addr)) x

/-- An answer from q to a request: with OK one answer fewer is awaited. The room that was kept for it is free again. -/
def answer (p : Nat) (f : Frame) (g : Xfer → Nat → Xfer) (h : Lookup → Nat → Lookup) (s : State) (q : Nat) : State :=
  match s.light.asked.find? fun a => a.xid == f.xid && a.peer == q with
  | none => s
  | some a =>
    let s1 := { s with light := { s.light with asked := delFirst (fun b => decide (b = a)) s.light.asked } }
    let s2 :=
      if f.status.toNat = stOk then
        goXfers (updMove s1 a.user (fun t => { g t a.ofs with acks := t.acks - 1 })
          fun l => { h l a.ofs with acks := l.acks - 1 })
      else if f.status.toNat = stFaulted then portFault s1 a.user 0x22 (lightLoc p q) false 0
      else refuseMove s1 a.user a.addr
    presentPeer s2 q

/-- WACK. -/
def execWack (p : Fin 2) (f : Frame) : State → Host.Outcome State Fault Refusal :=
  recv 0x81 true (answer p.val f (fun t _ => t) fun l _ => l) p f

/-- RDATA: the data goes where the request asked. -/
def execRdata (p : Fin 2) (f : Frame) : State → Host.Outcome State Fault Refusal :=
  recv 0x82 true (answer p.val f (fun t o => { t with rx := storeBytes t.rx o f.payload })
    fun l o => { l with rx := storeBytes l.rx o f.payload }) p f

/-- AACK: the flags that the adds raised (08 R291). -/
def execAack (p : Fin 2) (f : Frame) : State → Host.Outcome State Fault Refusal :=
  recv 0x83 true (answer p.val f (fun t _ => { t with flags := t.flags ||| f.flags.setWidth 5 }) fun l _ => l) p f

/-- DACK. -/
def execDack (p : Fin 2) (f : Frame) : State → Host.Outcome State Fault Refusal :=
  recv 0x84 true (answer p.val f (fun t _ => t) fun l _ => l) p f

/-- The first SRESULT of a move confirms or fails the export (R402, R403). -/
def doSresult (f : Frame) (s : State) (q : Nat) : State :=
  match s.light.asked.find? fun a => a.xid == f.xid && a.peer == q with
  | none => s
  | some a =>
    match a.user with
    | .exp v => presentPeer (if f.status.toNat = stOk then exportDone s v f.aux else exportFail s v f.status.toNat) q
    | _ => presentPeer { s with light := { s.light with asked := delFirst (fun b => decide (b = a)) s.light.asked } } q

/-- SRESULT. -/
def execSresult (p : Fin 2) (f : Frame) : State → Host.Outcome State Fault Refusal := recv 0x85 true (doSresult f) p f

/-! ### Link control (R389, R393) -/

/-- A link-control frame of a row: its acknowledgments and credits act, then what the row adds. -/
def recvCtl (type : BitVec 8) (h : State → Nat → State) (p : Fin 2) (f : Frame) (s : State) :
    Host.Outcome State Fault Refusal :=
  if frameFits s p f type 2 = false then .next s
  else
    let s1 := meet s f
    if dsessOk s1 f = false then .next s1 else .next (h (acked s1 f.src.val f) f.src.val)

/-- LINK. -/
def execLink (p : Fin 2) (f : Frame) : State → Host.Outcome State Fault Refusal := recvCtl 0xC1 (fun s _ => s) p f

/-- The frames of a class to peer q are sent again from the SEQ that a NAK names (R393). -/
def resendTo (s : State) (q : Nat) (rsp : Bool) (from_ : Word) : State :=
  let p := getPeer s q
  setPeer s q (withClass p rsp (resend (stamped s q (portOf s q)) from_ (classOf p rsp)))

/-- NAK: SEQ and, in FLAGS bit 0, the class. -/
def execNak (p : Fin 2) (f : Frame) : State → Host.Outcome State Fault Refusal :=
  recvCtl 0xC2 (fun s q => resendTo s q (f.flags.getLsbD 0) f.seq) p f

/-- PROBE: answered over the port that it came by (DESIGN CHOICE, log entry 163). A lost peer that probes is probed
too. -/
def execProbe (p : Fin 2) (f : Frame) : State → Host.Outcome State Fault Refusal :=
  recvCtl 0xC3 (fun s q =>
    let s1 := ctlOver s p.val q 0xC4 0 0
    if (getPeer s q).lost then sendCtl s1 q 0xC3 else s1) p f

/-- The answer to a PROBE: the peer is reachable again, and over its primary port the pair may move back. -/
def probed (p : Nat) (s : State) (q : Nat) : State :=
  let r := getPeer s q
  let s1 := setPeer s q { r with lost := false, probed := r.probed || (r.alt && p == primaryPort s q) }
  presentPeer (moveBack s1 q) q

/-- PROBE_REPLY. -/
def execProbeReply (p : Fin 2) (f : Frame) : State → Host.Outcome State Fault Refusal := recvCtl 0xC4 (probed p.val) p f

/-! ### Timers and ports (R387, R389, R393, R405, R406) -/

/-- A frame to q has been presented and is not acknowledged. -/
def frameWaits (s : State) (q : Nat) : Bool := unacked (getPeer s q).req || unacked (getPeer s q).rsp

/-- The frames kept for peer q go out again in SEQ order over the port that serves it, while that is UP; else they stay
queued (R405). -/
def resendPeer (s : State) (q : Nat) (count : PClass → Nat) : State :=
  let p := getPeer s q
  if portIsUp s (portOf s q) = false then s
  else
  let go := fun (c : PClass) => { resendAll (stamped s q (portOf s q)) c with timeouts := count c }
  setPeer s q { p with req := go p.req, rsp := go p.rsp }

/-- The pair of peer q moves to the other port, and its frames are sent again there; a PROBE asks over the primary port
(R389, R405). -/
def movePair (s : State) (q : Nat) : State :=
  let p := getPeer s q
  let s1 := resendPeer (askAgain (setPeer s q { p with alt := !p.alt, probed := false }) q) q fun _ => 0
  if p.alt then s1 else ctlOver s1 (primaryPort s q) q 0xC3 0 0

/-- The pair of peer q moves, and what waits for it may be presented at its new port. -/
def switchPort (s : State) (q : Nat) : State := presentPeer (movePair s q) q

/-- A retry timeout counted for the classes whose oldest frame waits. -/
def countTimeout (c : PClass) : Nat := if unacked c then c.timeouts + 1 else 0

/-- Four retry timeouts in a row have hit one frame to peer q, which its primary port serves while the other is UP. -/
def hitFour (s : State) (q : Nat) : Bool :=
  let p := getPeer s q
  (decide (4 ≤ p.req.timeouts) || decide (4 ≤ p.rsp.timeouts)) && !p.alt && portIsUp s (1 - primaryPort s q)

/-- RETRY_TIMEOUT: the kept frames are sent again; the fourth in a row on one frame moves the pair from its primary
port. -/
def execRetryTimeout (q : Fin 64) (s : State) : Host.Outcome State Fault Refusal :=
  if frameWaits s q.val = false then .next s
  else
    let s1 := resendPeer s q.val countTimeout
    .next (if hitFour s1 q.val then switchPort s1 q.val else s1)

/-- PEER_LOST: a frame to q has stood unacknowledged for 1 ms. For a peer that is lost already, the exports to it and
the imports from it since then fail (R404). -/
def execPeerLost (q : Fin 64) (s : State) : Host.Outcome State Fault Refusal :=
  if frameWaits s q.val = false then .next s
  else if (getPeer s q.val).lost then .next (failExports (failImports s q.val) q.val)
  else .next (losePeer s q.val)

/-- Set port p UP or DOWN. A port that is UP has an optical engine that is ready and reports no fault (R387); which of
the conditions fails as it goes DOWN is not told, and the two inputs stay as they were (DESIGN CHOICE, log entry 163).
-/
def setPort (s : State) (p : Nat) (up : Bool) : State :=
  let m : BitVec 2 := BitVec.ofNat 2 (2 ^ p)
  { s with light := { s.light with
      up := if up then s.light.up ||| m else s.light.up &&& ~~~m
      oeReady := if up then s.light.oeReady ||| m else s.light.oeReady
      oeFaultN := if up then s.light.oeFaultN ||| m else s.light.oeFaultN } }

/-- PORT_DOWN: the port fault, and the pairs it served move to the other port (R387, R405). -/
def execPortDown (p : Fin 2) (s : State) : Host.Outcome State Fault Refusal :=
  if portIsUp s p.val = false then .next s
  else
    let s1 := report (setPort s p.val false) none 0x22 0 none none (BitVec.ofNat 32 p.val)
    .next (presentPort ((List.range 64).foldl (fun s q => if portOf s q = p.val then movePair s q else s) s1) (1 - p.val))

/-- A port has come UP: a pair that no port serves moves to it, one whose primary port it is is probed over it, and so
is a lost peer. -/
def portRisen (p : Nat) (s : State) (q : Nat) : State :=
  let s1 := if portIsUp s (portOf s q) then s else movePair s q
  let r := getPeer s1 q
  if (r.alt = true ∧ primaryPort s1 q = p) ∨ r.lost = true then ctlOver s1 p q 0xC3 0 0 else s1

/-- PORT_UP. -/
def execPortUp (p : Fin 2) (s : State) : Host.Outcome State Fault Refusal :=
  if awake s = false ∨ portIsUp s p.val = true then .next s
  else .next (presentPort ((List.range 64).foldl (fun s q => portRisen p.val s q) (setPort s p.val true)) p.val)

end Sys2Proof.Machine
end

