-- ==== Sys2Proof/Machine/PortRows.lean ====
section
/-! DEFINITION. Responses of the Memory Port and the Host Port, credits, and the link events
(12_host_and_memory_ports.md R363 to R368, R379 to R383). -/

namespace Sys2Proof.Machine

/-! ### What follows the end of a request -/

/-- A region export whose requests but the last fence have ended is EXPORTED (01 Table 01.5). -/
def markExports (s : State) : State :=
  (s.exports.filter fun e => e.peer.isNone).foldl (fun s e =>
    match jobOf s (.exp e.slot) with
    | some j =>
      if j.err = false ∧ j.stages.length ≤ 1 then
        updSlot s e.slot fun v => if v.st = .migrating then { v with st := .exported } else v
      else s
    | none => s) s

/-- Requests that may be presented now are, and what waited for the ended ones goes on. -/
def goOn (s : State) : State := goXfers (settleRemotes (goAdds (markExports (pump s))))

/-- A port fault of a request reaches what waits for it (12 R368, R379): a transfer or lookup stops its attempt, or
with `halt` its context halts; an export fails with a status; a record or fence of a CQ in a space 3 region makes its
channel HOST_LOST. The others find the fault in their job. -/
def reqFault (s : State) (u : User) (unit : BitVec 8) (loc : Word) (halt : Bool) (addr status : Nat) : State :=
  match u with
  | .exp v => exportFail (report s none unit 0 none none loc) v status
  | .fetch _ img line => fillFault s (unit == 0x21) loc img line
  | .xfer _ => portFault s u unit loc halt (BitVec.ofNat 32 addr)
  | .look _ => portFault s u unit loc halt (BitVec.ofNat 32 addr)
  | .add _ => portFault s (ownerOf s u) unit loc halt (BitVec.ofNat 32 addr)
  | .post i k =>
    let s1 := report s none unit 0 none none loc
    if k ≠ 0 ∧ hostCq s i = true then loseChan s1 i else s1
  | _ => report s none unit 0 none none loc

/-- A request ends, OK or with a fault; with `last` its tag is free again. One that had ended before only frees its
tag, and a WRITE acknowledged late lands (12 R363, R365). -/
def finishReq (s : State) (r : Req) (ok last : Bool) : State :=
  let s1 := endReq s r ok last
  if ok = true ∨ r.retired = true then goOn s1
  else
    let loc : Word := if r.host then 0 else BitVec.ofNat 32 r.chan
    let halt := r.host && decide (r.b.kind = .read)
    goOn (reqFault s1 r.user (if r.host then 0x21 else 0x20) loc halt r.b.addr stFaulted)

/-! ### Memory Port -/

/-- The outstanding request of a channel with a tag. -/
def memReq (s : State) (n tag : Nat) : Option Req := s.reqs.find? fun r => !r.host && r.chan == n && r.tag == tag

/-- MEM_RESPONSE (R363): a beat of a READ; the last one ends it. -/
def execMemResponse (n : Fin 16) (tag : Fin 256) (status : Fin 4) (last : Bool) (s : State) :
    Host.Outcome State Fault Refusal :=
  match memReq s n.val tag.val with
  | none => .next s
  | some r =>
    if r.b.kind ≠ .read then .next s
    else if status.val ≠ 0 ∧ r.retired = false then .next (finishReq s r false last)
    else if last then .next (finishReq s r true true)
    else .next s

/-- MEM_ACK (R365): a write acknowledgment or a fence completion. -/
def execMemAck (n : Fin 16) (tag : Fin 256) (status : Fin 4) (s : State) : Host.Outcome State Fault Refusal :=
  match memReq s n.val tag.val with
  | none => .next s
  | some r => if r.b.kind = .read ∨ 0 < r.wd then .next s else .next (finishReq s r (status.val == 0) true)

/-- MEM_TAG_TIMEOUT (R368): no response within 100 µs. -/
def execMemTagTimeout (n : Fin 16) (tag : Fin 256) (s : State) : Host.Outcome State Fault Refusal :=
  match memReq s n.val tag.val with
  | none => .next s
  | some r => if r.retired then .next s else .next (finishReq s r false false)

/-- MEM_CREDIT_RETURN (R363): one credit; the requests that it lets through are presented. -/
def execMemCreditReturn (n : Fin 16) (wd : Bool) (s : State) : Host.Outcome State Fault Refusal :=
  let c := getMemCh s n.val
  let c1 := if wd then { c with wdCrd := c.wdCrd + 1, wdTotal := c.wdTotal + 1 }
            else { c with reqCrd := c.reqCrd + 1, reqTotal := c.reqTotal + 1 }
  if awake s then .next (goOn (sendBeats (setMemCh s n.val c1) n.val)) else .next s

/-! ### Host Port completions -/

/-- The outstanding read or fence with a tag. -/
def hostReq (s : State) (tag : Nat) : Option Req := s.reqs.find? fun r => r.host && r.tag == tag

/-- HOST_COMPLETION (R379). -/
def execHostCompletion (tag : Fin 256) (status : Fin 4) (s : State) : Host.Outcome State Fault Refusal :=
  match hostReq s tag.val with
  | none => .next s
  | some r => .next (finishReq s r (status.val == 0) true)

/-- HOST_READ_TIMEOUT (R379): no completion within 60 ms. -/
def execHostReadTimeout (tag : Fin 256) (s : State) : Host.Outcome State Fault Refusal :=
  match hostReq s tag.val with
  | none => .next s
  | some r => if r.retired then .next s else .next (finishReq s r false false)

/-! ### Link events (R380 to R383, Table 12.6) -/

/-- A job that wants the host and has requests it has not presented. -/
def wantsHost (j : Job) : Bool := j.stages.any fun st => st.any (·.host)

/-- The requests that are held fail at once, as port faults of what waits for them (R380, R382). -/
def failHeld (s : State) : State :=
  (s.jobs.filter wantsHost).foldl (fun s j =>
    let a := ((j.stages.flatten.find? (·.host)).map (·.addr)).getD 0
    reqFault (failJob s j.user) j.user 0x21 0 true a stHostLost) s

/-- Exports to host regions fail with HOST_LOST (01 R47); one whose second fence has completed counts as confirmed
(R383). -/
def failHostExports (s : State) : State :=
  (s.exports.filter fun e => e.host && (!jobDone s (.exp e.slot) || jobErr s (.exp e.slot))).foldl
    (fun s e => exportFail s e.slot stHostLost) s

/-- Channels with a ring in a space 3 region are HOST_LOST (R381). -/
def loseHostChans (s : State) : State :=
  (s.chans.filter fun e => (getRegion s (regIdx e.2.sqReg)).host || (getRegion s (regIdx e.2.cqReg)).host).foldl
    (fun s e => loseChan s e.1) s

/-- Events are posted, and the requests and channels of the host are lost. -/
def hostLoss (s : State) (code : Nat) : State :=
  failHeld (failHostExports (loseHostChans (postBlockEvent s 0x0031 (leBytes 1 code))))

/-- Space 3 regions become invalid (R382). -/
def invalidateHost (s : State) : State :=
  { s with regions := tmap {} (fun _ r => if r.host then { r with invalid := true } else r) s.regions }

/-- The link's inputs as sampled. -/
def setLink (s : State) (up retrain : Bool) : State :=
  { s with host := { s.host with up, retrain, expired := s.host.expired && retrain } }

/-- A link event while the block is out of reset; else the inputs alone change. -/
def linkEvent (s : State) (up retrain : Bool) (f : State → State) : Host.Outcome State Fault Refusal :=
  if awake s then .next (f (setLink s up retrain)) else .next (setLink s up retrain)

/-- LINK_DOWN. -/
def execLinkDown (s : State) : Host.Outcome State Fault Refusal :=
  if s.host.up = false then .next s else linkEvent s false s.host.retrain fun s => hostLoss s 1

/-- LINK_UP: requests resume. -/
def execLinkUp (s : State) : Host.Outcome State Fault Refusal :=
  if s.host.up = true then .next s
  else linkEvent s true s.host.retrain fun s => goOn (postBlockEvent s 0x0031 (leBytes 1 0))

/-- RETRAIN_START: requests are held. -/
def execRetrainStart (s : State) : Host.Outcome State Fault Refusal :=
  if s.host.retrain = true then .next s
  else linkEvent s s.host.up true fun s => postBlockEvent s 0x0031 (leBytes 1 2)

/-- RETRAIN_END: requests resume. After a retrain timeout the fall is not within 50 ms, and posts nothing. -/
def execRetrainEnd (s : State) : Host.Outcome State Fault Refusal :=
  if s.host.retrain = false then .next s
  else if s.host.expired then linkEvent s s.host.up false goOn
  else linkEvent s s.host.up false fun s => goOn (postBlockEvent s 0x0031 (leBytes 1 3))

/-- RETRAIN_TIMEOUT: as a link down, until the retrain ends. -/
def execRetrainTimeout (s : State) : Host.Outcome State Fault Refusal :=
  if s.host.retrain = false ∨ s.host.expired = true then .next s
  else linkEvent s s.host.up true fun s => hostLoss { s with host := { s.host with expired := true } } 6

/-- HOT_RESET: it ends a retrain, every space 3 region becomes invalid, and requests resume while the link is up
(R380, R383). -/
def execHotReset (s : State) : Host.Outcome State Fault Refusal :=
  linkEvent s s.host.up false fun s => goOn (hostLoss (invalidateHost s) 4)

/-- FUNCTION_LEVEL_RESET. -/
def execFunctionLevelReset (s : State) : Host.Outcome State Fault Refusal :=
  linkEvent s s.host.up s.host.retrain fun s => goOn (hostLoss (invalidateHost s) 5)

end Sys2Proof.Machine
end

