-- ==== Sys2Proof/Machine/Resets.lean ====
section
/-! DEFINITION. The steps of the escalation ladder as they complete, late steps, and the copy of the Ashfall dump
(14_faults_and_recovery.md R432 to R437). -/

namespace Sys2Proof.Machine

/-- CONTEXT_RESET: the running context reset of context x completes. -/
def execContextReset (x : Fin 64) (s : State) : Host.Outcome State Fault Refusal :=
  match running s 1 x.val with
  | none => .next s
  | some q => .next (endStep (ctxReset s x.val) q)

/-- ENGINE_RESET. -/
def execEngineReset (c : Fin 4) (s : State) : Host.Outcome State Fault Refusal :=
  match running s 2 c.val with
  | none => .next s
  | some q => .next (endStep (engReset s c.val) q)

/-- PARTITION_RESET. -/
def execPartitionReset (p : Fin 4) (s : State) : Host.Outcome State Fault Refusal :=
  match running s 3 p.val with
  | none => .next s
  | some q => .next (endStep (partReset s p.val q.mbs) q)

/-- The wipe of a block reset. The step goes on until the firmware runs; its RESET command writes no response
(R432, 09 R304). Where a secure wipe that is due takes over, the block reset is not finished (15 R463). -/
def blockStep (s : State) : State :=
  let low := if s.life.wipe.isSome then 5 else 4
  let more := s.ladder.filter fun q => decide (low ≤ q.level)
  { blockReset s with ladder := more.map fun q => { q with mbs := [], wiped := true } }

/-- BLOCK_RESET: the running block reset wipes the block and begins the boot, once. -/
def execBlockReset (s : State) : Host.Outcome State Fault Refusal :=
  match running s 4 0 with
  | none => .next s
  | some q => if q.wiped then .next s else .next (blockStep s)

/-- Every Caldera is held in reset. -/
def holdAll (s : State) : State :=
  (List.range 4).foldl (fun s c => updCal (engReset s c) c fun k => { k with held := true }) s

/-- POWER_CYCLE: every Caldera is held until a power-on reset; CRP_PWRCYC_REQ_N has been asserted since the step
started. -/
def execPowerCycle (s : State) : Host.Outcome State Fault Refusal :=
  match running s 5 0 with
  | none => .next s
  | some _ => if (List.range 4).all fun c => (getCal s c).held then .next s else .next (holdAll s)

/-- Level and target of the step after a late one (Table 14.6). -/
def nextStep (s : State) (q : LStep) : Option (Nat × Nat) :=
  match q.level with
  | 1 => some (2, ctxCal q.target)
  | 2 => some (3, (getCal s q.target).part)
  | 3 => some (4, 0)
  | 4 => some (5, 0)
  | _ => none

/-- ESC_LATE (R433): the running step at place n exceeds its bound. -/
def execEscLate (n : Nat) (s : State) : Host.Outcome State Fault Refusal :=
  match s.ladder[n]? with
  | none => .next s
  | some q =>
    match nextStep s q with
    | none => .next s
    | some l => .next (startStep (raiseFatal s 8) l.1 l.2 3 none [])

/-! ### DUMP_COPY (R436) -/

/-- The DUMP_SET region is live, valid and within reach. -/
def dumpPlace (s : State) : Bool :=
  s.dump.set && writable s s.dump.reg s.dump.ofs 0x60000

/-- DUMP_COPY: the held dump goes to its region in WRITEs of at most 256 B, a flush-read fence of the port ends the
copy, and the dump area is free again. A copy that meets a port fault leaves the dump in CP memory. -/
def execDumpCopy (s : State) : Host.Outcome State Fault Refusal :=
  if s.life.phase ≠ .running ∨ s.dump.held = false then .next s
  else if (jobOf s .dump).isSome then
    if jobDone s .dump = false then .next s
    else if jobErr s .dump then .next (dropJob s .dump)
    else .next { dropJob s .dump with dump := { s.dump with held := false, mem := [] } }
  else if dumpPlace s then
    let ws := regWrites s s.dump.reg s.dump.ofs (loadBytes s.dump.mem 0 0x60000)
    .next (addJob s .dump [ws, fenceBursts (getRegion s (regIdx s.dump.reg)).host ws])
  else .next s

end Sys2Proof.Machine
end

