-- ==== Sys2Proof/Machine/Power.lean ====
section
/-! DEFINITION. Power-on and warm reset, the reset phases, the firmware image, secure wipe, wake from RETAIN, and the
life cycle (15_lifecycle_power_debug.md R438 to R459, R463; 01 R54; 09 R300). -/

namespace Sys2Proof.Machine

/-! ### Power-on and warm reset (R440, R441) -/

/-- The block with CRP_POR_N asserted: what is outside it, and its inputs, stay. -/
def powerOff (s : State) : State :=
  { State.reset with
    pending := s.pending, straps := s.straps, host := { up := s.host.up, retrain := s.host.retrain },
    light := { oeReady := s.light.oeReady, oeFaultN := s.light.oeFaultN }, imem := s.imem,
    hmem := s.hmem, life := { lcIn := s.life.lcIn, lcValid := s.life.lcValid }, nid := s.nid, draws := s.draws }

/-- CRP_POR_N_ASSERT: the block is in reset, and CRP_PWRCYC_REQ_N is released. -/
def execCrpPorNAssert (s : State) : Host.Outcome State Fault Refusal := .next (powerOff s)

/-- The release of CRP_POR_N: phases 1 to 3 (Table 15.2). -/
def powerOn (s : State) : State :=
  let w := { wiped s true with dump := {} }
  samplePhase { w with life := { w.life with levelDefault := true } }

/-- POWER_ON_RESET. -/
def execPowerOnReset (s : State) : Host.Outcome State Fault Refusal :=
  if s.life.phase = .held then .next (powerOn s) else .next s

/-- A warm reset: a block reset that captures no dump and leaves LAST_STEP; a power cycle goes on. -/
def warm (s : State) : State := { blockReset s with ladder := s.ladder.filter fun q => decide (q.level = 5) }

/-- WARM_RESET. -/
def execWarmReset (s : State) : Host.Outcome State Fault Refusal :=
  if s.life.phase = .held then .next s else .next (warm s)

/-- LC_VALID: CRP_LC_VALID rises with a code; phase 3 goes on where it waits. -/
def execLcValid (code : BitVec 3) (s : State) : Host.Outcome State Fault Refusal :=
  if s.life.lcValid then .next s
  else .next (samplePhase { s with life := { s.life with lcIn := code, lcValid := true } })

/-! ### FIRMWARE_VERIFY (R443, R444) -/

/-- The image's header at CRP_FW_BASE. -/
def fwHead (s : State) : List Byte := loadBytes s.imem s.straps.fwBase.toNat 256

/-- PUBKEY of a header. -/
def fwKey (hd : List Byte) : List Byte := (hd.drop 16).take 96

/-- Step 1: MAGIC, FVER, the reserved bytes and BODY_SIZE. -/
def fwForm (hd : List Byte) : Bool :=
  decide (hdrN hd 0 4 = 0x464C4657) && decide (hdrN hd 4 2 = 1) && decide (hdrN hd 10 2 = 0) && zeros (hd.drop 208)
    && decide (hdrN hd 12 4 % 4096 = 0) && decide (hdrN hd 12 4 ≤ 1048320)

/-- The signed bytes: the header without SIG, then the body. -/
def fwSigned (s : State) (hd : List Byte) : List Byte :=
  hd.take 112 ++ hd.drop 208 ++ loadBytes s.imem (s.straps.fwBase.toNat + 256) (hdrN hd 12 4)

/-- The image verifies. -/
def fwOk (s : State) : Bool :=
  let hd := fwHead s
  fwForm hd && decide (ofBe (sha384 (fwKey hd)) = s.straps.fwKeyHash.toNat)
    && decide (s.straps.fwMinVer.toNat ≤ hdrN hd 8 2) && ecdsaOk (fwKey hd) (fwSigned s hd) ((hd.drop 112).take 96)
    && decide (hdrN hd 6 1 = 2) && decide (hdrN hd 7 1 = 4)

/-- The verification fails: FW_AUTH, FAILED; a block reset that led here is not complete (14 R432). -/
def fwFail (s : State) : State :=
  raiseFatal { s with cp := { s.cp with fwState := .failed }, life := { s.life with phase := .failed } } 2

/-- One partition of the four Calderas and mailboxes 1 to 15 (09 R300). -/
def oneLayout (s : State) : State :=
  (List.range 15).foldl (fun s m => updMb s (m + 1) fun b => { b with owner := 0 })
    (updPart s 0 fun q => { q with exist := true })

/-- A slot that leaves RETAIN (01 R54). One whose check fails is reported, whatever its state was (15 R450), with a
fault record of OUTCOME DATA_LOST and word 0 (DESIGN CHOICE, log entry 158). -/
def wakeSlot (s : State) (i : Nat) : State :=
  let v := getSlot s i
  if v.st = .free then s
  else if slotCrc s i = v.crc then setSlot s i { v with crc := 0 }
  else
    let s1 := setSlot { s with sinter := clearRange s.sinter (i * Config.slotBytes) Config.slotBytes } i
      { v with crc := 0 }
    faultStream (report s1 none 0x03 4 none none (BitVec.ofNat 32 i)) i 0x03

/-- Phase 6: the Calderas are released, the layout is set up or restored, and the firmware runs. No rule says when
LTP_OE_RST_N is driven: the model releases the optical engines here (DESIGN CHOICE, log entry 163). -/
def fwStart (s : State) : State :=
  let s1 := { s with cp := { s.cp with fwState := .running, pubkey := fwKey (fwHead s) },
                     life := { s.life with phase := .running, waking := false },
                     light := { s.light with oeRstN := 3 },
                     flt := { s.flt with blockEnd := if (running s 4 0).isSome then some s.clk else none },
                     ladder := s.ladder.filter fun q => decide (q.level ≠ 4) }
  let s2 := (List.range 4).foldl (fun s c => updCal s c fun k => { k with held := s.pwrcyc }) s1
  if s.life.waking then (List.range 4096).foldl wakeSlot s2 else oneLayout s2

/-- First byte and size of the firmware image's place in CP memory, behind the dump area and the slot table. -/
def cpImage : Nat := 655360
def cpImageBytes : Nat := 1048576

/-- Phase 4: the image is read into CP memory (R440). -/
def fwFetch (s : State) : State :=
  let n := min cpImageBytes (256 + hdrN (fwHead s) 12 4)
  { s with cpMem := storeBytes s.cpMem cpImage (loadBytes s.imem s.straps.fwBase.toNat n) }

/-- FIRMWARE_VERIFY: phases 4 to 6. -/
def execFirmwareVerify (s : State) : Host.Outcome State Fault Refusal :=
  if s.life.phase ≠ .boot then .next s
  else if fwOk s then .next (fwStart (fwFetch s))
  else .next (fwFail (fwFetch s))

/-! ### SECURE_WIPE and WAKE (R446, R450, R451) -/

/-- SECURE_WIPE: the wipe that a command has brought about starts. -/
def execSecureWipe (s : State) : Host.Outcome State Fault Refusal := .next ((dueWipe s).getD s)

/-- The wake from RETAIN (Table 15.4): slots, layout and partition parameters are kept, retirements are cleared. -/
def wakeUp (s : State) : State :=
  let w := wiped s false
  let part := fun (_ : Nat) (q : Part) =>
    ({ exist := q.exist, full := q.full, exportTo := q.exportTo, tableTo := q.tableTo } : Part)
  let slot := fun (_ : Nat) (v : Slot) => { v with held := false, retired := false, chValid := false, qdepth := 0 }
  let cals := tmap {} (fun c _ => { part := (getCal s c).part }) s.cals
  let mbs := tmap {} (fun _ b => { owner := b.owner }) s.mbs
  samplePhase { w with
    sinter := s.sinter, slots := tmap {} slot s.slots, parts := tmap {} part s.parts, cals, mbs, dump := {},
    life := { w.life with level := .closed, levelDefault := false, waking := true },
    ladder := s.ladder.filter fun q => decide (q.level = 5) }

/-- WAKE: a rising edge of CRP_WAKE in RETAIN; at any other time it is ignored. A block reset that has started goes
first (R463). -/
def execWake (s : State) : Host.Outcome State Fault Refusal :=
  if s.life.pstate = .retain ∧ s.life.pwrSafe = true ∧ running s 4 0 = none then .next (wakeUp s) else .next s

/-! ### Life cycle (R439, R454) -/

/-- Phase 3 has sampled the life-cycle state. -/
def booted (s : State) : Bool := decide (s.life.phase ≠ .held) && decide (s.life.phase ≠ .lifeCycle)

/-- The wipe of a life-cycle change to the code sampled; END, when it is not the acknowledged outcome of a request or
the inputs are not valid. -/
def lifeChange (s : State) (granted : Bool) : State :=
  if granted then secureWipeTo s none else holdEnd { wiped s false with dump := {} }

/-- LC_STATE_CHANGE: a change of CRP_LC_STATE, or a fall of CRP_LC_VALID. -/
def execLcStateChange (code : BitVec 3) (valid : Bool) (s : State) : Host.Outcome State Fault Refusal :=
  let s1 := { s with life := { s.life with lcIn := code, lcValid := valid } }
  if booted s = false ∨ (valid = true ∧ code = s.life.lc) then .next s1
  else .next (lifeChange s1 (valid && s.life.lcAcked && s.life.lcReq == code))

/-- LC_REQ_ACK: the root of trust has taken the request. -/
def execLcReqAck (s : State) : Host.Outcome State Fault Refusal :=
  if s.life.lcReqValid then .next { s with life := { s.life with lcReqValid := false, lcAcked := true } } else .next s

/-- LC_REQ_TIMEOUT: the request is withdrawn. -/
def execLcReqTimeout (s : State) : Host.Outcome State Fault Refusal :=
  if s.life.lcReqValid then .next { s with life := { s.life with lcReqValid := false, lcReq := 0 } } else .next s

/-- NONCE_LAPSE (R457). -/
def execNonceLapse (s : State) : Host.Outcome State Fault Refusal :=
  .next { s with life := { s.life with nonce := 0, nonceFor := 0 } }

end Sys2Proof.Machine
end

