-- ==== Sys2Proof/Machine/Debug.lean ====
section
/-! DEFINITION. The debug segment: what each instruction reads or writes, and the reading of the register window
(15_lifecycle_power_debug.md R456, Table 15.8; 09 Tables 09.1 to 09.9; 00 Table 00.4). -/

namespace Sys2Proof.Machine

/-! ### Reading the register window (09 R293) -/

/-- FW_STATUS (Table 09.4). -/
def fwStatus (s : State) : Nat :=
  match s.cp.fwState with
  | .reset => 0
  | .boot => 1
  | .running => 2 + 256 * 4 + 65536 * 2
  | .stopped => 3
  | .failed => 4

/-- MB_CTRL (Table 09.8). -/
def mbCtrl (b : Mailbox) : Nat :=
  (match b.st with
    | .idle => 0
    | .busy => 2
    | .done => 4) + 16 * b2n b.overrun + 256 * b.owner.toNat

/-- A doorbell register: PROD and CONS. -/
def dbWord (prod cons : BitVec 16) : Nat := prod.toNat + 65536 * cons.toNat

/-- Word a of the register window, as a read of 4 bytes answers it. -/
def windowWord (s : State) (a : Nat) : Nat :=
  if a % 4 ≠ 0 then 0
  else if a = 0 then identLo
  else if a = 4 then identHi
  else if a = 8 then fwStatus s
  else if a = 0x10 then s.cp.fatal.toNat
  else if a = 0x20 then s.cp.intStatus.toNat
  else if a = 0x24 then s.cp.intEnable.toNat
  else if a = 0x30 then timeNow s % 2 ^ 32
  else if a = 0x34 then s.cp.timeHi.toNat
  else if 0x100 ≤ a ∧ a < 0x140 then mbCtrl (getMb s ((a - 0x100) / 4))
  else if 0x10000 ≤ a ∧ a < 0x12000 then
    let b := getMb s ((a - 0x10000) / 0x200)
    if a % 0x200 < 0x100 then load b.cmd (a % 0x200) 4 else load b.rsp (a % 0x200 - 0x100) 4
  else if 0x20000 ≤ a ∧ a < 0x20400 then
    let c := getChan s ((a - 0x20000) / 4)
    dbWord c.sqProd c.sqCons
  else if 0x30000 ≤ a ∧ a < 0x30400 then
    let c := getChan s ((a - 0x30000) / 4)
    dbWord c.cqProd c.cqCons
  else if 0x40000 ≤ a ∧ a < 0x40010 then
    let q := getPart s ((a - 0x40000) / 4)
    dbWord q.eqProd q.eqCons
  else 0

/-- What a read of n bytes at an offset of the window answers: a mailbox buffer an aligned access of 4 to 64 B, a
register an aligned word; everything else, and a read while the window does not answer, reads as zero (R293, R294). -/
def windowRead (s : State) (a n : Nat) : List Byte :=
  let buf := decide (0x10000 ≤ a) && decide (a < 0x12000) && bufferSize n
  if windowLive s ∧ a % n = 0 ∧ (buf ∨ n = 4) then
    (List.range (n / 4)).flatMap fun k => leBytes 4 (windowWord s (a + 4 * k))
  else List.replicate n 0

/-! ### Instructions -/

/-- The segment holds instruction n, with a value in its data register. An instruction reaches it while DBG_SEL and
DBG_TRST_N are 1 (Table 15.1). -/
def dbgSet (s : State) (n : BitVec 8) (v : Nat) : State :=
  { s with life := { s.life with ir := n, dr := BitVec.ofNat 64 v, dbgSel := true, trstN := true } }

/-- Another instruction than SCAN leaves SCAN, which performs a power-on reset (Table 15.8). -/
def scanLeft (s : State) : State := if s.life.scan then powerOn (powerOff s) else s

/-- An instruction above the present level selects BYPASS (R456). -/
def dbgNo (s : State) : State := dbgSet s 0xFF 0

/-- Run an instruction, other than SCAN, that needs level n or above. -/
def dbgAt (n : Nat) (s0 : State) (f : State → Host.Outcome State Fault Refusal) : Host.Outcome State Fault Refusal :=
  let s := scanLeft s0
  if n ≤ levelNo s.life.level then f s else .next (dbgNo s)

/-- BYPASS: one bit. -/
def execBypass (tdi : Bool) (s : State) : Host.Outcome State Fault Refusal :=
  .next (dbgSet (scanLeft s) 0xFF (b2n tdi))

/-- Number of FWSTATE (09 Table 09.4) and of a power state (Table 15.1). -/
def pstateNo : PState → Nat
  | .active => 0
  | .idle => 1
  | .retain => 2
  | .off => 3

/-- DSTAT: level [1:0], life-cycle code [4:2], FWSTATE [7:5], CRP_PSTATE [9:8]. -/
def execDstat (s0 : State) : Host.Outcome State Fault Refusal :=
  let s := scanLeft s0
  .next (dbgSet s 0x01 (levelNo s.life.level + 4 * s.life.lc.toNat + 32 * (fwStatus s % 8) + 256 * pstateNo s.life.pstate))

/-- Bytes of a halt record. -/
def haltBytes (h : Halt) : List Byte :=
  leBytes 1 h.ctx ++ leBytes 1 h.reason ++ leBytes 2 h.img.toNat ++ leBytes 4 h.ofs ++ leBytes 4 h.detail.toNat
    ++ leBytes 1 (hslot h) ++ leBytes 3 0

/-- What OBSREG reads at an offset: the register window; from 0x100_0000 the stall counters, 136 B a context; from
0x110_0000 the halt records, 16 B each; from 0x120_0000 the fault log, 16 B an entry; from 0x130_0000 the dump area
below 0x2_0000. -/
def obsWord (s : State) (a : Nat) : Nat :=
  if a < 0x1000000 then windowWord s a
  else if a < 0x1100000 then
    let n := (a - 0x1000000) / 8
    (tget 0 (n % 17) (getCtx s (n / 17)).stalls).toNat
  else if a < 0x1200000 then ofLe (((haltBytes (getCtx s ((a - 0x1100000) / 16)).last).drop (a % 16)).take 8)
  else if a < 0x1300000 then
    match s.flt.log[(a - 0x1200000) / 16]? with
    | some e => ofLe (((recBytes e.2 0).drop (a % 16)).take 8)
    | none => 0
  else if a < 0x1320000 then load s.dump.mem (a - 0x1300000) 8
  else 0

/-- OBSREG. -/
def execObsreg (ofs : Nat) (s : State) : Host.Outcome State Fault Refusal :=
  dbgAt 1 s fun s => .next (dbgSet s 0x10 (obsWord s ofs))

/-! ### MEMRD and MEMWR: the stores of 00 Table 00.4 in order, their units, and 8 B words -/

/-- Words of one unit of a store; none for a store or unit that does not exist. -/
def storeWords (store unit : Nat) : Nat :=
  match store with
  | 0 => if unit < 4 then 524288 else 0
  | 1 => if unit < 4 then 524288 else 0
  | 2 => if unit < 4 then 3145728 else 0
  | 3 => if unit < 4 then 1048576 else 0
  | 4 => if unit < 4 then 4194304 else 0
  | 5 => if unit = 0 then 2097152 else 0
  | 6 => if unit < 4 then 65536 else if unit = 4 then 131072 else 0
  | 7 => if unit = 0 then 262144 else 0
  | 8 => if unit < 4 then 32768 else 0
  | _ => 0

/-- The cached sector at word w of the Tephra store: set, way from the most recent. -/
def tephraAt (s : State) (w : Nat) : Option ((Nat × Nat × Nat × Nat) × List Byte) :=
  (s.tephra.filter fun e => sectorSet e.1.1 e.1.2.2.1 e.1.2.2.2 == w / 128)[w / 8 % 16]?

/-- The cached line at word w of an instruction cache of n ways of 256 B, from the most recent way (07 R241). The
shared store's line table, behind its 512 sets, belongs to no line. -/
def lineAt (ls : List CLine) (n w : Nat) : Option CLine :=
  (ls.filter fun l => lineSet l.img l.line == w / (32 * n))[w / 32 % n]?

/-- Lines of an instruction cache: of a Caldera, or the shared ones. -/
def linesOf (s : State) (unit : Nat) : List CLine := if unit = 4 then s.l2 else (getCal s unit).icache

/-- Ways of an instruction cache. -/
def waysOf (unit : Nat) : Nat := if unit = 4 then 6 else 4

/-- The word of a list of bytes. -/
def wordIn (bs : List Byte) (k : Nat) : Nat := ofLe ((bs.drop (8 * k)).take 8)

/-- The bytes of word k of a list replaced. -/
def wordOut (bs : List Byte) (k w : Nat) : List Byte := bs.take (8 * k) ++ leBytes 8 w ++ bs.drop (8 * k + 8)

/-- Entries of the line table: the CRCs of the lines of every live image, in the order of the images. The spec does
not say where an image's entries lie (DESIGN CHOICE, log entry 124). -/
def lineEntries (s : State) : List (Nat × Nat) :=
  (s.images.filter (·.2.live)).flatMap fun e => (List.range e.2.ltab.length).map fun n => (e.1, n)

/-- Entry k of the line table. -/
def lineEntry (s : State) (k : Nat) : Option Word := (lineEntries s)[k]?.map fun e => (getImage s e.1).ltab.getD e.2 0

/-- Key of a word of a store that holds nothing now. -/
def spareKey (store unit w : Nat) : Nat := w + 2 ^ 24 * (unit + 8 * store)

/-- A word that holds nothing now. -/
def spareWord (s : State) (store unit w : Nat) : Nat := (tget 0 (spareKey store unit w) s.spare).toNat

/-- First word of the line table in the shared instruction store, behind its 512 sets of 6 ways (07 R241). -/
def lineTabWord : Nat := 98304

/-- Word w of an instruction store. -/
def codeStoreWord (s : State) (unit w : Nat) : Nat :=
  if unit = 4 ∧ lineTabWord ≤ w then
    let k := 2 * (w - lineTabWord)
    let old := spareWord s 6 4 w
    ((lineEntry s k).map (·.toNat)).getD (old % 2 ^ 32)
      + 2 ^ 32 * ((lineEntry s (k + 1)).map (·.toNat)).getD (old / 2 ^ 32)
  else
    match lineAt (linesOf s unit) (waysOf unit) w with
    | some l => wordIn l.data (w % 32)
    | none => spareWord s 6 unit w

/-- Word w of CP memory, at its place: 65,536 words of the dump area, 16,384 of the slot table, then the firmware
image and the rest. -/
def cpWord (s : State) (w : Nat) : Nat :=
  let p := (Config.cpPlace w).val
  if p < 65536 then load s.dump.mem (8 * p) 8
  else if p < 81920 then wordIn (slotEntry (getSlot s ((p - 65536) / 4))) (p % 4)
  else load s.cpMem (8 * p) 8

/-- Word w of a unit of a store. -/
def storeWord (s : State) (store unit w : Nat) : Nat :=
  let k := getCal s unit
  match store with
  | 0 => (tget 0 w k.acc).toNat % 2 ^ 64
  | 1 => load (tget {} (w / 131072) k.halves).data (8 * (w % 131072)) 8
  | 2 => load k.spad (8 * w) 8
  | 3 => load k.grad (8 * w) 8
  | 4 => load s.sinter (33554432 * unit + 8 * w) 8
  | 5 =>
    match tephraAt s w with
    | some e => wordIn e.2 (w % 8)
    | none => spareWord s 5 0 w
  | 6 => codeStoreWord s unit w
  | 7 => cpWord s w
  | 8 => (tget 0 (2 * w) k.lanes).toNat + 2 ^ 32 * (tget 0 (2 * w + 1) k.lanes).toNat
  | _ => 0

/-- Write word w of a byte memory. -/
def storeWord8 (m : Mem) (w v : Nat) : Mem := store m (8 * w) 8 v

/-- A word that holds nothing takes a value. -/
def putSpare (s : State) (store unit w v : Nat) : State :=
  { s with spare := tput 0 (spareKey store unit w) (BitVec.ofNat 64 v) s.spare }

/-- Lines with the data of one changed. -/
def putLine (ls : List CLine) (l : CLine) (w v : Nat) : List CLine :=
  updFirst (fun m => decide (m = l)) (fun m => { m with data := wordOut m.data (w % 32) v }) ls

/-- Change entry k of the line table, if an image has it. -/
def putEntry (s : State) (k v : Nat) : State :=
  match (lineEntries s)[k]? with
  | none => s
  | some e => setImage s e.1 { getImage s e.1 with ltab := (getImage s e.1).ltab.set e.2 (BitVec.ofNat 32 v) }

/-- Put a word of an instruction store. -/
def putCode (s : State) (unit w v : Nat) : State :=
  if unit = 4 ∧ lineTabWord ≤ w then
    let k := 2 * (w - lineTabWord)
    putEntry (putEntry (putSpare s 6 4 w v) k (v % 2 ^ 32)) (k + 1) (v / 2 ^ 32)
  else
    match lineAt (linesOf s unit) (waysOf unit) w with
    | none => putSpare s 6 unit w v
    | some l =>
      if unit = 4 then { s with l2 := putLine s.l2 l w v }
      else updCal s unit fun k => { k with icache := putLine k.icache l w v }

/-- Put a word of the Tephra store. -/
def putSector (s : State) (w v : Nat) : State :=
  match tephraAt s w with
  | none => putSpare s 5 0 w v
  | some e =>
    let f := updFirst (fun x => decide (x.1 = e.1)) (fun x => (x.1, wordOut x.2 (w % 8) v))
    { s with tephra := f s.tephra }

/-- State of a stream by its code (01 Table 01.2). -/
def stateOf (n : Nat) : StreamState :=
  match n with
  | 0 => .free | 1 => .idle | 2 => .queued | 3 => .resident | 4 => .pinned | 5 => .migrating | 6 => .exported
  | _ => .faulted

/-- A slot with the fields of a slot-table entry (01 Table 01.2). -/
def slotFrom (v : Slot) (e : List Byte) : Slot :=
  let w := ofLe (e.take 4)
  let n := fun a k => ofLe ((e.drop a).take k)
  { v with st := stateOf (bits w 2 0), f32 := bit w 3, half := bit w 4, widthM1 := bits w 9 5, resValid := bit w 10,
           resCal := bits w 12 11, resRow := bits w 20 13, resSlot := bits w 24 21, gen := BitVec.ofNat 20 (n 4 4),
           seq := BitVec.ofNat 32 (n 8 4), steps := BitVec.ofNat 64 (n 12 8), commit := BitVec.ofNat 64 (n 20 8),
           chan := n 28 1, chValid := bit (n 28 4) 8, qdepth := n 28 4 / 512 % 256 }

/-- Put word w of CP memory, at its place. -/
def putCp (s : State) (w v : Nat) : State :=
  let p := (Config.cpPlace w).val
  if p < 65536 then { s with dump := { s.dump with mem := storeWord8 s.dump.mem p v } }
  else if p < 81920 then updSlot s ((p - 65536) / 4) fun q => slotFrom q (wordOut (slotEntry q) (p % 4) v)
  else { s with cpMem := storeWord8 s.cpMem p v }

/-- Put a feeder word. -/
def putHalf (k : Cal) (w v : Nat) : Cal :=
  let h := tget {} (w / 131072) k.halves
  { k with halves := tput {} (w / 131072) { h with data := storeWord8 h.data (w % 131072) v } k.halves }

/-- Put two lanes. -/
def putLaneWord (k : Cal) (w v : Nat) : Cal :=
  { k with lanes := tput 0 (2 * w + 1) (BitVec.ofNat 32 (v / 2 ^ 32)) (tput 0 (2 * w) (BitVec.ofNat 32 v) k.lanes) }

/-- Write word w of a unit of a store. -/
def putWord (s : State) (kind unit w v : Nat) : State :=
  match kind with
  | 0 => updCal s unit fun k => { k with acc := tput 0 w (BitVec.ofNat 66 (v % 2 ^ 64)) k.acc }
  | 1 => updCal s unit fun k => putHalf k w v
  | 2 => updCal s unit fun k => { k with spad := storeWord8 k.spad w v }
  | 3 => updCal s unit fun k => { k with grad := storeWord8 k.grad w v }
  | 4 => { s with sinter := storeWord8 s.sinter (4194304 * unit + w) v }
  | 5 => putSector s w v
  | 6 => putCode s unit w v
  | 7 => putCp s w v
  | 8 => updCal s unit fun k => putLaneWord k w v
  | _ => s

/-- MEMRD. -/
def execMemrd (store unit word : Nat) (s : State) : Host.Outcome State Fault Refusal :=
  dbgAt 2 s fun s =>
    if storeWords store unit ≤ word then .fault .noSuchWord
    else .next (dbgSet s 0x20 (storeWord s store unit word))

/-- MEMWR. -/
def execMemwr (store unit word : Nat) (data : BitVec 64) (s : State) : Host.Outcome State Fault Refusal :=
  dbgAt 2 s fun s =>
    if storeWords store unit ≤ word then .fault .noSuchWord
    else .next (dbgSet (putWord s store unit word data.toNat) 0x21 data.toNat)

/-- CTXCTL: halt at a bundle boundary, step one bundle, or resume. -/
def execCtxctl (x : Fin 64) (act : Fin 3) (s : State) : Host.Outcome State Fault Refusal :=
  dbgAt 2 s fun s =>
    let f := fun (c : Ctx) =>
      if act = 0 then { c with dbgHalt := true, dbgStep := false }
      else if act = 1 then { c with dbgStep := c.dbgHalt }
      else { c with dbgHalt := false, dbgStep := false }
    .next (dbgSet (updCtx s x.val f) 0x22 0)

/-- SCAN, at OPEN in TEST: selected, or left with a power-on reset. The spec gives its chains no content. -/
def execScan (leave : Bool) (s : State) : Host.Outcome State Fault Refusal :=
  if levelNo s.life.level < 2 ∨ s.life.lc ≠ 1 then .next (dbgNo s)
  else if leave = false then
    let s1 := dbgSet s 0x30 0
    .next { s1 with life := { s1.life with scan := true } }
  else .next (scanLeft s)

end Sys2Proof.Machine
end

