-- ==== Sys2Proof/Machine/Dispatch.lean ====
section
/-! DEFINITION. One arm per command: the meaning it calls, or its rejection by name. -/

namespace Sys2Proof.Machine

def exec (i : Instr) (s : State) : Host.Outcome State Fault Refusal :=
  match i with
  | .fwInfo m => Sys2Proof.Machine.execFwInfo m s
  | .partitionSet m => Sys2Proof.Machine.execPartitionSet m s
  | .powerState m => Sys2Proof.Machine.execPowerState m s
  | .powerIdleDone => Sys2Proof.Machine.execPowerIdleDone s
  | .dumpSet m => Sys2Proof.Machine.execDumpSet m s
  | .lcAdvance m => Sys2Proof.Machine.execLcAdvance m s
  | .debugChallenge m => Sys2Proof.Machine.execDebugChallenge m s
  | .debugUnlock m => Sys2Proof.Machine.execDebugUnlock m s
  | .debugClose m => Sys2Proof.Machine.execDebugClose m s
  | .partitionParam m => Sys2Proof.Machine.execPartitionParam m s
  | .eventRing m => Sys2Proof.Machine.execEventRing m s
  | .reset m => Sys2Proof.Machine.execReset m s
  | .regionRegister m => Sys2Proof.Machine.execRegionRegister m s
  | .regionRelease m => Sys2Proof.Machine.execRegionRelease m s
  | .contextCreate m => Sys2Proof.Machine.execContextCreate m s
  | .contextDestroy m => Sys2Proof.Machine.execContextDestroy m s
  | .descWrite m => Sys2Proof.Machine.execDescWrite m s
  | .contextQuery m => Sys2Proof.Machine.execContextQuery m s
  | .contextSet m => Sys2Proof.Machine.execContextSet m s
  | .contextSeed m => Sys2Proof.Machine.execContextSeed m s
  | .contextHalt m => Sys2Proof.Machine.execContextHalt m s
  | .haltRequest x => Sys2Proof.Machine.execHaltRequest x s
  | .imagePublish m => Sys2Proof.Machine.execImagePublish m s
  | .imageDestroy m => Sys2Proof.Machine.execImageDestroy m s
  | .imageReplace m => Sys2Proof.Machine.execImageReplace m s
  | .imageReplaceDone m => Sys2Proof.Machine.execImageReplaceDone m s
  | .channelCreate m => Sys2Proof.Machine.execChannelCreate m s
  | .channelAdmit m => Sys2Proof.Machine.execChannelAdmit m s
  | .channelDestroy m => Sys2Proof.Machine.execChannelDestroy m s
  | .channelQuery m => Sys2Proof.Machine.execChannelQuery m s
  | .channelResume m => Sys2Proof.Machine.execChannelResume m s
  | .streamCreate m => Sys2Proof.Machine.execStreamCreate m s
  | .streamDestroy m => Sys2Proof.Machine.execStreamDestroy m s
  | .streamReset m => Sys2Proof.Machine.execStreamReset m s
  | .streamQuery m => Sys2Proof.Machine.execStreamQuery m s
  | .streamExport m => Sys2Proof.Machine.execStreamExport m s
  | .exportConfirmed slot => Sys2Proof.Machine.execExportConfirmed slot s
  | .exportTimeout slot => Sys2Proof.Machine.execExportTimeout slot s
  | .streamImport m => Sys2Proof.Machine.execStreamImport m s
  | .arrivalTimeout a => Sys2Proof.Machine.execArrivalTimeout a s
  | .tableRegister m => Sys2Proof.Machine.execTableRegister m s
  | .tableReload m => Sys2Proof.Machine.execTableReload m s
  | .tableReloadEffect t => Sys2Proof.Machine.execTableReloadEffect t s
  | .tableTimeout t => Sys2Proof.Machine.execTableTimeout t s
  | .tableRelease m => Sys2Proof.Machine.execTableRelease m s
  | .semBind m => Sys2Proof.Machine.execSemBind m s
  | .semUnbind m => Sys2Proof.Machine.execSemUnbind m s
  | .semQuery m => Sys2Proof.Machine.execSemQuery m s
  | .gradsetAlloc m => Sys2Proof.Machine.execGradsetAlloc m s
  | .gradsetZero m => Sys2Proof.Machine.execGradsetZero m s
  | .gradsetRelease m => Sys2Proof.Machine.execGradsetRelease m s
  | .mbRing m => Sys2Proof.Machine.execMbRing m s
  | .mbRelease m => Sys2Proof.Machine.execMbRelease m s
  | .mbOverrunClear m => Sys2Proof.Machine.execMbOverrunClear m s
  | .forceBlockReset w => Sys2Proof.Machine.execForceBlockReset w s
  | .forcePowerCycle w => Sys2Proof.Machine.execForcePowerCycle w s
  | .sqDbWrite j w => Sys2Proof.Machine.execSqDbWrite j w s
  | .cqDbWrite j w => Sys2Proof.Machine.execCqDbWrite j w s
  | .eqDbWrite p w => Sys2Proof.Machine.execEqDbWrite p w s
  | .intStatusWrite w => Sys2Proof.Machine.execIntStatusWrite w s
  | .fatalStatusWrite w => Sys2Proof.Machine.execFatalStatusWrite w s
  | .timeLoRead => Sys2Proof.Machine.execTimeLoRead s
  | .registerWrite ofs size data parOk => Sys2Proof.Machine.execRegisterWrite ofs size data parOk s
  | .runChunk j => Sys2Proof.Machine.execRunChunk j s
  | .runTask j => Sys2Proof.Machine.execRunTask j s
  | .nop j => Sys2Proof.Machine.execNop j s
  | .entryEligible j seq => Sys2Proof.Machine.execEntryEligible j seq s
  | .dispatchPlace c g => Sys2Proof.Machine.execDispatchPlace c g s
  | .restoreComplete c => Sys2Proof.Machine.execRestoreComplete c s
  | .executeStart c => Sys2Proof.Machine.execExecuteStart c s
  | .chunkCommit c bad => Sys2Proof.Machine.execChunkCommit c bad s
  | .completionPost j write fence => Sys2Proof.Machine.execCompletionPost j write fence s
  | .eventPost p => Sys2Proof.Machine.execEventPost p s
  | .bundleNop x => Sys2Proof.Machine.execBundleNop x s
  | .seqNop x => Sys2Proof.Machine.execSeqNop x s
  | .ldi x => Sys2Proof.Machine.execLdi x s
  | .ldih x => Sys2Proof.Machine.execLdih x s
  | .addi x => Sys2Proof.Machine.execAddi x s
  | .seqAdd x => Sys2Proof.Machine.execSeqAdd x s
  | .seqSub x => Sys2Proof.Machine.execSeqSub x s
  | .seqAnd x => Sys2Proof.Machine.execSeqAnd x s
  | .seqOr x => Sys2Proof.Machine.execSeqOr x s
  | .shli x => Sys2Proof.Machine.execShli x s
  | .shri x => Sys2Proof.Machine.execShri x s
  | .cmp x => Sys2Proof.Machine.execCmp x s
  | .cmpi x => Sys2Proof.Machine.execCmpi x s
  | .br x => Sys2Proof.Machine.execBr x s
  | .brt x => Sys2Proof.Machine.execBrt x s
  | .brf x => Sys2Proof.Machine.execBrf x s
  | .loop x => Sys2Proof.Machine.execLoop x s
  | .leave x => Sys2Proof.Machine.execLeave x s
  | .rdastat x => Sys2Proof.Machine.execRdastat x s
  | .wrastat x => Sys2Proof.Machine.execWrastat x s
  | .setmx x => Sys2Proof.Machine.execSetmx x s
  | .seqEnd x => Sys2Proof.Machine.execSeqEnd x s
  | .mac x => Sys2Proof.Machine.execMac x s
  | .promotion c => Sys2Proof.Machine.execPromotion c s
  | .checkCompare c rows cols => Sys2Proof.Machine.execCheckCompare c rows cols s
  | .zero x => Sys2Proof.Machine.execZero x s
  | .preloadBias x => Sys2Proof.Machine.execPreloadBias x s
  | .preloadPlane x => Sys2Proof.Machine.execPreloadPlane x s
  | .scale x => Sys2Proof.Machine.execScale x s
  | .loadDecay x => Sys2Proof.Machine.execLoadDecay x s
  | .drain x => Sys2Proof.Machine.execDrain x s
  | .recirc x => Sys2Proof.Machine.execRecirc x s
  | .recircReady c => Sys2Proof.Machine.execRecircReady c s
  | .save x => Sys2Proof.Machine.execSave x s
  | .restore x => Sys2Proof.Machine.execRestore x s
  | .gacc x => Sys2Proof.Machine.execGacc x s
  | .vecAdd x => Sys2Proof.Machine.execVecAdd x s
  | .vecSub x => Sys2Proof.Machine.execVecSub x s
  | .vecMul x => Sys2Proof.Machine.execVecMul x s
  | .fma x => Sys2Proof.Machine.execFma x s
  | .min x => Sys2Proof.Machine.execMin x s
  | .max x => Sys2Proof.Machine.execMax x s
  | .abs x => Sys2Proof.Machine.execAbs x s
  | .neg x => Sys2Proof.Machine.execNeg x s
  | .cmpeq x => Sys2Proof.Machine.execCmpeq x s
  | .cmplt x => Sys2Proof.Machine.execCmplt x s
  | .cmple x => Sys2Proof.Machine.execCmple x s
  | .sel x => Sys2Proof.Machine.execSel x s
  | .vecMov x => Sys2Proof.Machine.execVecMov x s
  | .movi x => Sys2Proof.Machine.execMovi x s
  | .iadd x => Sys2Proof.Machine.execIadd x s
  | .isub x => Sys2Proof.Machine.execIsub x s
  | .iand x => Sys2Proof.Machine.execIand x s
  | .ior x => Sys2Proof.Machine.execIor x s
  | .ixor x => Sys2Proof.Machine.execIxor x s
  | .ishl x => Sys2Proof.Machine.execIshl x s
  | .ishr x => Sys2Proof.Machine.execIshr x s
  | .cvt x => Sys2Proof.Machine.execCvt x s
  | .mxcvt x => Sys2Proof.Machine.execMxcvt x s
  | .pwl x => Sys2Proof.Machine.execPwl x s
  | .pwlslope x => Sys2Proof.Machine.execPwlslope x s
  | .gatemul x => Sys2Proof.Machine.execGatemul x s
  | .gsum x => Sys2Proof.Machine.execGsum x s
  | .rmax x => Sys2Proof.Machine.execRmax x s
  | .rstat x => Sys2Proof.Machine.execRstat x s
  | .topk x => Sys2Proof.Machine.execTopk x s
  | .vld x => Sys2Proof.Machine.execVld x s
  | .vst x => Sys2Proof.Machine.execVst x s
  | .sfuExp2 x => Sys2Proof.Machine.execSfuExp2 x s
  | .sfuExp x => Sys2Proof.Machine.execSfuExp x s
  | .sfuLog2 x => Sys2Proof.Machine.execSfuLog2 x s
  | .sfuReciprocal x => Sys2Proof.Machine.execSfuReciprocal x s
  | .sfuRsqrt x => Sys2Proof.Machine.execSfuRsqrt x s
  | .sfuSqrt x => Sys2Proof.Machine.execSfuSqrt x s
  | .microProgram x => Sys2Proof.Machine.execMicroProgram x s
  | .feed x => Sys2Proof.Machine.execFeed x s
  | .feedComplete c => Sys2Proof.Machine.execFeedComplete c s
  | .vent x => Sys2Proof.Machine.execVent x s
  | .transferComplete e => Sys2Proof.Machine.execTransferComplete e s
  | .gather x => Sys2Proof.Machine.execGather x s
  | .lookupComplete c n => Sys2Proof.Machine.execLookupComplete c n s
  | .atomicAdd e => Sys2Proof.Machine.execAtomicAdd e s
  | .prefetch x n => Sys2Proof.Machine.execPrefetch x n s
  | .acq x => Sys2Proof.Machine.execAcq x s
  | .semGrant k => Sys2Proof.Machine.execSemGrant k s
  | .rel x => Sys2Proof.Machine.execRel x s
  | .fence x => Sys2Proof.Machine.execFence x s
  | .lineFill c img line ok => Sys2Proof.Machine.execLineFill c img line ok s
  | .watchdog x => Sys2Proof.Machine.execWatchdog x s
  | .hungContext x => Sys2Proof.Machine.execHungContext x s
  | .faultDetected f => Sys2Proof.Machine.execFaultDetected f s
  | .replayStart c => Sys2Proof.Machine.execReplayStart c s
  | .fenceCaldera c => Sys2Proof.Machine.execFenceCaldera c s
  | .faultLogExpire => Sys2Proof.Machine.execFaultLogExpire s
  | .scrub f => Sys2Proof.Machine.execScrub f s
  | .cpWdog => Sys2Proof.Machine.execCpWdog s
  | .contextReset x => Sys2Proof.Machine.execContextReset x s
  | .engineReset c => Sys2Proof.Machine.execEngineReset c s
  | .partitionReset p => Sys2Proof.Machine.execPartitionReset p s
  | .blockReset => Sys2Proof.Machine.execBlockReset s
  | .powerCycle => Sys2Proof.Machine.execPowerCycle s
  | .escLate n => Sys2Proof.Machine.execEscLate n s
  | .dumpCopy => Sys2Proof.Machine.execDumpCopy s
  | .timeSample t stepStrobe => Sys2Proof.Machine.execTimeSample t stepStrobe s
  | .holdover => Sys2Proof.Machine.execHoldover s
  | .powerOnReset => Sys2Proof.Machine.execPowerOnReset s
  | .warmReset => Sys2Proof.Machine.execWarmReset s
  | .lcValid code => Sys2Proof.Machine.execLcValid code s
  | .firmwareVerify => Sys2Proof.Machine.execFirmwareVerify s
  | .secureWipe => Sys2Proof.Machine.execSecureWipe s
  | .wake => Sys2Proof.Machine.execWake s
  | .lcStateChange code valid => Sys2Proof.Machine.execLcStateChange code valid s
  | .lcReqAck => Sys2Proof.Machine.execLcReqAck s
  | .lcReqTimeout => Sys2Proof.Machine.execLcReqTimeout s
  | .nonceLapse => Sys2Proof.Machine.execNonceLapse s
  | .bypass tdi => Sys2Proof.Machine.execBypass tdi s
  | .dstat => Sys2Proof.Machine.execDstat s
  | .obsreg ofs => Sys2Proof.Machine.execObsreg ofs s
  | .memrd store unit word => Sys2Proof.Machine.execMemrd store unit word s
  | .memwr store unit word data => Sys2Proof.Machine.execMemwr store unit word data s
  | .ctxctl x act => Sys2Proof.Machine.execCtxctl x act s
  | .scan leave => Sys2Proof.Machine.execScan leave s
  | .linkDown => Sys2Proof.Machine.execLinkDown s
  | .linkUp => Sys2Proof.Machine.execLinkUp s
  | .retrainStart => Sys2Proof.Machine.execRetrainStart s
  | .retrainEnd => Sys2Proof.Machine.execRetrainEnd s
  | .retrainTimeout => Sys2Proof.Machine.execRetrainTimeout s
  | .hotReset => Sys2Proof.Machine.execHotReset s
  | .functionLevelReset => Sys2Proof.Machine.execFunctionLevelReset s
  | .hostCompletion tag status => Sys2Proof.Machine.execHostCompletion tag status s
  | .hostReadTimeout tag => Sys2Proof.Machine.execHostReadTimeout tag s
  | .memResponse n tag status last => Sys2Proof.Machine.execMemResponse n tag status last s
  | .memAck n tag status => Sys2Proof.Machine.execMemAck n tag status s
  | .memTagTimeout n tag => Sys2Proof.Machine.execMemTagTimeout n tag s
  | .plumeWrite p f => Sys2Proof.Machine.execPlumeWrite p f s
  | .plumeRead p f => Sys2Proof.Machine.execPlumeRead p f s
  | .plumeAdd p f => Sys2Proof.Machine.execPlumeAdd p f s
  | .doorbell p f => Sys2Proof.Machine.execDoorbell p f s
  | .state p f => Sys2Proof.Machine.execState p f s
  | .cancel p f => Sys2Proof.Machine.execCancel p f s
  | .wack p f => Sys2Proof.Machine.execWack p f s
  | .rdata p f => Sys2Proof.Machine.execRdata p f s
  | .aack p f => Sys2Proof.Machine.execAack p f s
  | .dack p f => Sys2Proof.Machine.execDack p f s
  | .sresult p f => Sys2Proof.Machine.execSresult p f s
  | .link p f => Sys2Proof.Machine.execLink p f s
  | .nak p f => Sys2Proof.Machine.execNak p f s
  | .probe p f => Sys2Proof.Machine.execProbe p f s
  | .probeReply p f => Sys2Proof.Machine.execProbeReply p f s
  | .retryTimeout q => Sys2Proof.Machine.execRetryTimeout q s
  | .peerLost q => Sys2Proof.Machine.execPeerLost q s
  | .portDown p => Sys2Proof.Machine.execPortDown p s
  | .portUp p => Sys2Proof.Machine.execPortUp p s
  | .crpPorNAssert => Sys2Proof.Machine.execCrpPorNAssert s
  | .memCreditReturn n wd => Sys2Proof.Machine.execMemCreditReturn n wd s
  | .resultInPlace c u => Sys2Proof.Machine.execResultInPlace c u s

end Sys2Proof.Machine
end

