-- ==== Sys2Proof/WellFormed.lean ====
section
/-! DEFINITION. Which commands are well formed: the ranges of the operands whose type does not give them. -/

namespace Sys2Proof

/-- A grant that the dispatcher can make: the window inside the 8 positions of a slot, the lane range inside the 256
registers, the reservation inside the scratchpad (02 R66, 06 R177, 00 Table 00.4). -/
def Grant.wf (g : Grant) : Bool :=
  decide (g.slotBase ≤ 8) && decide (g.laneBase ≤ 256) && decide (g.spadBase ≤ Config.spadBytes)

/-- A frame whose payload fits Table 13.3: at most 4,096 bytes. -/
def Frame.wf (f : Frame) : Bool := decide (f.payload.length ≤ 4096)

/-- A fault of a unit that serves the attempts of one Caldera alone names a context of that Caldera, if it names one;
a fault of another unit may name any context (14 R417, Table 14.4). -/
def FaultRep.wf (f : FaultRep) : Bool :=
  match f.cal, f.ctx with
  | some c, some x => !([0x10, 0x11, 0x12, 0x14, 0x15] : List Nat).contains f.unit.toNat || decide (x.val / 16 = c.val)
  | _, _ => true

/-- Operands inside the ranges the spec gives them. A command that is not well formed has a meaning too; no bus or pin
of the block can bring it about. -/
def Instr.wf : Instr → Bool
  | .dispatchPlace c g => g.wf && decide (g.ctx.val / 16 = c.val)
  | .chunkCommit _ bad => decide bad.Nodup
  | .checkCompare _ rows cols => decide (rows.map (·.1)).Nodup && decide (cols.map (·.1)).Nodup
  | .registerWrite ofs size _ _ => [1, 2, 4, 8, 16, 32, 64].contains size && decide (ofs.toNat % size = 0)
  | .lineFill _ _ line _ => decide (line < 65536)
  | .obsreg ofs => decide (ofs < 2 ^ 32)
  | .memrd store unit _ => decide (store ≤ 8) && decide (unit ≤ 4)
  | .memwr store unit _ _ => decide (store ≤ 8) && decide (unit ≤ 4)
  | .faultDetected f => f.wf
  | .scrub f => f.wf
  | .escLate n => decide (n < 64)
  | .plumeWrite _ f => f.wf
  | .plumeRead _ f => f.wf
  | .plumeAdd _ f => f.wf
  | .doorbell _ f => f.wf
  | .state _ f => f.wf
  | .cancel _ f => f.wf
  | .wack _ f => f.wf
  | .rdata _ f => f.wf
  | .aack _ f => f.wf
  | .dack _ f => f.wf
  | .sresult _ f => f.wf
  | .link _ f => f.wf
  | .nak _ f => f.wf
  | .probe _ f => f.wf
  | .probeReply _ f => f.wf
  | _ => true

end Sys2Proof
end

