-- ==== Sys2Proof/Safety.lean ====
section
/-! DEFINITION. What the statements about the block are made in: a command that completes, the canonical form of the
byte stores, a slot that has issued, a command of a mailbox that the firmware takes, and what stays the same. -/

namespace Sys2Proof.Machine

/-- The outcome of a command. -/
abbrev Out := Host.Outcome State Fault Refusal

/-- The outcome is a next state. -/
def Completes (o : Out) : Prop := ∃ t, o = .next t

/-- The stores that commits, exports, rings and transfers write are in canonical form: integrator memory, host memory
and the Sinter store. -/
def StoresSound (s : State) : Prop := memWf s.imem = true ∧ memWf s.hmem = true ∧ memWf s.sinter = true

/-- The tables that commands write one entry at a time are in canonical form: mailboxes, partitions, channels,
semaphores, stream slots, contexts and Calderas, and the vector lanes of every Caldera. -/
def TablesSound (s : State) : Prop :=
  twf {} s.mbs = true ∧ twf {} s.parts = true ∧ twf {} s.chans = true ∧ twf {} s.sems = true ∧ twf {} s.slots = true ∧
    twf {} s.ctxs = true ∧ twf {} s.cals = true ∧ ∀ c, twf 0 (getCal s c).lanes = true

/-- The outcome of a slot of context x whose effect gave s2: the slot has issued, and the context settles. -/
def issued (x : Nat) (s2 : State) : Out := .next (settle (endSlot s2 x) x)

/-- The firmware takes mailbox m, whose command has opcode op and passes the checks of 09 R302, steps 1 to 3. -/
def cmdReady (op m : Nat) (s : State) : Prop :=
  fwTakes s m = true ∧ par s m 0 2 = op ∧ cmdCheck s m op = none

/-- The command of mailbox m is answered with OK and results. -/
def okTo (m : Nat) (s : State) (results : List (Nat × Nat × Nat)) : Out := .next (respond s m stOk 0 results)

/-- Where a context stands when it runs on undisturbed: no item of its window has a halt record or has been stopped. -/
def Undisturbed (s : State) (x : Nat) : Prop :=
  ∀ i ∈ s.items, i.ctx = x → i.halt.reason = 0 ∧ i.stopped = false

/-- Two Calderas differ at most in their instruction caches and line requests. -/
def SameButFetch (k k' : Cal) : Prop := ∃ ic f, k' = { k with icache := ic, fetches := f }

end Sys2Proof.Machine
end

