-- ==== Sys2Proof/Certificates/Slice0/Obligations.lean ====
section
/-! DEFINITION. The statements about the block, made of its rules: what a step does, which stores stay canonical, what
each command does and where it completes. A statement whose conclusion is an equation with the next state says the
command's frame too. -/

open Sys2Proof Sys2Proof.Machine

/-! ### The step, the queue and the stores -/

/-- A step takes the command at the front of the queue and runs it on the state with the queue's rest. -/
def Obligations.StepRunsFrontCommand : Prop :=
  ∀ (s : State) (c : Instr) (rest : List Instr), s.pending = c :: rest → step s = exec c { s with pending := rest }

/-- On an empty queue one ACLK cycle passes (log entry 2, the model's choice): nothing in power-on reset; otherwise
the clock moves 5 twelfths of a nanosecond, the time base ticks, CRP_PWR_SAFE follows CRP_PSTATE, each context's stall
counter counts, and the dispatcher restores that are under way take one cycle (10 R320, 08 R281, 11 R345). A context's
cycle changes its counters alone, and without a restore under way nothing is restored. -/
def Obligations.EmptyQueueIsOneCycle : Prop :=
  (∀ s : State, s.pending = [] →
    (s.life.phase = .held → step s = .next s) ∧
    (s.life.phase ≠ .held → step s = .next (restCycle ((List.range 64).foldl tickCtx
      { s with clk := s.clk + 5, tb := tickTime s.tb, life := settlePower s.life })))) ∧
  (∀ (s : State) (x : Nat), (winItemOf s x = none → tickCtx s x = s) ∧
    (∀ i, winItemOf s x = some i → let c := getCtx s x; let n := stallCode c i
      tickCtx s x = setCtx s x { c with issued := false, stalls := tput 0 n (tget 0 n c.stalls + 1) c.stalls })) ∧
  (∀ s : State, (∀ c, c < 4 → (getCal s c).rest = [] ∧ (getCal s c).rbuf = []) → restCycle s = s)

/-- No command touches the queue: it is the sender's alone. -/
def Obligations.CommandsLeaveTheQueue : Prop :=
  ∀ (c : Instr) (s t : State), exec c s = .next t → t.pending = s.pending

/-- Every step keeps integrator memory, host memory, the Sinter store and the block's tables in canonical form, from
every state that has them so. -/
def Obligations.StepKeepsStoresSound : Prop :=
  ∀ s t : State, StoresSound s → TablesSound s → step s = .next t → StoresSound t ∧ TablesSound t

/-- The state after reset has its stores and its tables in canonical form. -/
def Obligations.ResetIsSound : Prop := StoresSound State.reset ∧ TablesSound State.reset

/-- Every command completes in every state, but for a debugger's access to a word outside every store (15 R456, 00
Table 00.4), which stops (log entry 127); a command whose condition does not hold completes unchanged (log entry 57):
both are the model's choice. -/
def Obligations.EveryCommandCompletes : Prop :=
  ∀ (c : Instr) (s : State), Completes (exec c s) ∨
    (exec c s = .fault .noSuchWord ∧ ∃ store unit word, storeWords store unit ≤ word ∧
      (c = .memrd store unit word ∨ ∃ d, c = .memwr store unit word d))

/-- The block in power-on reset (15 R445): mailbox 0 has OWNER 0xF and the others 0, all IDLE; no interrupt, no fatal
flag, TIME unset at 0; every slot FREE with generation 0; every store of the block zero or empty. That integrator memory
and host memory list nothing is the model's choice (log entry 4). -/
def Obligations.ResetLeavesTheBlockWiped : Prop :=
  let r := State.reset
  (getMb r 0).owner = 0xF ∧ (∀ m, m ≠ 0 → (getMb r m).owner = 0) ∧ (∀ m, (getMb r m).st = .idle) ∧
  r.cp.intStatus = 0 ∧ r.cp.intEnable = 0 ∧ r.cp.fatal = 0 ∧ r.cp.fwState = .reset ∧
  r.tb.st = .unset ∧ timeNow r = 0 ∧ (∀ i, (getSlot r i).st = .free ∧ (getSlot r i).gen = 0) ∧
  (∀ a, loadByte r.sinter a = 0) ∧ (∀ c a, loadByte (getCal r c).spad a = 0 ∧ loadByte (getCal r c).grad a = 0) ∧
  (∀ c f n row col, cellBits (getCal r c).acc f n row col = 0) ∧
  (∀ c, let k := getCal r c
    k.fmt = 0 ∧ (∀ p, tget 0 p k.decay = 0) ∧ (∀ n j, laneVal k n j = 0) ∧
    (∀ h a, (halfOf k h).st = .empty ∧ loadByte (halfOf k h).data a = 0) ∧ k.icache = [] ∧ k.runs = [] ∧ k.ops = []) ∧
  r.l2 = [] ∧ r.tephra = [] ∧ r.spare = [] ∧ (∀ a, loadByte r.cpMem a = 0) ∧
  r.dump.held = false ∧ r.dump.set = false ∧ (∀ a, loadByte r.dump.mem a = 0) ∧
  (∀ a, loadByte r.imem a = 0 ∧ loadByte r.hmem a = 0) ∧ r.items = [] ∧ r.jobs = [] ∧ r.reqs = [] ∧ r.pending = []

/-- TIME never decreases (10 R320): neither a cycle nor a sample takes it back, once a sample has set it. -/
def Obligations.TimeNeverDecreases : Prop :=
  (∀ s : State, timeNow s ≤ timeNow (tick s)) ∧
  (∀ (s t : State) (v : BitVec 64) (b : Bool), s.tb.st ≠ .unset → exec (.timeSample v b) s = .next t →
    timeNow s ≤ timeNow t)

/-! ### Shared operations -/

/-- Bytes stored in a canonical memory read back, and every other byte reads as before. -/
def Obligations.StoredBytesReadBack : Prop :=
  ∀ (m : Mem) (a : Nat) (bs : List Byte), memWf m = true →
    memWf (storeBytes m a bs) = true ∧ loadBytes (storeBytes m a bs) a bs.length = bs ∧
    ∀ c, c < a ∨ a + bs.length ≤ c → loadByte (storeBytes m a bs) c = loadByte m c

/-- A response (09 Table 09.11): the mailbox is DONE, its response buffer echoes opcode and tag and holds the status
and the field, whatever results follow from byte 8 on, MBOX is set in INT_STATUS, the mailbox leaves the firmware's
order, and nothing else changes but that mailbox. -/
def Obligations.ResponseEchoesCommand : Prop :=
  ∀ (s : State) (m status field : Nat) (results : List (Nat × Nat × Nat)), twf {} s.mbs = true → status < 256 →
    field < 65536 → (∀ e ∈ results, 8 ≤ e.1) →
    let t := respond s m status field results
    (getMb t m).st = .done ∧ load (getMb t m).rsp 0 2 = par s m 0 2 ∧ load (getMb t m).rsp 2 2 = par s m 2 2 ∧
    load (getMb t m).rsp 4 1 = status ∧ load (getMb t m).rsp 6 2 = field ∧
    t.cp.intStatus = s.cp.intStatus ||| 8 ∧ m ∉ t.mbOrder ∧ (∀ n, n ≠ m → getMb t n = getMb s n) ∧
    t = { setMb s m { getMb s m with st := .done, rsp := (getMb t m).rsp, wait := .none } with
      mbOrder := s.mbOrder.filter (· ≠ m), cp := { s.cp with intStatus := s.cp.intStatus ||| 8 } }

/-- The event queue (09 R316): an event that finds the queue of 256 and the ring full (log entry 14) is lost and
counted; any other is queued last, with the count of those lost before it and TIME. While the ring has room, the
oldest record of the queue goes to the ring's port for PROD's place; once its WRITE has ended PROD advances, and after
a port fault it is written again (log entry 161, the model's choice); its bytes 4 to 7 carry LOST. -/
def Obligations.EventsQueueOrCount : Prop :=
  (∀ (s : State) (p : Nat) (code : BitVec 16) (b : List Byte), twf {} s.parts = true →
    let q := getPart s p
    let t := postEvent s p code b
    (256 + evRoom q ≤ q.queue.length → (getPart t p).queue = q.queue ∧
      (getPart t p).lost = min (q.lost + 1) 0xFFFFFFFF) ∧
    (q.queue.length < 256 + evRoom q → (getPart t p).queue = q.queue ++ [⟨code, q.lost, timeNow s, b⟩] ∧
      (getPart t p).lost = 0) ∧
    (∀ n, n ≠ p → getPart t n = getPart s n) ∧ ∃ ps, t = { s with parts := ps }) ∧
  (∀ (s : State) (p : Fin 4) (e : EvRec) (r : List EvRec), (getPart s p.val).queue = e :: r →
    s.life.phase = .running → let q := getPart s p.val; let u := User.event p.val
    (jobOf s u = none → ringOpen s p.val = true → exec (.eventPost p) s = .next (addJob s u
      [regWrites s q.ringReg (q.ringOfs + 32 * (q.eqProd.toNat % 2 ^ q.ringLog)) (eventBytes e (phaseBit q.wrote q.ringLog))])) ∧
    (jobOf s u = none → ringOpen s p.val = false → exec (.eventPost p) s = .next s) ∧
    ((jobOf s u).isSome = true → jobDone s u = false → exec (.eventPost p) s = .next s) ∧
    ((jobOf s u).isSome = true → jobDone s u = true → jobErr s u = true →
      exec (.eventPost p) s = .next (dropJob s u)) ∧
    ((jobOf s u).isSome = true → jobDone s u = true → jobErr s u = false →
      exec (.eventPost p) s = .next { setPart (dropJob s u) p.val
        { q with queue := r, eqProd := q.eqProd + 1, wrote := q.wrote + 1 } with
        cp := { s.cp with intStatus := s.cp.intStatus ||| 1 } })) ∧
  (∀ (e : EvRec) (ph : Nat), ((eventBytes e ph).drop 4).take 4 = leBytes 4 e.lost)

/-- A step of the ladder that starts sets LAST_STEP, a power cycle asserts CRP_PWRCYC_REQ_N with it, and a late step
sets ESC_LATE and starts the next one (14 R433, 16 Table 16.9). -/
def Obligations.LadderStepsSetLastStep : Prop :=
  (∀ (s : State) (level target trigger : Nat) (ctx : Option Nat) (mbs : List Nat), 1 ≤ level → level ≤ 5 →
    (s.ladder.any fun q => covers s q.level q.target level target && !spent s q) = false →
    let t := startStep s level target trigger ctx mbs
    t.cp.fatal.toNat / 256 % 8 = level ∧ (level = 5 → t.pwrcyc = true) ∧ (level ≠ 5 → t.pwrcyc = s.pwrcyc)) ∧
  (∀ (s : State) (n : Nat) (q : LStep) (l : Nat × Nat), s.ladder[n]? = some q → nextStep s q = some l →
    exec (.escLate n) s = .next (startStep (raiseFatal s 8) l.1 l.2 3 none []) ∧
    (raiseFatal s 8).cp.fatal.toNat / 8 % 2 = 1)

/-- An addition to a semaphore: past 65,535 the value stays there, SATURATED is set and SEM_SATURATED is posted to its
partition; otherwise the value is the sum (08 R271). -/
def Obligations.SemaphoreAdditionSaturates : Prop :=
  ∀ (s : State) (k n : Nat), twf {} s.sems = true →
    let v := getSem s k
    (65535 < v.value + n → getSem (semAdd s k n) k = { v with value := 65535, sat := true } ∧
      semAdd s k n = postEvent (setSem s k { v with value := 65535, sat := true }) v.part 0x0006 (semPayload k)) ∧
    (v.value + n ≤ 65535 → semAdd s k n = setSem s k { v with value := v.value + n } ∧
      getSem (semAdd s k n) k = { v with value := v.value + n })

/-- The item that wins a Caldera's window asks for it and is the first of its channel that does, and no other
channel's first comes before it in the order of 11 Table 11.1: late items last, then the deadline, then the channel
from the pointer on. That no later item passes one whose grant does not fit is the model's reading (log entry 92). -/
def Obligations.WindowWinnerIsEarliest : Prop :=
  ∀ (s : State) (c : Nat) (i : Item), winner s c = some i → let l := s.items.filter (asks s c)
    i ∈ s.items ∧ asks s c i = true ∧ l.find? (·.ch == i.ch) = some i ∧
    ∀ j, l.find? (·.ch == j.ch) = some j →
      keyLt (dispKey (getCal s c).dispPtr j) (dispKey (getCal s c).dispPtr i) = false

/-! ### Mailbox commands (09 Table 09.12) -/

/-- Block commands that the firmware takes and accepts, each with what it changes and answers; LC_ADVANCE without a
valid signature answers AUTH_FAILED. BUILD is a free value (log entry 11, the model's choice). -/
def Obligations.BlockCommandsAnswer : Prop :=
  ∀ (s : State) (m : Mb), let n := m.val
    (cmdReady 0x01 n s → exec (.fwInfo m) s = okTo n s [(8, 4, Config.build.toNat), (12, 1, 2), (13, 1, 4), (14, 1, 1),
      (15, 1, 3), (16, 1, calMap s), (20, 8, mbMap s)]) ∧
    (cmdReady 0x02 n s → let cm := par s n 8 1; let mm := par s n 16 8
      let k := ((List.range 4).map (mapAt cm 2)).foldl max 0 + 1
      ((List.range k).all fun p => (List.range 4).any fun c => mapAt cm 2 c == p) = true → mm % 16 = 0 →
      ((List.range 16).all fun j => j == 0 || mapAt mm 4 j == 14 || decide (mapAt mm 4 j < k)) = true →
      ((List.range k).all fun p => (List.range 16).any fun j => j != 0 && mapAt mm 4 j == p) = true →
      ((List.range 4).all fun p => !changed s cm mm p || !ownsObject s p) = true →
      exec (.partitionSet m) s = okTo n (setLayout s cm mm) []) ∧
    (cmdReady 0x04 n s → par s n 12 4 % 4096 = 0 → needRegion s (partOf s n) (parReg s n 8) = .ok () →
      (getRegion s (regIdx (parReg s n 8))).ro = false → regFits s (parReg s n 8) (par s n 12 4) 524288 = true →
      exec (.dumpSet m) s =
        okTo n { s with dump := { s.dump with set := true, reg := parReg s n 8, ofs := par s n 12 4 } } []) ∧
    (cmdReady 0x05 n s → lcAllowed s.life.lc (par s n 8 1) = true → exec (.lcAdvance m) s =
      if sigOk s n (msgHead s 0x4C434144 (par s n 8 1) ++ leBytes 64 0) then okTo n { s with life :=
        { s.life with lcReq := BitVec.ofNat 3 (par s n 8 1), lcReqValid := true, lcAcked := false } } []
      else .next (respond s n stAuthFailed 0 [])) ∧
    (cmdReady 0x06 n s → 1 ≤ par s n 8 1 → par s n 8 1 ≤ 2 →
      exec (.debugChallenge m) s = okTo n { s with draws := s.draws + 1, life :=
        { s.life with nonce := Config.nonce s.draws, nonceFor := par s n 8 1 } }
        [(8, 48, (Config.nonce s.draws).toNat)])

/-- DEBUG_CLOSE (15 R459): refused off mailbox 0, and at CLOSED (R462); from OBSERVE, and from OPEN in TEST, the level
is CLOSED with the response; from OPEN outside TEST it brings on a secure wipe, out of which the block comes up at
CLOSED. -/
def Obligations.DebugCloseLowersLevel : Prop :=
  (∀ (s : State) (m : Mb), fwTakes s m.val = true → par s m.val 0 2 = 0x08 → m ≠ 0 ∨ s.life.level = .closed →
    exec (.debugClose m) s = .next (respond s m.val stNotPermitted 0 [])) ∧
  (∀ (s : State) (m : Mb), cmdReady 0x08 m.val s →
    (s.life.level = .observe ∨ s.life.level = .opened ∧ s.life.lc = 1 →
      exec (.debugClose m) s = okTo m.val { s with life := { s.life with level := .closed, pstate :=
        if s.life.level = .observe then s.life.pstate else .active } } []) ∧
    (s.life.level = .opened → s.life.lc ≠ 1 →
      exec (.debugClose m) s = okTo m.val { s with life := { s.life with wipe := some (some .closed) } } [])) ∧
  (∀ s : State, s.life.wipe = some (some .closed) → s.life.wipeOff = false → ∃ t, exec .secureWipe s = .next t ∧
    t.life.level = .closed ∧ t.life.wipe = none)

/-- DEBUG_UNLOCK raises the level (15 R458, Table 15.6): a raise that needs a signature only with one over the nonce of
that level, which is used up either way (log entry 65); OPEN of a production block comes with the secure wipe. -/
def Obligations.DebugUnlockRaisesLevel : Prop :=
  ∀ (s : State) (m : Mb), cmdReady 0x07 m.val s → let l := par s m.val 8 1
    1 ≤ l → l ≤ 2 → levelNo s.life.level < l →
    let msg := msgHead s 0x4442554C l ++ leBytes 48 s.life.nonce.toNat ++ leBytes 16 0
    let s1 := if s.life.nonceFor = l then { s with life := { s.life with nonceFor := 0 } } else s
    let raise : Out := okTo m.val { s1 with life :=
      if l = 1 then { s1.life with level := .observe }
      else if s.life.lc = 1 then { s1.life with level := .opened, pstate := .active }
      else { s1.life with wipe := some (some .opened) } } []
    (needsSig s.life.lc l = false → exec (.debugUnlock m) s = raise) ∧
    (needsSig s.life.lc l = true → s.life.nonceFor = l → exec (.debugUnlock m) s =
      if sigOk s m.val msg then raise else .next (respond s1 m.val stAuthFailed 0 [])) ∧
    (needsSig s.life.lc l = true → s.life.nonceFor ≠ l →
      exec (.debugUnlock m) s = .next (respond s m.val stAuthFailed 0 []))

/-- POWER_STATE and the end of its wait (15 R448 to R451); RETAIN is not permitted at level OPEN (R449). -/
def Obligations.PowerStateActs : Prop :=
  ∀ (s : State) (m : Mb), let n := m.val
    (fwTakes s n = true → par s n 0 2 = 0x03 → par s n 8 1 = 2 → s.life.level = .opened →
      exec (.powerState m) s = .next (respond s n stNotPermitted 0 [])) ∧
    (cmdReady 0x03 n s →
      (par s n 8 1 = 0 → exec (.powerState m) s = okTo n { s with life := { s.life with pstate := .active } } []) ∧
      (par s n 8 1 = 1 → s.life.pstate = .idle → exec (.powerState m) s = okTo n s []) ∧
      (par s n 8 1 = 1 → s.life.pstate ≠ .idle → exec (.powerState m) s = .next (waitOn s n .idle)) ∧
      (par s n 8 1 = 2 → retainBusy s = false →
        exec (.powerState m) s = okTo n (enterRetain s) []) ∧
      (par s n 8 1 = 3 → exec (.powerState m) s = okTo n { abortAll s with life :=
        { (abortAll s).life with wipe := some (some .closed), wipeOff := true } } [])) ∧
    (s.items.any inWindow = false → (getMb s n).st = .busy → (getMb s n).wait = .idle →
      exec .powerIdleDone s = .next (answerWait { s with life := { s.life with pstate := .idle } } .idle stOk []))

/-- Partition commands that the firmware takes and accepts (09 R304, R316, R478; 14 R432): parameters answered with
the values in force; an event ring set up empty; a reset's ladder step started, which the mailbox waits for but at
level 4. That a timeout of 0 is accepted is the model's reading (log entry 42). -/
def Obligations.PartitionCommandsAnswer : Prop :=
  ∀ (s : State) (m : Mb), let n := m.val; let p := partOf s n
    (cmdReady 0x10 n s → let b := par s n 8 1; let q := getPart s p
      let full := if bit b 0 then decide (par s n 9 1 = 1) else q.full
      (bit b 0 = false ∨ par s n 9 1 ≤ 1) →
      (full = q.full ∨ s.chans.any (fun e => e.2.live && e.2.part == p && e.2.adm.isSome) = false) →
      let q1 := { q with full := full, exportTo := if bit b 1 then par s n 12 4 else q.exportTo,
                         tableTo := if bit b 2 then par s n 16 4 else q.tableTo }
      exec (.partitionParam m) s =
        okTo n (setPart s p q1) [(9, 1, b2n q1.full), (12, 4, q1.exportTo), (16, 4, q1.tableTo)]) ∧
    (cmdReady 0x11 n s → let h := parReg s n 8; let o := par s n 12 4; let l := par s n 16 1
      o % 32 = 0 → 4 ≤ l → l ≤ 12 → needRegion s p h = .ok () → (getRegion s (regIdx h)).ro = false →
      regFits s h o (32 * 2 ^ l) = true →
      exec (.eventRing m) s = okTo n (setPart s p { getPart s p with
        ring := true, ringReg := h, ringOfs := o, ringLog := l, eqProd := 0, eqCons := 0, wrote := 0 }) []) ∧
    (cmdReady 0x12 n s → par s n 8 1 = 0 → needCtx s p (par s n 9 1) = .ok () →
      exec (.reset m) s = .next (waitOn (startStep s 1 (par s n 9 1) 1 (some (par s n 9 1)) [n]) n .resetStep)) ∧
    (cmdReady 0x12 n s → par s n 8 1 = 1 → par s n 9 1 ≤ 3 → (getCal s (par s n 9 1)).part = p →
      exec (.reset m) s = .next (waitOn (startStep s 2 (par s n 9 1) 1 none [n]) n .resetStep)) ∧
    (cmdReady 0x12 n s → par s n 8 1 = 2 →
      exec (.reset m) s = .next (waitOn (startStep s 3 p 1 none [n]) n .resetStep)) ∧
    (cmdReady 0x12 n s → par s n 8 1 = 3 → exec (.reset m) s = .next (startStep s 4 0 1 none []))

/-- Context commands that the firmware takes and accepts (09 R301, R303, R305; 07 R239, R257): a created context is at
reset but for its stall counters, its descriptor table wiped; a destroyed one keeps only those counters; CONTEXT_QUERY
reports the context as it stood before it clears the stall counters; a halt request is answered with whether an item is
in the window. That the stall counters stay, and that the lowest free index is taken, is the
model's choice (log entries 74 and 63). -/
def Obligations.ContextCommandsAnswer : Prop :=
  ∀ (s : State) (m : Mb), let n := m.val; let p := partOf s n; let x := par s n 8 1
    (cmdReady 0x30 n s → ∀ k, x ≤ 3 → (getCal s x).part = p →
      (par s n 9 1 = 0xFF ∧ freeIdx 16 (fun j => (getCtx s (16 * x + j)).exist) = some k ∨
        par s n 9 1 = k ∧ k ≤ 15 ∧ (getCtx s (16 * x + k)).exist = false) →
      exec (.contextCreate m) s = okTo n (wipeTable (setCtx s (16 * x + k) { exist := true, stalls :=
        (getCtx s (16 * x + k)).stalls }) (16 * x + k)) [(8, 1, 16 * x + k)]) ∧
    (cmdReady 0x31 n s → needCtx s p x = .ok () → winItemOf s x = none →
      exec (.contextDestroy m) s = okTo n (wipeTable (setCtx s x { stalls := (getCtx s x).stalls }) x) []) ∧
    (cmdReady 0x33 n s → needCtx s p x = .ok () → exec (.contextQuery m) s = okTo n
      (if bit (par s n 9 1) 0 then setCtx s x { getCtx s x with stalls := [] } else s) (ctxReport s x)) ∧
    (cmdReady 0x34 n s → needCtx s p x = .ok () → exec (.contextSet m) s =
      okTo n (ctxWrite s x (.astat (BitVec.ofNat 32 (par s n 12 4)))) []) ∧
    (cmdReady 0x35 n s → needCtx s p x = .ok () → exec (.contextSeed m) s =
      okTo n (ctxWrite s x (.seed (BitVec.ofNat 32 (par s n 12 4)))) []) ∧
    (cmdReady 0x36 n s → needCtx s p x = .ok () → exec (.contextHalt m) s =
      okTo n (askHalt s x) [(8, 1, b2n (winItemOf s x).isSome)])

/-- DESC_WRITE writes its descriptors, from its own bytes or from a region, into the table: at once when no item of the
context is in the window, when that item leaves otherwise (09 R305, 07 R239). HALT_REQUEST halts at a bundle boundary of
the executing item with HALT_REQUEST, slot 7 (07 R257). A staged item's halt, and how the
firmware's read of a region passes, are the model's reading (log entries 77 and 161). -/
def Obligations.DescriptorsWrittenAndHaltsTaken : Prop :=
  (∀ (s : State) (m : Mb), let n := m.val; let p := partOf s n; let x := par s n 8 1; let f := par s n 10 2
    let c := par s n 12 2
    cmdReady 0x32 n s → 1 ≤ f → 1 ≤ c → f + c ≤ 1024 → needCtx s p x = .ok () →
    (par s n 14 1 = 0 → c ≤ 3 → exec (.descWrite m) s =
      okTo n (ctxWrite s x (.desc f (loadBytes (getMb s n).cmd 16 (64 * c)))) []) ∧
    (par s n 14 1 = 1 → let h := parReg s n 16; let o := par s n 20 4; o % 64 = 0 → needRegion s p h = .ok () →
      regFits s h o (64 * c) = true → needLink s h = .ok () → let got := regGot s n 0 h o (64 * c)
      (∀ t, got = .wait t → exec (.descWrite m) s = .next t) ∧
      (∀ d, got = .here d → exec (.descWrite m) s = okTo n (ctxWrite (dropUsers s (mboxUser n)) x
        (.desc f (loadBytes d ((getRegion s (regIdx h)).base + o) (64 * c)))) []) ∧
      (got = .bad → ∃ st, exec (.descWrite m) s = .next (respond s n st 0 [])))) ∧
  (∀ (s : State) (n k : Nat) (h : BitVec 16) (o z : Nat), let r := getRegion s (regIdx h); let u := User.mbox n k
    (getMb s n).wait = .reads →
    (jobOf s u = none → regGot s n k h o z = .wait (addJob s u [readBursts r.host (r.base + o) z])) ∧
    (∀ j, jobOf s u = some j → regGot s n k h o z =
      if jobDone s u = false then .wait s else if j.err then .bad else .here j.rx)) ∧
  (∀ (s : State) (x : Nat) (w : DefWrite),
    ((winItemOf s x).isSome = true → ctxWrite s x w = setCtx s x { getCtx s x with defer := (getCtx s x).defer ++ [w] }) ∧
    (winItemOf s x = none →
      ctxWrite s x w = applyDefer (setCtx s x { getCtx s x with defer := (getCtx s x).defer ++ [w] }) x)) ∧
  (∀ (s : State) (x : Fin 64) (i : Item), itemOf s x.val = some i → (getCtx s x.val).haltReq = true →
    (getCtx s x.val).bun = none → i.ended = false → mayIssue s x.val i = true →
    exec (.haltRequest x) s = .next (haltIssue (setCtx s x.val { getCtx s x.val with haltReq := false }) x.val
      (getCtx s x.val).pc 7 0x51 0))

/-- Region and image commands that the firmware takes and accepts (12 R358, R382; 07 R247, R251 to R254; 09 R301,
R303, R306): a region takes the lowest free index under its next generation; its release leaves the generation. That
it is the lowest, and how an image is read before it is published, is the model's choice (log entries 63 and 161). -/
def Obligations.RegionAndImageCommandsAnswer : Prop :=
  ∀ (s : State) (m : Mb), let n := m.val; let p := partOf s n; let h := parReg s n 8
    (cmdReady 0x20 n s → ∀ k, let sp := par s n 8 1; let base := par s n 16 8; let size := par s n 24 8
      (sp = 2 ∨ sp = 3) → base % 4096 = 0 → size % 4096 = 0 → 0 < size → base + size ≤ spaceEnd (sp == 3) →
      freeIdx 1024 (fun j => (getRegion s j).live) = some k → let g := nextGen 6 (getRegion s k).gen
      exec (.regionRegister m) s = okTo n (setRegion s k {
        gen := g, live := true, part := p, host := sp == 3, ro := par s n 9 1 == 1, base := base, size := size,
        invalid := false }) [(8, 2, k + 1024 * g)]) ∧
    (cmdReady 0x21 n s → regLive s p h = true →
      ((getRegion s (regIdx h)).invalid = true ∨ regionUsed s h = false) →
      exec (.regionRelease m) s = okTo n (setRegion s (regIdx h) { gen := (getRegion s (regIdx h)).gen }) []) ∧
    (cmdReady 0x40 n s → let o := par s n 12 4; let z := par s n 16 4; let got := regGot s n 0 h o z
      o % 256 = 0 → needRegion s p h = .ok () → regFits s h o z = true → needLink s h = .ok () →
      (∀ t, got = .wait t → exec (.imagePublish m) s = .next t) ∧
      (∀ d q, got = .here d → publish (dropUsers s (mboxUser n)) p h o z d = .ok q →
        exec (.imagePublish m) s = okTo n q.1 [(8, 2, q.2.toNat)]) ∧
      (∀ d st, got = .here d → publish (dropUsers s (mboxUser n)) p h o z d = .error st →
        exec (.imagePublish m) s = .next (respond s n st 0 []))) ∧
    (cmdReady 0x41 n s → imgLive s h = true → (imgOf s h).part = p → imageUsed s h = false →
      exec (.imageDestroy m) s = okTo n (dropImage s h) []) ∧
    (cmdReady 0x42 n s → let h2 := parReg s n 10; imgLive s h = true → (imgOf s h).part = p → imgLive s h2 = true →
      (imgOf s h2).part = p → compatible (imgOf s h) (imgOf s h2) = true →
      exec (.imageReplace m) s = .next (waitOn (renameImage s h h2) n (.replace h h2))) ∧
    (∀ old new, (getMb s n).st = .busy → (getMb s n).wait = .replace old new →
      exec (.imageReplaceDone m) s = okTo n s [(8, 8, stillOn s old)])

/-- Channel commands that the firmware takes and accepts (09 R301, R309, R315; 12 R359, R381; 10 R336): CHANNEL_CREATE
takes the lowest free index, its rings empty and its figures at reset; CHANNEL_ADMIT answers as the admission test does;
CHANNEL_DESTROY cancels the queued entries, then waits for what is dispatched. The figures at creation and the lowest
free index are the model's choice (log entries 78 and 63). -/
def Obligations.ChannelCommandsAnswer : Prop :=
  ∀ (s : State) (m : Mb), let n := m.val; let p := partOf s n; let h := par s n 8 2; let i := chanIdx h
    let r := ringsOf s n
    (cmdReady 0x50 n s → ∀ k, ringFields r = .ok () → maskOk s p (par s n 32 8) = true →
      needImage s p (parReg s n 8) = .ok () → ringRegions s p r = .ok () → ringPlaces s r = .ok () →
      freeIdx 256 (fun j => (getChan s j).live) = some k →
      let t := setChan s k {
        gen := nextGen 8 (getChan s k).gen, live := true, part := p, img := parReg s n 8,
        mask := BitVec.ofNat 64 (par s n 32 8), sqReg := r.sqReg, sqOfs := r.sqOfs, sqLog := r.sqLog, cqReg := r.cqReg,
        cqOfs := r.cqOfs, cqLog := r.cqLog }
      exec (.channelCreate m) s = okTo n t [(8, 2, chanHandle t k)]) ∧
    (cmdReady 0x51 n s → ∀ c, askOk (askOf s n) = .ok () → needChan s p h = .ok () →
      (imgOf s (getChan s i).img).costs[(askOf s n).entry]? = some c →
      exec (.channelAdmit m) s = .next (answered n (admitAnswer s p i (askOf s n) c))) ∧
    (cmdReady 0x52 n s → needChan s p h = .ok () → chanBound s i = false → (chanPending s i = false ∨ par s n 10 1 = 1) →
      let s1 := cancelQueued s (fun t => t.ch == i) stCancelled
      (s1.items.all (·.ch != i) = true → s1.posts.all (·.ch != i) = true →
        exec (.channelDestroy m) s = okTo n (setChan s1 i { gen := (getChan s1 i).gen }) []) ∧
      (s1.items.any (·.ch == i) = true ∨ s1.posts.any (·.ch == i) = true →
        exec (.channelDestroy m) s = .next (waitOn s1 n (.chDestroy i)))) ∧
    (cmdReady 0x53 n s → needChan s p h = .ok () → let c := getChan s i
      exec (.channelQuery m) s = okTo n s [(8, 1, chanCode c.st), (12, 4, c.nextSeq.toNat), (16, 4, c.lastConf.toNat),
        (20, 2, c.sqCons.toNat), (22, 2, c.cqProd.toNat)]) ∧
    (cmdReady 0x54 n s → ringFields r = .ok () → needChan s p h = .ok () →
      ringRegions s p r = .ok () →
      ((getChan s i).st = .hostLost ∨ (getChan s i).st = .ringError) → ringPlaces s r = .ok () →
      exec (.channelResume m) s = okTo n (setChan s i { withRings (getChan s i) r with st :=
        if (getChan s i).adm.isSome then .admitted else .created }) [])

/-- Stream commands that the firmware takes and accepts (01 Table 01.5, R33, R41; 09 R304); which free slot is taken
is the model's choice (log entry 63). -/
def Obligations.StreamCommandsAnswer : Prop :=
  ∀ (s : State) (m : Mb), let n := m.val; let p := partOf s n; let h := parStream s n; let i := slotOf h
    (cmdReady 0x60 n s → ∀ k, par s n 8 1 ≤ 1 → par s n 9 1 ≤ maxWidthM1 (par s n 8 1 == 1) →
      quadOk s p (par s n 10 1) = true → chooseSlot s (calsOf s p) (par s n 10 1) = some k →
      let t := newStream s k p (par s n 8 1 == 1) (par s n 9 1)
      exec (.streamCreate m) s = okTo n t [(8, 4, (streamHandle t k).toNat)]) ∧
    (cmdReady 0x61 n s → needStream s p h = .ok () → forced s i = false →
      (idleLike (getSlot s i) = true ∨ (getSlot s i).st = .faulted) →
      exec (.streamDestroy m) s = okTo n (freeSlot (cancelQueued s (namesSlot s i) stCancelled) i) []) ∧
    (cmdReady 0x61 n s → needStream s p h = .ok () → forced s i = false → idleLike (getSlot s i) = false →
      working (getSlot s i) = true → (getSlot s i).st ≠ .faulted → par s n 12 1 = 1 →
      let s1 := cancelQueued s (namesSlot s i) stCancelled
      exec (.streamDestroy m) s = if dispatched s1 i then .next (waitOn s1 n (.destroy i)) else okTo n (freeSlot s1 i) []) ∧
    (cmdReady 0x62 n s → needStream s p h = .ok () → ((getSlot s i).st = .idle ∨ (getSlot s i).st = .faulted) →
      (getSlot s i).retired = false →
      exec (.streamReset m) s = okTo n { setSlot s i { getSlot s i with
        st := if 0 < (getSlot s i).qdepth then .queued else .idle, steps := 0, damaged := false } with
        sinter := clearRange s.sinter (i * 32768) 32768 } []) ∧
    (cmdReady 0x63 n s → needStream s p h = .ok () →
      exec (.streamQuery m) s = okTo n s [(8, 32, ofLe (slotEntry (getSlot s i)))])

/-- Exports and imports (01 R41, R44 to R48; 09 R308; 13 R401, R403): what STREAM_EXPORT and STREAM_IMPORT start when
the firmware accepts them, the end of a region export, the cancel of a late peer export, and an arrival discarded. How
an import reads its record, and the status of a discarded arrival, are the model's choice (log entries 161 and 48). -/
def Obligations.StreamMovesAct : Prop :=
  (∀ (s : State) (m : Mb), let n := m.val; let p := partOf s n; let h := parStream s n; let i := slotOf h
    let kind := par s n 13 1; let reg := parReg s n 14; let ofs := par s n 16 4
    cmdReady 0x64 n s → (kind = 0 ∧ ofs % 256 = 0 ∨ kind = 1 ∧ par s n 20 1 ≤ 63) → needStream s p h = .ok () →
    needDest s p i kind reg ofs = .ok () → forced s i = false →
    (idleLike (getSlot s i) = true → exec (.streamExport m) s = okTo n (startExport s n i kind reg ofs) []) ∧
    (idleLike (getSlot s i) = false → working (getSlot s i) = true → par s n 12 1 = 1 →
      let s1 := cancelQueued s (namesSlot s i) stCancelled
      exec (.streamExport m) s = if dispatched s1 i then .next (waitOn s1 n (.export_ i))
        else okTo n (startExport s1 n i kind reg ofs) [])) ∧
  (∀ (s : State) (m : Mb) (a : Ans), let n := m.val; let p := partOf s n
    cmdReady 0x65 n s → quadOk s p (par s n 18 1) = true →
    (par s n 8 1 = 0 → importRegion s n p (par s n 18 1) (parReg s n 10) (par s n 12 4) = .ok a →
      exec (.streamImport m) s = .next (answered n a)) ∧
    (par s n 8 1 = 1 → importArrival s p (par s n 16 2) (par s n 18 1) = .ok a →
      exec (.streamImport m) s = .next (answered n a))) ∧
  (∀ (s : State) (k : Fin 4096) (e : Export), s.exports.find? (fun e => e.slot == k.val) = some e →
    (e.peer = none → jobDone s (.exp k.val) = true → exec (.exportConfirmed k) s =
      .next (if jobErr s (.exp k.val) then exportFail s k.val stFaulted else exportDone s k.val 0)) ∧
    (∀ q, e.peer = some q → e.cancelled = false → exec (.exportTimeout k) s =
      .next (let s1 := updSlot (sendCancel (dropState s q e.move) k.val q e.move) k.val fun v => { v with st := .exported }
        { s1 with exports := s1.exports.map fun f => if f.slot = k.val then { f with cancelled := true } else f }))) ∧
  (∀ (s : State) (a : Fin 16) (b : Arrival), s.arrivals.find? (fun b => b.no == a.val && arrived b) = some b →
    exec (.arrivalTimeout a) s = .next (dropArrival s b (Config.arrivalRefusal.val + 1)))

/-- Table commands that the firmware takes and accepts, a pending reload's effect and its timeout (08 R282 to R285). The
lowest free index is the model's choice (log entry 63). -/
def Obligations.TableCommandsAnswer : Prop :=
  (∀ (s : State) (m : Mb), let n := m.val; let p := partOf s n; let t := par s n 8 1
    (cmdReady 0x70 n s → ∀ k, let rb := 64 * par s n 8 2; let rows := par s n 12 4
      1 ≤ par s n 8 2 → par s n 8 2 ≤ 64 → 1 ≤ rows → par s n 16 1 ≤ 1 → locFields s n = .ok () →
      locPlace s p (locOf s n) (rb * rows) = .ok () → freeIdx 64 (fun j => (getTable s j).live) = some k →
      exec (.tableRegister m) s = okTo n (setTable s k {
        live := true, part := p, rowBytes := rb, rows := rows, bypass := par s n 16 1 == 1, gen := 1,
        loc := locOf s n }) [(8, 1, k), (9, 1, 1)]) ∧
    (cmdReady 0x71 n s → let v := getTable s t; locFields s n = .ok () → needTable s p t = .ok () →
      locPlace s p (locOf s n) (v.rowBytes * v.rows) = .ok () → v.pend = none →
      (v.old.isSome = true → genHeld s t v.oldGen = true → exec (.tableReload m) s =
        .next (waitOn (setTable s t { v with pend := some (locOf s n, n) }) n (.reload t))) ∧
      (v.old = none ∨ genHeld s t v.oldGen = false →
        exec (.tableReload m) s = okTo n (reloadNow s t (locOf s n)) [(8, 1, nextTabGen v.gen)])) ∧
    (cmdReady 0x72 n s → let v := getTable s t; needTable s p t = .ok () → genHeld s t v.gen = false →
      genHeld s t v.oldGen = false → v.pend = none → exec (.tableRelease m) s =
        okTo n { setTable s t {} with tephra := s.tephra.filter fun e => e.1.1 ≠ t } [])) ∧
  (∀ (s : State) (t : Fin 64) (l : Loc) (m : Nat), (getTable s t.val).pend = some (l, m) →
    (genHeld s t.val (getTable s t.val).oldGen = false → exec (.tableReloadEffect t) s =
      okTo m (reloadNow s t.val l) [(8, 1, nextTabGen (getTable s t.val).gen)]) ∧
    exec (.tableTimeout t) s =
      .next (respond (setTable s t.val { getTable s t.val with pend := none }) m stTableBusy 0 []))

/-- Semaphore and gradient-set commands that the firmware takes and accepts (08 R270, 09 R304, R307; 05 R174). What
SEM_UNBIND leaves and the lowest free index, is the model's reading (log entries 81 and 63). -/
def Obligations.SharedObjectCommandsAnswer : Prop :=
  ∀ (s : State) (m : Mb), let n := m.val; let p := partOf s n; let k := parSem s n; let x := par s n 12 1
    let a := par s n 14 2; let b := par s n 16 2
    (cmdReady 0x80 n s → needSem s n p = .ok () → par s n 11 1 = 1 → needCtx s p x = .ok () →
      (par s n 9 1 = 1 ∨ ctxCal x = par s n 10 1) → (getSem s k).bind = 0 →
      exec (.semBind m) s = okTo n (setSem s k { value := par s n 20 2, bind := 1, ctx := x, part := p }) []) ∧
    (cmdReady 0x80 n s → needSem s n p = .ok () → par s n 11 1 = 2 → needChan s p a = .ok () → needChan s p b = .ok () →
      (getSem s k).bind = 0 → closesCycle s p (chanIdx a) (chanIdx b) = false → exec (.semBind m) s =
      okTo n (setSem s k { value := par s n 20 2, bind := 2, part := p, prod := chanIdx a, cons := chanIdx b }) []) ∧
    (cmdReady 0x80 n s → needSem s n p = .ok () → par s n 11 1 = 2 → needChan s p a = .ok () → needChan s p b = .ok () →
      (getSem s k).bind = 0 → closesCycle s p (chanIdx a) (chanIdx b) = true →
      exec (.semBind m) s = .next (respond s n 0x31 0 [])) ∧
    (cmdReady 0x81 n s → needSem s n p = .ok () → (getSem s k).bind ≠ 0 → (getSem s k).part = p → semBusy s k = false →
      exec (.semUnbind m) s = okTo n (setSem s k { value := (getSem s k).value, sat := (getSem s k).sat, ptr :=
        (getSem s k).ptr }) []) ∧
    (cmdReady 0x82 n s → needSem s n p = .ok () → let v := getSem s k; (v.bind = 0 ∨ v.part = p) →
      exec (.semQuery m) s = okTo n s [(8, 4, v.value + 65536 * v.bind + 262144 * (if v.bind = 1 then v.ctx else 0)
        + 16777216 * b2n v.sat)]) ∧
    (cmdReady 0x90 n s → ∀ j, let h := par s n 8 2; let fr := BitVec.ofNat 32 (par s n 12 4)
      let im := imgOf s (getChan s (chanIdx h)).img; let g := nextGen 4 (getGset s j).gen
      needChan s p h = .ok () → im.training = true →
      (im.tiles.all fun t => (tileFrames t).all fun f => fr.getLsbD f) = true → fr &&& takenFrames s p = 0 →
      freeIdx 16 (fun j => (getGset s j).live) = some j → exec (.gradsetAlloc m) s =
        okTo n (zeroFrames (setGset s j {
          gen := g, live := true, part := p, chan := chanIdx h, chanGen := (getChan s (chanIdx h)).gen, frames := fr })
          p fr) [(8, 1, j + 16 * g)]) ∧
    (cmdReady 0x91 n s → let g := par s n 8 1 % 16; needGset s p (par s n 8 1) = .ok () → exec (.gradsetZero m) s =
      okTo n (zeroFrames (setGset s g { getGset s g with corrupt := false }) p (getGset s g).frames) []) ∧
    (cmdReady 0x92 n s → let g := par s n 8 1 % 16; needGset s p (par s n 8 1) = .ok () →
      (s.items.any fun i => ofChan s (getGset s g) i.ch && trainingItem s i) = false →
      exec (.gradsetRelease m) s = okTo n (setGset s g { gen := (getGset s g).gen }) [])

/-- The order of a refusal (09 R302): no mailbox command of a listed opcode whose row asks acts while its opcode is not
listed; it answers BAD_COMMAND, FIELD 0; a command that fails steps 2 or 3 answers that status and byte. Either way
nothing but the mailbox and INT_STATUS changes. -/
def Obligations.RefusalsLeaveTheRest : Prop :=
  ∀ (op : Nat) (m : Mb) (g : State → Nat → Nat → Except Refused Ans) (s : State), fwTakes s m.val = true →
    (listedOp (par s m.val 0 2) = false → eci op m g s = .next (respond s m.val 1 0 [])) ∧
    (∀ e, par s m.val 0 2 = op → listedOp op = true → cmdCheck s m.val op = some e →
      eci op m g s = .next (respond s m.val e.1 e.2 [])) ∧
    (∀ e, cmdReady op m.val s → listedOp op = true → g s m.val (partOf s m.val) = .error e →
      eci op m g s = .next (respond s m.val e.1 e.2 [])) ∧
    (∀ st fd, ∃ mbs cp ord, respond s m.val st fd [] = { s with mbs := mbs, cp := { s.cp with intStatus := cp }, mbOrder := ord })

/-! ### The register window (09 Table 09.1) -/

/-- The mailbox rules (09 R297) while the window answers: RING makes a mailbox that is not BUSY the last
of the BUSY ones, without its earlier response, and sets OVERRUN of a BUSY one; RELEASE returns a DONE mailbox to IDLE
and does nothing to another; OVERRUN is cleared by writing it; no write of a BUSY mailbox's command buffer acts. A
response is written whole with DONE, and a block reset returns every mailbox to IDLE with empty buffers. -/
def Obligations.MailboxControlActs : Prop :=
  (∀ (s : State) (m : Mb), windowLive s = true → let b := getMb s m.val
    (b.st ≠ .busy → exec (.mbRing m) s = .next { setMb s m.val { b with st := .busy, rsp := [], wait := .none } with
      mbOrder := s.mbOrder ++ [m.val] }) ∧
    (b.st = .busy → exec (.mbRing m) s = .next (setMb s m.val { b with overrun := true })) ∧
    (b.st = .done → exec (.mbRelease m) s = .next (setMb s m.val { b with st := .idle })) ∧
    (b.st ≠ .done → exec (.mbRelease m) s = .next s) ∧
    exec (.mbOverrunClear m) s = .next (setMb s m.val { b with overrun := false }) ∧
    (b.st = .busy → ∀ (o n : Nat) (d : WinData), o < 0x100 →
      exec (.registerWrite (BitVec.ofNat 24 (0x10000 + 0x200 * m.val + o)) n d true) s = .next s)) ∧
  (∀ (s : State) (m : Mb) (status field : Nat) (results : List (Nat × Nat × Nat)), twf {} s.mbs = true →
    let t := respond s m.val status field results
    (getMb t m.val).st = .done ∧ (getMb t m.val).rsp = results.foldl (fun r e => store r e.1 e.2.1 e.2.2)
      (store (store (store (store [] 0 2 (par s m.val 0 2)) 2 2 (par s m.val 2 2)) 4 1 status) 6 2 field)) ∧
  (∀ (s : State) (q : LStep), running s 4 0 = some q → q.wiped = false → ∃ t, exec .blockReset s = .next t ∧
    t.mbOrder = [] ∧ ∀ k, (getMb t k).st = .idle ∧ (getMb t k).cmd = [] ∧ (getMb t k).rsp = [])

/-- A write of FORCE_ESC with the key 0xE5C4 and 100 or 101 binary in bits [2:0] starts a block reset or a power cycle,
with trigger 2 of 14 Table 14.8; every other write does nothing, and so does every write while the window does not
answer: in power-on reset, and in RETAIN or OFF while CRP_PWR_SAFE reads 1 (09 R294, R296; log entry 99). -/
def Obligations.ForceEscalationNeedsKey : Prop :=
  ∀ (s : State) (w : Word), windowLive s = true →
    (w.toNat / 65536 = 0xE5C4 → w.toNat % 8 = 4 → exec (.forceBlockReset w) s = .next (startStep s 4 0 2 none [])) ∧
    (w.toNat / 65536 = 0xE5C4 → w.toNat % 8 = 5 → exec (.forcePowerCycle w) s = .next (startStep s 5 0 2 none [])) ∧
    ((w.toNat / 65536 ≠ 0xE5C4 ∨ w.toNat % 8 ≠ 4) → exec (.forceBlockReset w) s = .next s) ∧
    ((w.toNat / 65536 ≠ 0xE5C4 ∨ w.toNat % 8 ≠ 5) → exec (.forcePowerCycle w) s = .next s) ∧
    ∀ u : State, (u.life.phase = .held ∨ (u.life.pwrSafe = true ∧ u.life.lc ≠ 7 ∧
        (u.life.pstate = .retain ∨ u.life.pstate = .off))) → windowLive u = false ∧
      exec (.forceBlockReset w) u = .next u ∧ exec (.forcePowerCycle w) u = .next u

/-- Doorbells (09 R309, 10 R326): an SQ doorbell moves PROD, and a live channel stamps each new entry with TIME unless
it is HOST_LOST or RING_ERROR; an advance past the ring's free entries makes the channel RING_ERROR and posts the
event, of a channel in RING_ERROR too; CQ and EQ doorbells set CONS. What an overflow leaves is the model's reading
(log entry 101). -/
def Obligations.DoorbellsMoveIndices : Prop :=
  ∀ (s : State) (i : Fin 256) (w : Word), windowLive s = true →
    (let c := getChan s i.val; let prod := w.setWidth 16; let adv := (prod - c.sqProd).toNat
      let free := 2 ^ c.sqLog - 1 - (c.sqProd - c.sqCons).toNat
      (c.live = true → adv ≤ free → c.st ≠ .hostLost → c.st ≠ .ringError → exec (.sqDbWrite i w) s =
        .next (setChan s i.val { c with sqProd := prod, stamps := c.stamps ++ List.replicate adv (timeNow s) })) ∧
      (c.live = true → adv ≤ free → (c.st = .hostLost ∨ c.st = .ringError) → exec (.sqDbWrite i w) s =
        .next (setChan s i.val { c with sqProd := prod })) ∧
      (c.live = true → free < adv → exec (.sqDbWrite i w) s =
        .next (postEvent (setChan s i.val { c with sqProd := prod, st := .ringError }) c.part 0x0040
          (leBytes 2 (chanHandle s i.val)))) ∧
      (c.live = false → exec (.sqDbWrite i w) s = .next (setChan s i.val { c with sqProd := prod }))) ∧
    exec (.cqDbWrite i w) s = .next (setChan s i.val { getChan s i.val with cqCons := w.extractLsb' 16 16 }) ∧
    ∀ p : Fin 4, exec (.eqDbWrite p w) s = .next (setPart s p.val { getPart s p.val with eqCons := w.extractLsb' 16 16 })

/-- The rest of the register window (09 R293 to R295, Tables 09.5 to 09.7; 12 R371, R379): INT_STATUS and bits [4:0]
of FATAL_STATUS are cleared by writing ones, LAST_STEP never; a read of TIME_LO answers TIME[31:0] and latches
TIME[63:32] into TIME_HI; INT_ENABLE takes its five bits; an aligned access of 4 to 64 B to the command buffer of a
mailbox that is not BUSY writes the bytes whose enables are 1; a read-only register, an unaligned access, and a word
of a register with an enable of 0 (log entry 162, the model's choice) change nothing; bad parity is reported. -/
def Obligations.RegisterWindowActs : Prop :=
  (∀ (s : State) (w : Word) (d : WinData), windowLive s = true →
    exec (.intStatusWrite w) s = .next { s with cp := { s.cp with intStatus := s.cp.intStatus &&& ~~~w } } ∧
    exec (.fatalStatusWrite w) s = .next { s with cp := { s.cp with fatal := s.cp.fatal &&& ~~~(w &&& 0x1F) } } ∧
    (s.cp.fatal &&& ~~~(w &&& 0x1F)) &&& 0x700 = s.cp.fatal &&& 0x700 ∧
    exec .timeLoRead s = .next { s with cp := { s.cp with
      icpl := BitVec.ofNat 32 (timeNow s), timeHi := BitVec.ofNat 32 (timeNow s / 2 ^ 32) } } ∧
    (d.be.toNat % 16 = 15 → exec (.registerWrite 0x24 4 d true) s =
      .next { s with cp := { s.cp with intEnable := d.data.setWidth 32 &&& 0x1F } }) ∧
    (∀ (m : Mb) (o n : Nat), o < 0x100 → (n = 4 ∨ n = 8 ∨ n = 16 ∨ n = 32 ∨ n = 64) → o % n = 0 →
      (getMb s m.val).st ≠ .busy →
      exec (.registerWrite (BitVec.ofNat 24 (0x10000 + 0x200 * m.val + o)) n d true) s = .next (setMb s m.val
        { getMb s m.val with cmd := storeEnabled (getMb s m.val).cmd o (leBytes n d.data.toNat) d.be })) ∧
    (∀ (a : BitVec 24) (n : Nat), a.toNat % n ≠ 0 → exec (.registerWrite a n d true) s = .next s) ∧
    (∀ (a : BitVec 24) (n : Nat), cmdBuffer a.toNat = none → n ≠ 4 ∨ d.be.toNat % 16 ≠ 15 →
      exec (.registerWrite a n d true) s = .next s) ∧
    (∀ a : BitVec 24, a.toNat < 0x10 → exec (.registerWrite a 4 d true) s = .next s) ∧
    (∀ (a : BitVec 24) (n : Nat), exec (.registerWrite a n d false) s = .next (report s none 0x21 0 none none 0))) ∧
  (∀ (m : Mem) (a : Nat) (bs : List Byte) (be : BitVec 64), memWf m = true →
    memWf (storeEnabled m a bs be) = true ∧ ∀ c, loadByte (storeEnabled m a bs be) c =
      if a ≤ c ∧ be.getLsbD (c - a) = true then (bs[c - a]?).getD (loadByte m c) else loadByte m c)

/-! ### Rings and the dispatcher -/

/-- An entry that is taken (09 R310 to R312): it is read first, and a chunk's stream list behind its fields; CONS then
advances past it; a NOP does no more; a chunk or task that passes the checks is accepted, one that fails owes a record
with the status of its first failure, and either takes the channel's next sequence number. An unlisted TYPE is refused
whichever row takes it (log entry 102). How the reads pass, and what a port fault of one does, is the model's choice
(log entry 161). -/
def Obligations.RingEntriesTaken : Prop :=
  (∀ (s : State) (i : Fin 256), takes s i.val = true →
    let rd := fwRead s (.entry i.val 0) (getRegion s (regIdx (getChan s i.val).sqReg)).host [(sqPlace s i.val, 64)]
    ∀ c ∈ [Instr.nop i, .runChunk i, .runTask i],
      (∀ t, rd = .wait t → exec c s = .next t) ∧ (rd = .bad → exec c s = .next (dropUsers s (entryUser i.val)))) ∧
  (∀ (s : State) (i : Fin 256) (m : Mem), takes s i.val = true →
    fwRead s (.entry i.val 0) (getRegion s (regIdx (getChan s i.val).sqReg)).host [(sqPlace s i.val, 64)] = .here m →
    let b := loadBytes m (sqPlace s i.val) 64; let u := advance s i.val
    (hdrN b 0 1 = 0 → exec (.nop i) s = .next u) ∧
    (2 < hdrN b 0 1 → ∀ c ∈ [Instr.nop i, .runChunk i, .runTask i], exec c s = .next (refuseEntry u i.val 1 b)) ∧
    (hdrN b 0 1 = 2 →
      (∀ w, entryCheck s i.val b [] = .ok w → exec (.runTask i) s = .next (acceptEntry u i.val b [] w)) ∧
      (∀ st, entryCheck s i.val b [] = .error st → exec (.runTask i) s = .next (refuseEntry u i.val st b))) ∧
    (hdrN b 0 1 = 1 →
      (∀ st, entryFields s i.val b = .error st → exec (.runChunk i) s = .next (refuseEntry u i.val st b)) ∧
      (entryFields s i.val b = .ok () →
        let ls := fwRead s (.entry i.val 1) (getRegion s (regIdx (listsOf b).lreg)).host [listAt s b]
        (∀ t, ls = .wait t → exec (.runChunk i) s = .next t) ∧
        (ls = .bad → exec (.runChunk i) s = .next (refuseEntry u i.val stFaulted b)) ∧
        (∀ l, ls = .here l → let hs := streamList s b l
          (∀ w, entryCheck s i.val b hs = .ok w → exec (.runChunk i) s = .next (acceptEntry u i.val b hs w)) ∧
          (∀ st, entryCheck s i.val b hs = .error st → exec (.runChunk i) s = .next (refuseEntry u i.val st b)))))) ∧
  (∀ (s : State) (i st : Nat) (b : List Byte), twf {} s.chans = true → i < 256 → let t := refuseEntry s i st b
    (getChan t i).nextSeq = (getChan s i).nextSeq + 1 ∧ (∀ j, j ≠ i → getChan t j = getChan s j) ∧
    ∃ o, t.posts = s.posts ++ [o] ∧ o.ch = i ∧ o.seq = (getChan s i).nextSeq ∧ o.status = st ∧ o.halt.reason = 0)

/-- The life of a work item on a Caldera: eligible at its window's start (10 R328), placed when it wins the window
with a grant that fits (11 R342, R356), restored (01 R40), started (11 R341), and committed when it has ended and is
quiescent, unless the parity of the slots that it saves is wrong (01 R36, 02 R77). The order of placement, and the end
of a forward phase at RESTORE_COMPLETE, are the model's readings (log entries 92 and 54), and so is that its lists are
read by further DISPATCH_PLACEs (log entry 161). -/
def Obligations.WorkItemsAdvance : Prop :=
  (∀ (s : State) (i : Fin 256) (q : Word) (t : Item),
    s.items.find? (fun t => t.ch == i.val && t.seq == q && !t.eligible) = some t → t.eligAt ≤ timeNow s →
    exec (.entryEligible i q) s = .next (setItem s { t with eligible := true })) ∧
  (∀ (s : State) (c : Fin 4) (g : Grant), s.life.phase = .running → (getCal s c.val).fenced = false →
    (getCal s c.val).held = false →
    let waits := (windowOf s c.val).find? fun i => decide (i.loading ≠ 0) && !i.stopped
    (∀ i, waits = some i → exec (.dispatchPlace c g) s = .next (loadLists s i)) ∧
    (∀ i, waits = none → (windowOf s c.val).length < 2 → idling s = false → winner s c.val = some i →
      ((imgOf s (placeImg s i)).damaged = true → exec (.dispatchPlace c g) s = .next (finishItem s i 0x24)) ∧
      ((imgOf s (placeImg s i)).damaged = false → (freeCtxs s c.val (getChan s i.ch).mask).contains g.ctx.val = true →
        grantOk (imgOf s (placeImg s i)) g (windowOf s c.val) = true →
        exec (.dispatchPlace c g) s = .next (placeItem s c.val g i)))) ∧
  (∀ (s : State) (c : Fin 4) (i : Item), execItem s c.val = some i →
    let own := (windowOf s c.val).find? fun i => i.restoring && decide (i.place = .exec)
    let any := (windowOf s c.val).find? (·.restoring)
    (∀ j, own = some j → exec (.restoreComplete c) s = .next (endRestore s j)) ∧
    (∀ j, own = none → any = some j → exec (.restoreComplete c) s =
      .next (if restLeft s j = true ∧ planeFree s c.val = false then s else endRestore s j)) ∧
    (any = none → forwardDue s i = true →
      exec (.restoreComplete c) s = .next (let u := noteSave s i
        if foundOf u i then u else endForward s i)) ∧
    (i.entered = false → i.loading = 0 → i.restoring = false → i.stopped = false → (getCal s c.val).fenced = false →
      exec (.executeStart c) s = .next (updCtx (setItem s { i with
        entered := true, imgs := if i.imgs.contains i.img then i.imgs else i.imgs ++ [i.img] }) i.ctx fun x =>
        { x with beat := timeNow s })) ∧
    (∀ bad, commitDue s i = true →
      (i.fwdDone = true → exec (.chunkCommit c bad) s = .next (commitItem s i bad)) ∧
      (i.fwdDone = false → exec (.chunkCommit c bad) s = .next (let u := noteSave s i
        if foundOf u i then u else commitItem s i bad))))

/-- A commit of a row (01 R36, Table 01.5): the row is RESIDENT where the item held it, SEQ advances, COMMIT is TIME, a
state of at most 16 KiB changes halves, QDEPTH falls by one, and a channel with no chunk left lets go. That RES_VALID is
set after a training commit too is the model's reading (log entry 143). -/
def Obligations.CommitUpdatesSlot : Prop :=
  ∀ (s : State) (i : Item) (r : Nat) (v : Slot), let w := commitRow s i r v
    w.st = .resident ∧ w.seq = v.seq + 1 ∧ w.commit = BitVec.ofNat 64 (timeNow s) ∧ w.qdepth = v.qdepth - 1 ∧
    w.half = (isHalf v && !v.half) ∧ w.resValid = true ∧ w.resCal = i.cal ∧ w.resRow = r ∧
    w.resSlot = (stateSlots s i).headD 0 ∧ w.resN = (stateSlots s i).length ∧
    w.chValid = (v.chValid && decide (1 < v.qdepth)) ∧ w.gen = v.gen ∧ w.f32 = v.f32 ∧ w.widthM1 = v.widthM1 ∧
    ((∀ p < i.e.steps, (maskWord s i p).getLsbD r = false) → w.steps = v.steps + BitVec.ofNat 64 i.e.steps) ∧
    (∀ p, p < i.e.steps → (maskWord s i p).getLsbD r = true →
      (∀ q, p < q → q < i.e.steps → (maskWord s i q).getLsbD r = false) → w.steps = BitVec.ofNat 64 (i.e.steps - p))

/-- Completion records leave for memory (09 R311, R314; 12 R376): the ports that an item wrote are fenced; its record
then goes to the CQ's port for the next place of the ring, which ends with its bytes; a fence covers the records
written, and with its end PROD advances past them. A fault of a record or of its fence leaves PROD: in integrator
memory the records are written again (log entries 107 and 161, the model's choice), and on the host link the channel
is lost. The first operand of the row lets the oldest record that is not written take its next step, the second one
lets the CQ be fenced. -/
def Obligations.RecordsReachTheirRings : Prop :=
  (∀ (s : State) (i : Fin 256) (w q : Bool), s.life.phase = .running → let n := i.val; let c := getChan s n
    let bad := jobErr s (.post n 1) = true ∨ jobErr s (.post n 2) = true
    let ended := postsFrom s n 3 ≠ [] ∧ jobDone s (.post n 2) = true
    let k := (postsFrom s n 2).length
    (bad → exec (.completionPost i w q) s = .next (unconfirmed s n)) ∧
    (¬ bad → ended → exec (.completionPost i w q) s = .next (confirm s n)) ∧
    (¬ bad → ¬ ended →
      (∀ o, w = true → (s.posts.find? fun o => o.ch == n && decide (o.stage ≤ 1)) = some o →
        (o.stage = 0 → exec (.completionPost i w q) s = .next (addJob (nextPost s n 0) (.post n 0) [dataFence o])) ∧
        (o.stage = 1 → jobDone s (.post n 0) = true → writable s c.cqReg (cqPlace c k) 64 = true →
          exec (.completionPost i w q) s = .next (writeRecord s n o))) ∧
      (w = false ∨ dueRecord s n = none →
        (q = true → fenceDue s n = true → exec (.completionPost i w q) s = .next (fenceRecords s n)) ∧
        (q = false ∨ fenceDue s n = false → exec (.completionPost i w q) s = .next s)))) ∧
  (∀ (s : State) (n : Nat) (o : Post), timeNow s ≤ o.deadline → let c := getChan s n; let k := (postsFrom s n 2).length
    writeRecord s n o = moreJob (dropJob (nextPost s n 1) (.post n 0)) (.post n 1) (regWrites s c.cqReg (cqPlace c k)
      (recordOf o (if jobErr s (.post n 0) = true ∧ hostCq s n = true then stHostLost else o.status)
        (phaseBit (c.wrote + k) c.cqLog) 0 (timeNow s)))) ∧
  (∀ (o : Post) (status phase late now : Nat), (recordOf o status phase late now).length = 64) ∧
  (∀ (s : State) (h : BitVec 16) (ofs : Nat) (bs : List Byte) (m : Mem), memWf m = true →
    let m1 := (regWrites s h ofs bs).foldl (fun m b => storeBytes m b.addr b.data) m
    let a := (getRegion s (regIdx h)).base + ofs
    loadBytes m1 a bs.length = bs ∧ ∀ x, x < a ∨ a + bs.length ≤ x → loadByte m1 x = loadByte m x) ∧
  (∀ (s : State) (i : Nat), twf {} s.chans = true → i < 256 → let c := getChan s i; let t := confirm s i
    let l := postsFrom s i 3
    (∀ m, (getMb s m).wait ≠ .chDestroy i) →
    (getChan t i).cqProd = c.cqProd + BitVec.ofNat 16 l.length ∧ (getChan t i).wrote = c.wrote + l.length ∧
    (getChan t i).lastConf = ((l.getLast?).map (·.seq)).getD c.lastConf ∧
    t.posts = s.posts.filter (fun o => !(o.ch == i && decide (o.stage = 3)))) ∧
  (∀ (s : State) (i j : Nat), getChan (unconfirmed s i) j = getChan s j) ∧
  (∀ (s : State) (i k : Nat) (unit : BitVec 8) (loc : Word) (halt : Bool) (a st : Nat), k ≠ 0 → hostCq s i = true →
    reqFault s (.post i k) unit loc halt a st = loseChan (report s none unit 0 none none loc) i)

/-! ### Bundles and the SEQ slot (07) -/

/-- A SEQ slot that issues and computes (07 Table 07.4, R212, R215 to R217, R219): the counter, comparator, ASTAT or
MX register it writes gets the value of the table, read from the counters as they stood before the bundle, and the slot
has issued. A bundle without a slot issues alone (R208). -/
def Obligations.SequencerResults : Prop :=
  (∀ (s s1 : State) (x : Fin 64), nextTurn s x.val = .empty s1 → exec (.bundleNop x) s = .next (endSlot s1 x.val)) ∧
  (∀ (s s1 : State) (x : Fin 64) (w ofs : Nat), nextTurn s x.val = .slot s1 .seq w ofs →
    let n := x.val; let op := bits w 5 0; let d := bits w 9 6; let zero := fun used => Nat.land w (Nat.xor used 0xFFFFFFFF) = 0
    let a := ctr (getCtx s1 n) (bits w 13 10); let b := ctr (getCtx s1 n) (bits w 17 14)
    (op = 0x00 → zero 0x3F → exec (.seqNop x) s = issued n s1) ∧
    (op = 0x01 → zero 0xFFFFC3FF →
      exec (.ldi x) s = issued n (putC s1 n d (BitVec.ofInt 32 (signed 18 (bits w 31 14))))) ∧
    (op = 0x02 → zero 0xFFFFC3FF → exec (.ldih x) s = issued n (putC s1 n d
      (BitVec.ofNat 32 (bits w 31 14 * 16384 + (ctr (getCtx s1 n) d).toNat % 16384)))) ∧
    (op = 0x03 → exec (.addi x) s = issued n (putC s1 n d (a + BitVec.ofInt 32 (signed 18 (bits w 31 14))))) ∧
    (op = 0x04 → zero 0x3FFFF → exec (.seqAdd x) s = issued n (putC s1 n d (a + b))) ∧
    (op = 0x05 → zero 0x3FFFF → exec (.seqSub x) s = issued n (putC s1 n d (a - b))) ∧
    (op = 0x06 → zero 0x3FFFF → exec (.seqAnd x) s = issued n (putC s1 n d (a &&& b))) ∧
    (op = 0x07 → zero 0x3FFFF → exec (.seqOr x) s = issued n (putC s1 n d (a ||| b))) ∧
    (op = 0x08 → zero 0x7FFFF → exec (.shli x) s = issued n (putC s1 n d (a <<< bits w 18 14))) ∧
    (op = 0x09 → zero 0x7FFFF → exec (.shri x) s = issued n (putC s1 n d (a >>> bits w 18 14))) ∧
    (op = 0x10 → zero 0x1FFDFF → exec (.cmp x) s =
      issued n (putK s1 n (bits w 8 6) (condHolds (bits w 16 14) a (ctr (getCtx s1 n) (bits w 20 17))))) ∧
    (op = 0x11 → zero 0xFFFFFDFF → exec (.cmpi x) s =
      issued n (putK s1 n (bits w 8 6) (condHolds (bits w 16 14) a (BitVec.ofInt 32 (signed 15 (bits w 31 17)))))) ∧
    (op = 0x28 → zero 0x3FF → exec (.rdastat x) s = issued n (putC s1 n d (getCtx s1 n).astat)) ∧
    (op = 0x29 → zero 0x3C3F → exec (.wrastat x) s =
      issued n (setCtx s1 n { getCtx s1 n with astat := writeAstat (getCtx s1 n).astat a })) ∧
    (op = 0x2A → zero 0x3FFFFFF → exec (.setmx x) s =
      issued n (setCtx s1 n { getCtx s1 n with mxr := bits w 15 6, mxc := bits w 25 16 })) ∧
    (∀ i, op = 0x3F → zero 0x3F → itemOf s1 n = some i →
      exec (.seqEnd x) s = issued n (setItem s1 { i with ended := true })))

/-- Branches and loops that stay within their bounds (07 R218, R220, R223, R224): a branch goes to its target when its
condition holds and falls through otherwise; LOOP with a count of 0 steps over the body, and otherwise starts a loop
whose index counter is 0; LEAVE with its comparator 1 takes the innermost loop off the stack and steps over its end
bundle, and with the comparator 0 does nothing. -/
def Obligations.BranchesAndLoopsRun : Prop :=
  ∀ (s s1 : State) (x : Fin 64) (w ofs : Nat) (i : Item), nextTurn s x.val = .slot s1 .seq w ofs →
    itemOf s1 x.val = some i → isEndBundle s1 x.val ofs = false →
    let n := x.val; let op := bits w 5 0; let c := getCtx s1 n; let size := (imgOf s1 i.img).codeSize
    let zero := fun used => Nat.land w (Nat.xor used 0xFFFFFFFF) = 0; let k := c.k.getLsbD (bits w 8 6)
    (∀ t : Nat, (t : Int) = (ofs : Int) + 4 * signed 18 (bits w 31 14) → t < size →
      (∀ l r, c.loops = l :: r → l.start ≤ t ∧ t ≤ l.endOfs) →
      let go := issued n (setCtx s1 n { c with goto := some (t, false) })
      (op = 0x18 → zero 0xFFFFC03F → exec (.br x) s = go) ∧
      (op = 0x19 → zero 0xFFFFC1FF → exec (.brt x) s = if k then go else issued n s1) ∧
      (op = 0x1A → zero 0xFFFFC1FF → exec (.brf x) s = if k then issued n s1 else go)) ∧
    (∀ b, op = 0x20 → c.bun = some b → let e := ofs + 4 * bits w 31 15; let count := (ctr c (bits w 13 10)).toNat
      ofs + 4 * b.len ≤ e → e < size → (∀ l r, c.loops = l :: r → e ≤ l.endOfs) →
      (count = 0 → exec (.loop x) s = issued n (setCtx s1 n { c with goto := some (e, true) })) ∧
      (count ≠ 0 → c.loops.length < 4 → bit w 14 = false → exec (.loop x) s =
        issued n (setCtx s1 n { c with loops := ⟨ofs + 4 * b.len, e, count, 0, none, false⟩ :: c.loops })) ∧
      (count ≠ 0 → c.loops.length < 4 → bit w 14 = true → exec (.loop x) s =
        issued n (putC (setCtx s1 n { c with loops := ⟨ofs + 4 * b.len, e, count, 0, some (bits w 9 6), false⟩ :: c.loops }) n
          (bits w 9 6) 0))) ∧
    (∀ l r, op = 0x21 → zero 0x1FF → c.loops = l :: r → exec (.leave x) s =
      if k then issued n (setCtx s1 n { c with loops := r, goto := some (l.endOfs, true) }) else issued n s1)

/-- Where a slot halts (07 R215, R218, R220, R223, R224, R225, Table 07.16): an opcode its slot does not know, a
reserved bit of a SEQ slot, a branch, taken or not (log entry 39), in an end bundle, out of the code or out of the
innermost loop, LEAVE without a loop, LOOP with four active. -/
def Obligations.SlotsHaltByName : Prop :=
  ∀ (s s1 : State) (x : Fin 64) (w ofs : Nat), let n := x.val
    (∀ k, nextTurn s n = .slot s1 k w ofs → knownOp k w = false → exec (.seqNop x) s =
      .next (haltIssue s1 n ofs (slotNo k) (unknownReason k) 0)) ∧
    (nextTurn s n = .slot s1 .seq w ofs → ∀ r ∈ [(Instr.seqNop x, 0x00, 0x3F), (.ldi x, 0x01, 0xFFFFC3FF),
        (.ldih x, 0x02, 0xFFFFC3FF), (.seqAdd x, 0x04, 0x3FFFF), (.seqSub x, 0x05, 0x3FFFF), (.seqAnd x, 0x06, 0x3FFFF),
        (.seqOr x, 0x07, 0x3FFFF), (.shli x, 0x08, 0x7FFFF), (.shri x, 0x09, 0x7FFFF), (.cmp x, 0x10, 0x1FFDFF),
        (.cmpi x, 0x11, 0xFFFFFDFF), (.br x, 0x18, 0xFFFFC03F), (.brt x, 0x19, 0xFFFFC1FF), (.brf x, 0x1A, 0xFFFFC1FF),
        (.leave x, 0x21, 0x1FF), (.rdastat x, 0x28, 0x3FF), (.wrastat x, 0x29, 0x3C3F), (.setmx x, 0x2A, 0x3FFFFFF),
        (.seqEnd x, 0x3F, 0x3F)],
      bits w 5 0 = r.2.1 → Nat.land w (Nat.xor r.2.2 0xFFFFFFFF) ≠ 0 →
      exec r.1 s = .next (haltIssue s1 n ofs 0 0x01 0)) ∧
    (∀ i, nextTurn s n = .slot s1 .seq w ofs → itemOf s1 n = some i →
      ∀ r ∈ [(Instr.br x, 0x18, 0xFFFFC03F), (.brt x, 0x19, 0xFFFFC1FF), (.brf x, 0x1A, 0xFFFFC1FF)],
      bits w 5 0 = r.2.1 → Nat.land w (Nat.xor r.2.2 0xFFFFFFFF) = 0 →
      let t := (ofs : Int) + 4 * signed 18 (bits w 31 14)
      (isEndBundle s1 n ofs = true → exec r.1 s = .next (haltIssue s1 n ofs 0 0x09 0)) ∧
      (isEndBundle s1 n ofs = false → t < 0 ∨ ((imgOf s1 i.img).codeSize : Int) ≤ t →
        exec r.1 s = .next (haltIssue s1 n ofs 0 0x05 0)) ∧
      (∀ l q, isEndBundle s1 n ofs = false → 0 ≤ t → t < ((imgOf s1 i.img).codeSize : Int) →
        (getCtx s1 n).loops = l :: q → t < l.start ∨ (l.endOfs : Int) < t →
        exec r.1 s = .next (haltIssue s1 n ofs 0 0x08 0))) ∧
    (nextTurn s n = .slot s1 .seq w ofs → bits w 5 0 = 0x21 → Nat.land w 0xFFFFFE00 = 0 → (getCtx s1 n).loops = [] →
      exec (.leave x) s = .next (haltIssue s1 n ofs 0 0x08 0)) ∧
    (∀ i b, nextTurn s n = .slot s1 .seq w ofs → bits w 5 0 = 0x20 → itemOf s1 n = some i → (getCtx s1 n).bun = some b →
      isEndBundle s1 n ofs = false → ofs + 4 * b.len ≤ ofs + 4 * bits w 31 15 →
      ofs + 4 * bits w 31 15 < (imgOf s1 i.img).codeSize →
      (∀ l r, (getCtx s1 n).loops = l :: r → ofs + 4 * bits w 31 15 ≤ l.endOfs) →
      (ctr (getCtx s1 n) (bits w 13 10)).toNat ≠ 0 → 4 ≤ (getCtx s1 n).loops.length →
      exec (.loop x) s = .next (haltIssue s1 n ofs 0 0x06 0))

/-! ### The MAT, VEC, SFU, MOV and SYN slots -/

/-- A MAT slot whose checks hold and that waits for nothing issues with its effect (02 R68 to R97, 01 R27, 05 R155);
one that a check fails halts with the check's reason; one that must wait waits, by the lowest cause that applies (08
Table 08.4): a half, the bus pipeline, the order on slots, the plane port, the row-read path. When ZERO, PRELOAD and
SCALE act is the model's reading (log entry 12). -/
def Obligations.MatrixSlotsIssue : Prop :=
  ∀ (s s1 : State) (x : Fin 64) (w ofs : Nat) (i : Item), nextTurn s x.val = .slot s1 .mat w ofs →
    itemOf s1 x.val = some i → let n := x.val; let op := bits w 5 0; let k := getCal s1 (ctxCal n)
    let goes := fun (c : Instr) (wait : Option Nat) (t : State) =>
      (wait = none → exec c s = .next (settle (endSlot t n) n)) ∧
      ∀ u, wait = some u → exec c s = .next (waitSlot s1 n u)
    let stops := fun (c : Instr) (e : Stop) => exec c s = .next (haltIssue s1 n ofs 1 e.1 e.2)
    (op = 0x01 → (∀ e, macCheck n i s1 w ofs = .error e → stops (.mac x) e) ∧
      ∀ a, macCheck n i s1 w ofs = .ok a → goes (.mac x) (macWait n s1 a) (macEffect n s1 a)) ∧
    (op = 0x02 → (∀ e, zeroCheck n i s1 w = .error e → stops (.zero x) e) ∧
      ∀ a, zeroCheck n i s1 w = .ok a → goes (.zero x)
        (matWait s1 n .bus false (slotWait k n true [] (formatHalves k a.1 a.2.1))) (zeroEffect n s1 ofs a)) ∧
    (op = 0x03 → (∀ e, biasCheck i w = .error e → stops (.preloadBias x) e) ∧
      ∀ a, biasCheck i w = .ok a → goes (.preloadBias x)
        (matWait s1 n .bus (!halfReadable k a.2.2.1) (slotWait k n true [] (formatHalves k a.1 a.2.1)))
        (biasEffect n s1 ofs a)) ∧
    (op = 0x04 → (∀ e, planeCheck n i s1 w = .error e → stops (.preloadPlane x) e) ∧
      ∀ a, planeCheck n i s1 w = .ok a → goes (.preloadPlane x)
        (matWait s1 n .plane false (slotWait k n false [] (formatHalves k a.2.1 a.2.2.1))) (planeEffect n s1 ofs a)) ∧
    (op = 0x05 → (∀ e, scaleCheck n i s1 w = .error e → stops (.scale x) e) ∧
      ∀ a, scaleCheck n i s1 w = .ok a → goes (.scale x) (scaleWait n w s1 a) (scaleEffect n w ofs s1 a)) ∧
    (op = 0x06 → (∀ e, decayCheck n i s1 w = .error e → stops (.loadDecay x) e) ∧
      ∀ a, decayCheck n i s1 w = .ok a → goes (.loadDecay x)
        (matWait s1 n .plane false (k.ops.any fun o => o.ctx == n && o.dec == 1)) (decayEffect n ofs s1 a)) ∧
    (op = 0x07 → (∀ e, drainCheck n i s1 w = .error e → stops (.drain x) e) ∧
      ∀ a, drainCheck n i s1 w = .ok a → goes (.drain x) (drainWait n s1 a) (drainEffect n ofs s1 a)) ∧
    (op = 0x08 → (∀ e, recircCheck n i s1 w = .error e → stops (.recirc x) e) ∧
      ∀ a, recircCheck n i s1 w = .ok a → goes (.recirc x)
        (matWait s1 n .row (decide ((halfOf k a.half).st = .inUse)) (slotWait k n false (slotsHalves a.f32 a.slots) []))
        (recircEffect n ofs s1 a)) ∧
    (op = 0x09 → (∀ e, segCheck n i s1 true w = .error e → stops (.save x) e) ∧
      ∀ a, segCheck n i s1 true w = .ok a →
        let m1 := a.rows.foldl (fun m r => saveRow k m a.f32 a.slots a.first r.1 (saveBase s1 r.2)) s1.sinter
        goes (.save x) (matWait s1 n .plane false (slotWait k n false (slotsHalves a.f32 a.slots) []))
          (addOp { noteParity s1 n a.f32 a.slots (a.rows.map (·.1)) with sinter := m1 } n (segCycles (ctxCal n) a)
            (arrayOp .plane n ofs (slotsHalves a.f32 a.slots) []))) ∧
    (op = 0x0A → (∀ e, segCheck n i s1 false w = .error e → stops (.restore x) e) ∧
      ∀ a, segCheck n i s1 false w = .ok a → let from_ := fun (r : Nat × Nat) => commitBase s1 i r.1 r.2
        goes (.restore x) (matWait s1 n .plane false (slotWait k n false [] (formatHalves k a.f32 a.slots)))
          (raiseAt (addOp (updCal s1 (ctxCal n) fun k => a.rows.foldl (fun k r =>
              restoreRow k (from_ r).1 a.f32 a.slots a.first r.1 (from_ r).2) k) n (segCycles (ctxCal n) a)
            (arrayOp .plane n ofs [] (formatHalves k a.f32 a.slots))) n ofs 1
            (a.rows.foldl (fun f r => f ||| restoreRowFlags (from_ r).1 a.f32 a.slots.length a.first (from_ r).2) 0))) ∧
    (op = 0x0B → (∀ e, gaccCheck n i s1 w = .error e → stops (.gacc x) e) ∧
      ∀ a, gaccCheck n i s1 w = .ok a → goes (.gacc x)
        (matWait s1 n .plane false (slotWait k n false (slotHalves a.1 a.2.1) [])) (gaccEffect n ofs s1 a)) ∧
    (∀ (u : Path) (half order : Bool), (half = true → matWait s1 n u half order = some 2) ∧
      (half = false → u = .bus → pathBusy s1 n u = true → matWait s1 n u half order = some 3) ∧
      (half = false → order = true → (u = .bus → pathBusy s1 n u = false) → matWait s1 n u half order = some 4) ∧
      (half = false → order = false → pathBusy s1 n u = true →
        (u = .plane → matWait s1 n u half order = some 5) ∧ (u = .row → matWait s1 n u half order = some 6)))

/-- A vector slot whose fields are accepted as the operation o, whose registers lie in the item's range, whose first
registers are not still due, and whose unit is free and holds no run with registers left, issues with the effect of o
on the registers of its run that are free (06 Table 06.1, R177, R180 to R198, R229); a register still due makes it
wait with cause 7, and the unit with cause 8. -/
def Obligations.VectorSlotsIssue : Prop :=
  ∀ (x : Fin 64), ∀ r ∈ [
      (Instr.vecAdd x, 0x01, elemwise 2 fpAdd), (.vecSub x, 0x02, elemwise 2 fpSub), (.vecMul x, 0x03, elemwise 2 fpMul),
      (.fma x, 0x04, elemwise 3 fpFma), (.min x, 0x05, elemwise 2 fpMin), (.max x, 0x06, elemwise 2 fpMax),
      (.abs x, 0x07, elemwise 1 fpAbs), (.neg x, 0x08, elemwise 1 fpNeg),
      (.cmpeq x, 0x09, elemwise 2 fun a b _ => maskIf (fEq (f32 a) (f32 b))),
      (.cmplt x, 0x0A, elemwise 2 fun a b _ => maskIf (fLt (f32 a) (f32 b))),
      (.cmple x, 0x0B, elemwise 2 fun a b _ => maskIf (fLe (f32 a) (f32 b))),
      (.sel x, 0x0C, elemwise 3 fun a b m => (if m ≠ 0 then a else b, 0)),
      (.vecMov x, 0x0D, elemwise 1 fun a _ _ => (a, 0)), (.movi x, 0x0E, moviForm),
      (.iadd x, 0x10, elemwise 2 fun a b _ => (a + b, 0)), (.isub x, 0x11, elemwise 2 fun a b _ => (a - b, 0)),
      (.iand x, 0x12, elemwise 2 fun a b _ => (a &&& b, 0)), (.ior x, 0x13, elemwise 2 fun a b _ => (a ||| b, 0)),
      (.ixor x, 0x14, elemwise 2 fun a b _ => (a ^^^ b, 0)),
      (.ishl x, 0x15, elemwise 2 fun a b _ => (a <<< (b.toNat % 32), 0)),
      (.ishr x, 0x16, elemwise 2 fun a b _ => (a >>> (b.toNat % 32), 0)),
      (.cvt x, 0x18, cvtIssue), (.mxcvt x, 0x19, mxcvtIssue),
      (.pwl x, 0x1A, pwlIssue fun c v => (rn32 (pwlEval c v).1, flagsOf [v] (pwlEval c v).2 (pwlEval c v).1)),
      (.pwlslope x, 0x1B, pwlIssue fun c v => (rn32 (pwlSlope c v), slopeFlags c v)), (.gatemul x, 0x1C, gatemulIssue),
      (.gsum x, 0x20, gsumIssue), (.rmax x, 0x21, rmaxIssue), (.rstat x, 0x22, rstatIssue), (.topk x, 0x23, topkIssue x.val),
      (.vld x, 0x28, vldIssue x.val), (.vst x, 0x29, vstIssue x.val)],
    ∀ (s s1 : State) (w ofs : Nat) (i : Item) (o : VecOp), nextTurn s x.val = .slot s1 .vec w ofs → bits w 5 0 = r.2.1 →
      itemOf s1 x.val = some i → r.2.2 i s1 w = .ok o → vecLanes i o = .ok () →
      let free := stepFree (getCal s1 (ctxCal x.val)).ops x.val i o 0
      let held := pathBusy s1 x.val .vec || unitHeld (getCal s1 (ctxCal x.val)) .vec
      (free = true → held = false → exec r.1 s = issued x.val (vecEffect x.val ofs i s1 w o)) ∧
      (free = false → exec r.1 s = .next (waitSlot s1 x.val 7)) ∧
      (free = true → held = true → exec r.1 s = .next (waitSlot s1 x.val 8))

/-- The value an elementwise vector operation on one register puts into lane j of its destination (06 Table 06.1): the
operation of lane j of its sources, each as it stood; every register but the destination stays, and the Caldera's
accumulators, stores, decay plane and halves with them. -/
def Obligations.ElementwiseLanes : Prop :=
  ∀ (n x : Nat) (f : Word → Word → Word → Word × Fl) (i : Item) (s : State) (w : Nat) (o : VecOp),
    elemwise n f i s w = .ok o → vRun w = 1 → TablesSound s →
    i.laneBase + vD w < 256 →
    let k := getCal s (ctxCal x); let k1 := (vecWork x s o 1).1
    let at_ := fun r j => laneVal k (i.laneBase + r) j
    (∀ j, j < 256 → laneVal k1 (i.laneBase + vD w) j = (f (at_ (vA w) j) (at_ (vB w) j) (at_ (vC w) j)).1) ∧
    (∀ r j, r ≠ i.laneBase + vD w → r < 256 → j < 256 → laneVal k1 r j = laneVal k r j) ∧
    k1.acc = k.acc ∧ k1.spad = k.spad ∧ k1.grad = k.grad ∧ k1.decay = k.decay ∧ k1.halves = k.halves

/-- An SFU slot whose fields are accepted, whose first registers are not still due, and whose unit is free and holds no
run with registers left, issues with its effect (06 R180, R199 to R204): the six built-in functions, and a micro-program
for the codes from 16 on; a register still due makes it wait with cause 7, and the unit with cause 9. -/
def Obligations.FunctionSlotsIssue : Prop :=
  ∀ (x : Fin 64), ∀ r ∈ [(Instr.sfuExp2 x, 0), (.sfuExp x, 1), (.sfuLog2 x, 2), (.sfuReciprocal x, 3), (.sfuRsqrt x, 4),
      (.sfuSqrt x, 5)],
    ∀ (s s1 : State) (w ofs : Nat) (i : Item) (o : VecOp), nextTurn s x.val = .slot s1 .sfu w ofs →
      itemOf s1 x.val = some i → vecLanes i o = .ok () →
      let free := stepFree (getCal s1 (ctxCal x.val)).ops x.val i o 0
      let held := pathBusy s1 x.val .sfu || unitHeld (getCal s1 (ctxCal x.val)) .sfu
      let goes := fun (c : Instr) =>
        (free = true → held = false →
          exec c s = .next (settle (endSlot (sfuEffect x.val ofs i s1 w o) x.val) x.val)) ∧
        (free = false → exec c s = .next (waitSlot s1 x.val 7)) ∧
        (free = true → held = true → exec c s = .next (waitSlot s1 x.val 9))
      (bits w 4 0 = r.2 → builtinForm r.2 i s1 w = .ok o → goes r.1) ∧
      (16 ≤ bits w 4 0 → microForm i s1 w = .ok o → goes (.microProgram x))

/-- A MOV or SYN slot whose checks hold and that waits for nothing issues with its effect (02 R61, 08 R258, R272 to
R275, R280, R286): a private ACQ takes its amount, a shared one the part of it that is left; REL gives, a shared one at
the end of the item; FENCE only waits. A MOV slot that was prefetched does nothing again, and its cycle counts no ISSUE
(08 R279, R281). When a FEED and a
VENT or GATHER read is the model's reading (log entries 29 and 34). -/
def Obligations.MoveAndSyncSlotsIssue : Prop :=
  ∀ (s s1 : State) (x : Fin 64) (w ofs : Nat) (i : Item), itemOf s1 x.val = some i →
    let n := x.val; let op := bits w 5 0
    (nextTurn s n = .slot s1 .mov w ofs →
      (∀ a, op = 0x01 → feedCheck n i s1 w = .ok a → (halfOf (getCal s1 (ctxCal n)) a.half).st ≠ .inUse →
        exec (.feed x) s = issued n (feedEffect n s1 a)) ∧
      (∀ a, op = 0x02 → isPrefetched s1 n ofs = false → ventCheck n i s1 w ofs = .ok a → ventWait s1 a = none →
        exec (.vent x) s = issued n (ventEffect n s1 a)) ∧
      (∀ a, op = 0x03 → isPrefetched s1 n ofs = false → gatherCheck n i s1 w ofs = .ok a → gatherWait s1 n = none →
        exec (.gather x) s = issued n (gatherEffect n s1 a)) ∧
      (isPrefetched s1 n ofs = true →
        let reached : Out := .next (settle (updCtx (endSlot (reachPrefetch s1 n ofs) n) n fun c =>
          { c with issued := (getCtx s n).issued }) n)
        (op = 0x02 → exec (.vent x) s = reached) ∧ (op = 0x03 → exec (.gather x) s = reached))) ∧
    (nextTurn s n = .slot s1 .syn w ofs →
      (∀ k t, op = 0x01 → acqCheck n i s1 w = .ok (k, false, t) → t ≤ (getSem s1 k).value → exec (.acq x) s =
        issued n (setSem s1 k { getSem s1 k with value := (getSem s1 k).value - t })) ∧
      (∀ k t, op = 0x01 → acqCheck n i s1 w = .ok (k, true, t) → exec (.acq x) s = issued n (setItem s1 { i with
        acqs := i.acqs.map fun q => if q.sem = k then { q with left := q.left - t } else q })) ∧
      (∀ k t, op = 0x01 → acqCheck n i s1 w = .ok (k, false, t) → (getSem s1 k).value < t →
        exec (.acq x) s = .next (waitSlot s1 n 0x0A)) ∧
      (∀ k t, op = 0x02 → synCheck n i s1 w = .ok (k, false, t) → exec (.rel x) s = issued n (semAdd s1 k t)) ∧
      (∀ k t, op = 0x02 → synCheck n i s1 w = .ok (k, true, t) →
        exec (.rel x) s = issued n (setItem s1 (addDefer i k t))) ∧
      (op = 0x03 → w < 4096 → fenceBusy s1 n (bits w 11 6) = false → exec (.fence x) s = issued n s1) ∧
      (op = 0x03 → w < 4096 → fenceBusy s1 n (bits w 11 6) = true → exec (.fence x) s = .next (waitSlot s1 n 0x0D)))

/-- Entering a bundle (07 R209, R212, R223, R242): a context inside a bundle goes on with it and nothing changes;
otherwise the context stands at the bundle with its counters as they are for the bundle's slots, the loops that end
there have met it, its lines are the most recent of the instruction cache, and the next line may be asked for: then
the request goes to the port of the image's backing store, unless the second level holds the line. -/
def Obligations.BundleEntryFrame : Prop :=
  (∀ (s s1 : State) (x : Nat) (k : SlotK) (w ofs : Nat), TablesSound s → nextTurn s x = .slot s1 k w ofs →
    let c := getCtx s x
    (∀ b, c.bun = some b → s1 = s ∧ b.ofs = ofs) ∧
    (c.bun = none → (∀ y, y ≠ x → getCtx s1 y = getCtx s y) ∧ (∀ y, SameButFetch (getCal s y) (getCal s1 y)) ∧
      ∃ i b, itemOf s x = some i ∧ b.ofs = ofs ∧ b.rest.head? = some k ∧ b.outer = c.loops.isEmpty ∧
        let d := { c with pc := ofs, stepOver := false, bun := some b, cPrev := c.c, goto := none, dbgStep := false,
                          loops := meetEnds c.loops ofs }
        let e := touchLines (setCtx s x d) (ctxCal x) i.img ofs (4 * b.len)
        getCtx s1 x = d ∧ (s1 = e ∨ s1 = askLine e (ctxCal x) i.img (ofs / 256 + 1)))) ∧
  (∀ (s : State) (c : Nat) (img : BitVec 16) (line : Nat), let k := getCal s c
    let e := setCal s c { k with fetches := k.fetches ++ [⟨img, line, 0⟩] }
    askLine s c img line = s ∨ askLine s c img line = e ∨ ∃ p, linePlace e img line = some p ∧
      askLine s c img line = addJob e (.fetch c img line) [readBursts p.1 p.2 256])

/-- The frame of a SEQ slot that is not the last of its bundle, in a context no item of which is halted or stopped (07
R210, R212): a counter instruction writes its counter alone, a comparison its comparator alone, and beside them only
what is left of the bundle changes, and the cycle counts as one in which the context has issued. -/
def Obligations.SequencerSlotFrame : Prop :=
  ∀ (x : Fin 64), ∀ r ∈ [(Instr.ldi x, 0x01, 0xFFFFC3FF, true), (.ldih x, 0x02, 0xFFFFC3FF, true),
      (.addi x, 0x03, 0xFFFFFFFF, true), (.seqAdd x, 0x04, 0x3FFFF, true), (.seqSub x, 0x05, 0x3FFFF, true),
      (.seqAnd x, 0x06, 0x3FFFF, true), (.seqOr x, 0x07, 0x3FFFF, true), (.shli x, 0x08, 0x7FFFF, true),
      (.shri x, 0x09, 0x7FFFF, true), (.cmp x, 0x10, 0x1FFDFF, false), (.cmpi x, 0x11, 0xFFFFFDFF, false),
      (.rdastat x, 0x28, 0x3FF, true)],
    ∀ (s s1 : State) (w ofs : Nat) (b : Bun) (j k : SlotK) (rest : List SlotK),
    nextTurn s x.val = .slot s1 .seq w ofs → bits w 5 0 = r.2.1 → Nat.land w (Nat.xor r.2.2.1 0xFFFFFFFF) = 0 →
    Undisturbed s1 x.val → twf {} s1.ctxs = true → (getCtx s1 x.val).bun = some b → b.rest = j :: k :: rest →
    (getCtx s1 x.val).halted = false →
    ∃ t, exec r.1 s = .next t ∧ let c := getCtx s1 x.val; let d := getCtx t x.val
      (∀ n, (n ≠ bits w 9 6 ∨ r.2.2.2 = false) → tget 0 n d.c = tget 0 n c.c) ∧
      (∀ n, n < 8 → (n ≠ bits w 8 6 ∨ r.2.2.2 = true) → d.k.getLsbD n = c.k.getLsbD n) ∧
      t = setCtx s1 x.val { c with
        c := d.c, k := d.k, issued := true, cause := 14,
        bun := some { b with rest := k :: rest, words := b.words.drop (slotWords j) } } ∧
      ∀ y, y ≠ x.val → getCtx t y = getCtx s1 y

/-- The end of a bundle (07 R210, R221): after its last slot, a context without a loop that ends there, and without an
image switch, goes on at the target its SEQ slot chose, or at the next bundle; the bundle is traced and the watchdog
starts anew. -/
def Obligations.BundleEndAdvances : Prop :=
  ∀ (s : State) (x : Nat) (i : Item) (b : Bun) (j : SlotK), Undisturbed s x → itemOf s x = some i →
    (getCtx s x).bun = some b → b.rest = [j] → b.yield = false → (getCtx s x).halted = false → twf {} s.ctxs = true →
    (getCtx s x).loops.all (fun l => l.endOfs != b.ofs) = true →
    let c := getCtx s x
    issued x s = .next (setItem (setCtx s x { c with
      pc := (c.goto.getD (b.ofs + 4 * b.len, false)).1, stepOver := (c.goto.getD (0, false)).2, bun := none, goto := none,
      bundles := c.bundles + 1, beat := timeNow s, issued := true, cause := 14,
      trace := (c.trace ++ [(b.ofs, i.img, s.clk)]).drop (c.trace.length - 63) }) i)

/-! ### Events of the array and of movement (02, 06, 07, 08) -/

/-- Pipeline events of the array (02 R61, R63, R72, R79, R81, R96 to R101; 06 R180): a run gets its next promotion
behind the bus path's earlier operations; the compares of the oldest group handed over report what they find; a result
reaches its place; a RECIRC that is first on the row-read path, or the older FEED of a feeder, has filled its half.
What RESULT_IN_PLACE brings to its place, and that faults come as operands, are the model's readings (log entries 12
and 135). -/
def Obligations.ArrayEventsAct : Prop :=
  (∀ (s : State) (q : Struck), let c := q.cal.val
    let s0 := updCal s c fun k => { k with acc := upsetSlots k.acc q.ups }
    (∀ r, openRun (getCal s0 c) = some r → runWaits (getCal s0 c) r = false →
      exec (.promotion q) s = .next (promoteRun s0 c r q.ups)) ∧
    (openRun (getCal s0 c) = none → exec (.promotion q) s = .next s0)) ∧
  (∀ (s : State) (c : Fin 4), let k := getCal s c.val
    (∀ h l rows cols, k.groups = h :: l →
      let s1 := setCal s c.val { k with runs := comparedRuns k.runs, groups := l }; let g := strike h rows cols
      (missedRows g = [] → missedCols g = [] → exec (.checkCompare c rows cols) s = .next (settle s1 h.ctx)) ∧
      (missedRows g ≠ [] ∨ missedCols g ≠ [] → exec (.checkCompare c rows cols) s = .next (settle (detected
        (updCal s1 c.val fun k => { k with mismatch := some (mismatchOf s1 g) }) {
          unit := 0x11, cal := some c, ctx := some (Fin.ofNat 64 g.ctx), loc := cellLoc (missedRows g) (missedCols g),
          shared := false, double := false, saveBad := false }) h.ctx))) ∧
    (∀ u o, firstOp k u = some o → o.rest = none → busWaits k o = false →
      exec (.resultInPlace c u) s = .next (placeResult s c.val o)) ∧
    (∀ u o r i v, firstOp k u = some o → o.rest = some r → restForm s o r = some (i, v) →
      stepFree (k.ops.takeWhile fun p => decide (p ≠ o)) o.ctx i v r.m = true →
      exec (.resultInPlace c u) s = .next (processNext s o r i v)) ∧
    (∀ o h, firstOp k .row = some o → o.half = some h → exec (.recircReady c) s = .next (settle
      (setCal s c.val (fillEnds { k with ops := delFirst (fun p => decide (p = o)) k.ops } h)) o.ctx)) ∧
    (∀ row f, k.feeds.find? (fun f => decide (f.half < 2) == row) = some f →
      exec (.feedComplete ⟨c, row⟩) s = .next (settle
        (setCal s c.val (fillEnds { k with feeds := delFirst (fun g => decide (g = f)) k.feeds } f.half)) f.ctx)))

/-- Movement events (08 R258 to R269, R274, R278, R279, R286, R290; 07 R243): the first transfer of an engine
completes when it is ready, or its next add reaches its atomic unit; a lookup whose rows are all there and that comes
first at the cache's read port completes, and one that misses rows reads them; a MOV slot ahead is prefetched; a
semaphore is offered to the waiting contexts from its pointer on; a code line arrives. When a transfer's elements move
is the model's reading (log entry 61). -/
def Obligations.MovementEventsAct : Prop :=
  (∀ (s : State) (e : Eng), engList s (engKey e) = [] →
    exec (.transferComplete e) s = .next (enterAhead s (engKey e))) ∧
  (∀ (s : State) (e : Eng) (t : Xfer) (r : List Xfer), engList s (engKey e) = t :: r →
    (xferReady s t = true → exec (.transferComplete e) s = .next (settle (completeXfer s (engKey e) t) t.ctx)) ∧
    (t.started = true → t.add = true → t.err = false → t.dst.space ≠ 4 → t.acks = 0 → jobDone s (.xfer t.id) = true →
      jobErr s (.xfer t.id) = false → t.adds < (xferElems t).length →
      exec (.atomicAdd e) s = .next (settle (addNext s (engKey e) t) t.ctx))) ∧
  (∀ (s : State) (c : Fin 4) (n : Fin 16) (l : Lookup), (getCal s c.val).lookups[n.val]? = some l →
    lookReady s l = true → lookLoses s c.val n.val l = false →
    (missRows s l = [] ∨ l.err = true ∨ jobErr s (.look l.id) = true → exec (.lookupComplete c n) s =
      .next (settle (completeLook { s with tephraPtr := (16 * c.val + n.val + 1) % 64 } c.val l) l.ctx)) ∧
    (missRows s l ≠ [] → l.err = false → jobErr s (.look l.id) = false → exec (.lookupComplete c n) s =
      .next (settle (readAgain s c.val l) l.ctx))) ∧
  (∀ (s : State) (c : Fin 4) (n : Fin 16) (l : Lookup), (getCal s c.val).lookups[n.val]? = some l →
    lookReady s l = false ∨ lookLoses s c.val n.val l = true → exec (.lookupComplete c n) s = .next s) ∧
  (∀ (s : State) (x : Fin 64) (n no : Nat) (q : Walk) (w : Nat) (i : Item), winItemOf s x.val = some i →
    i.stopped = false → (getCtx s x.val).halted = false → i.ended = false → i.attempt ≠ 0 →
    (getCtx s x.val).pre.length < 4 → (∃ a, walkStart (getCtx s x.val) = some a ∧ a.2 = no ∧
      walkTo s (ctxCal x.val) i.img (imgOf s i.img).codeSize n a.1 = some (q, w)) →
    ((getCtx s x.val).pre.any fun e => e.ofs == q.pc && e.seqNo == no + n) = false →
    exec (.prefetch x n) s = .next (prefetchSlot s x.val i q (no + n) w)) ∧
  (∀ (s : State) (k : Fin 1280), exec (.semGrant k) s =
    .next (grantAcqs k.val s ((List.range 64).map fun n => ((getSem s k.val).ptr + n) % 64))) ∧
  (∀ (s : State) (c : Fin 4) (img : BitVec 16) (line : Nat) (ok : Bool) (f : Fetch),
    (getCal s c.val).fetches.find? (fun f => f.img == img && f.line == line) = some f →
    exec (.lineFill c img line ok) s = .next (arriveLine s c.val f ok))

/-! ### Faults and the ladder (14) -/

/-- Timers and checks of 14 (R417 to R430): a context over its watchdog limit is reported and halts with WATCHDOG; a
halted context that is not quiescent gets a context reset; a fault is reported, a stopped attempt replayed, a fenced
Caldera finishes its fence; the oldest log entry expires; a scrub repairs; the CP watchdog makes the firmware FAILED
and resets the block, or cycles its power when the last block reset ended less than a second ago. Which timers are
measured, and the OUTCOME of a watchdog's record, is the model's choice (log entries 58 and 158). -/
def Obligations.FaultEventsAct : Prop :=
  (∀ (s : State) (x : Fin 64) (i : Item), itemOf s x.val = some i → mayIssue s x.val i = true →
    (getCtx s x.val).beat + wdogLimit s i ≤ timeNow s → exec (.watchdog x) s =
      .next (haltIssue (report s (some i) 0x30 2 (some i.cal) (some x.val) (BitVec.ofNat 32 x.val)) x.val
        (((getCtx s x.val).bun.map (·.ofs)).getD (getCtx s x.val).pc) 7 0x50 0)) ∧
  (∀ (s : State) (x : Fin 64), (getCtx s x.val).halted = true → quiescent s x.val = false →
    exec (.hungContext x) s = .next (startStep s 1 x.val 4 (some x.val) [])) ∧
  (∀ (s : State) (f : FaultRep), awake s = true → exec (.faultDetected f) s = .next (detected (dropFound s f) f) ∧
    exec (.scrub f) s = .next (scrubbed s f)) ∧
  (∀ (s : State) (c : Fin 4) (i : Item), (windowOf s c.val).find? (fun i => i.stopped && !i.fail) = some i →
    quiescent s i.ctx = true → (getCal s c.val).fenced = false → exec (.replayStart c) s = .next (startReplay s i)) ∧
  (∀ (s : State) (c : Fin 4), (getCal s c.val).fenceDue = true →
    (∀ i, execItem s c.val = some i → i.entered = false ∨ (i.stopped = true ∧ quiescent s i.ctx = true)) →
    exec (.fenceCaldera c) s = .next (finishFence s c.val)) ∧
  (∀ s : State, exec .faultLogExpire s = .next { s with flt := { s.flt with log := s.flt.log.drop 1 } }) ∧
  (∀ s : State, s.cp.fwState = .running →
    let s0 := report s none 0x31 2 none none 0
    let s1 := raiseFatal { s0 with cp := { s0.cp with fwState := .failed } } 1
    ((∃ t, s.flt.blockEnd = some t ∧ s.clk < t + 1000 * msClk) → exec .cpWdog s = .next (startStep s1 5 0 11 none [])) ∧
    ((∀ t, s.flt.blockEnd = some t → t + 1000 * msClk ≤ s.clk) → exec .cpWdog s = .next (startStep s1 4 0 7 none [])))

/-- Steps of the ladder end (14 Table 14.6, R432 to R437): a running step resets its scope and answers the RESET
commands that wait for it; a block reset wipes once; a power cycle holds every Caldera; the dump goes to its
destination in WRITEs, and the fence behind them ends its copy. -/
def Obligations.LadderStepsReset : Prop :=
  (∀ (s : State) (x : Fin 64) (q : LStep), running s 1 x.val = some q →
    exec (.contextReset x) s = .next (endStep (ctxReset s x.val) q)) ∧
  (∀ (s : State) (c : Fin 4) (q : LStep), running s 2 c.val = some q →
    exec (.engineReset c) s = .next (endStep (engReset s c.val) q)) ∧
  (∀ (s : State) (p : Fin 4) (q : LStep), running s 3 p.val = some q →
    exec (.partitionReset p) s = .next (endStep (partReset s p.val q.mbs) q)) ∧
  (∀ (s : State) (q : LStep), running s 4 0 = some q → q.wiped = false → exec .blockReset s = .next (blockStep s)) ∧
  (∀ (s : State) (q : LStep), running s 5 0 = some q →
    exec .powerCycle s = .next (if (List.range 4).all fun c => (getCal s c).held then s else holdAll s)) ∧
  (∀ s : State, s.life.phase = .running → s.dump.held = true →
    let ws := regWrites s s.dump.reg s.dump.ofs (loadBytes s.dump.mem 0 0x60000)
    (jobOf s .dump = none → dumpPlace s = true → exec .dumpCopy s = .next (addJob s .dump
      [ws, fenceBursts (getRegion s (regIdx s.dump.reg)).host ws])) ∧
    (jobOf s .dump = none → dumpPlace s = false → exec .dumpCopy s = .next s) ∧
    ((jobOf s .dump).isSome = true → jobDone s .dump = false → exec .dumpCopy s = .next s) ∧
    ((jobOf s .dump).isSome = true → jobDone s .dump = true →
      (jobErr s .dump = true → exec .dumpCopy s = .next (dropJob s .dump)) ∧
      (jobErr s .dump = false → exec .dumpCopy s =
        .next { dropJob s .dump with dump := { s.dump with held := false, mem := [] } })))

/-- An engine reset (14 Table 14.6) empties its Caldera's array, lanes, halves, pipelines, caches and engines; the
Caldera stays in its partition, and no RESIDENT row is left there (log entry 68). -/
def Obligations.EngineResetEmptiesCaldera : Prop :=
  ∀ (s : State) (c : Nat), TablesSound s → c < 4 → let k := getCal (engReset s c) c
    k.part = (getCal s c).part ∧ k.acc = [] ∧ k.fmt = 0 ∧ k.decay = [] ∧ k.lanes = [] ∧ k.written = 0 ∧
    k.halves = [] ∧ k.runs = [] ∧ k.groups = [] ∧ k.found = [] ∧ k.free = [] ∧ k.ops = [] ∧ k.feeds = [] ∧
    k.icache = [] ∧ k.fetches = [] ∧ k.ve = [] ∧ k.dispPtr = 0 ∧
    ∀ i, (getSlot (engReset s c) i).resValid = true → (getSlot (engReset s c) i).resCal = c →
      (getSlot (engReset s c) i).st ≠ .resident

/-! ### Time, power, life cycle and debug (10, 15) -/

/-- A sample while the time base takes samples (10 R318, R319, R322; log entry 108): two ticks are added to it; the
first one, or one that is not behind TIME, sets TIME and LOCKED; one behind TIME by no more than the tolerance makes
TIME stand still; each of these starts the 100 µs anew, after which LOCKED ends in HOLDOVER, and not before. -/
def Obligations.TimeSamplesSetTime : Prop :=
  (∀ (s : State) (v : BitVec 64) (b : Bool), sampling s = true → (s.straps.stepEn = true → b = true) →
    let w := (v + 2).toNat
    (s.tb.st = .unset → ∃ t, exec (.timeSample v b) s = .next t ∧ timeNow t = w ∧ t.tb.st = .locked ∧
      t.tb.mark12 = t.tb.t12) ∧
    (s.tb.st ≠ .unset → timeNow s ≤ w → ∃ t, exec (.timeSample v b) s = .next t ∧ timeNow t = w ∧ t.tb.st = .locked ∧
      t.tb.hold12 = 0 ∧ t.tb.mark12 = t.tb.t12) ∧
    (s.tb.st ≠ .unset → w < timeNow s → timeNow s - w ≤ sampleTol s.tb → ∃ t, exec (.timeSample v b) s = .next t ∧
      timeNow t = timeNow s ∧ t.tb.st = .locked ∧ t.tb.hold12 = 12 * (timeNow s - w) ∧ t.tb.mark12 = t.tb.t12) ∧
    (s.tb.st ≠ .unset → w < timeNow s → sampleTol s.tb < timeNow s - w → ∃ t, exec (.timeSample v b) s = .next t ∧
      timeNow t = timeNow s ∧ t.tb.backs = s.tb.backs + 1 ∧ t.tb.mark12 = s.tb.mark12)) ∧
  (∀ s : State, s.tb.st = .locked →
    (s.tb.mark12 + 1200000 ≤ s.tb.t12 → exec .holdover s =
      .next (postBlockEvent { s with tb := { s.tb with st := .holdover, left12 := 0 } } 0x0021 (leBytes 1 1))) ∧
    (s.tb.t12 < s.tb.mark12 + 1200000 → exec .holdover s = .next s))

/-- Resets and power (15 R440 to R451): the release of CRP_POR_N starts the phases, a warm reset wipes the block, the
life-cycle state and the firmware image let it go on, a wipe that is due starts, and a wake leaves RETAIN unless a
block reset has started. Life cycle (R439, R454, R457): a change of the code in force wipes the block, to the new
state when it is the acknowledged request and to END otherwise; a request ends by its acknowledgment or its timeout; a
nonce lapses. -/
def Obligations.PowerAndLifeCycleEventsAct : Prop :=
  ∀ s : State,
    (s.life.phase = .held → exec .powerOnReset s = .next (powerOn s)) ∧
    (s.life.phase ≠ .held → exec .warmReset s = .next (warm s)) ∧
    exec .crpPorNAssert s = .next (powerOff s) ∧
    (∀ code, s.life.lcValid = false → exec (.lcValid code) s =
      .next (samplePhase { s with life := { s.life with lcIn := code, lcValid := true } })) ∧
    (s.life.phase = .boot → exec .firmwareVerify s = .next (let u := fwFetch s
      if fwOk s then fwStart u
      else raiseFatal { u with
        cp := { u.cp with fwState := .failed }, life := { u.life with phase := .failed } } 2)) ∧
    (∀ lv, s.life.wipe = some lv → s.life.wipeOff = false → exec .secureWipe s = .next (secureWipeTo s lv)) ∧
    (∀ lv, s.life.wipe = some lv → s.life.wipeOff = true → exec .secureWipe s = .next (wipeToOff s)) ∧
    (s.life.pstate = .retain → s.life.pwrSafe = true → running s 4 0 = none → exec .wake s = .next (wakeUp s)) ∧
    (s.life.pstate ≠ .retain ∨ running s 4 0 ≠ none → exec .wake s = .next s) ∧
    (∀ code v, let s1 := { s with life := { s.life with lcIn := code, lcValid := v } }
      (booted s = false → exec (.lcStateChange code v) s = .next s1) ∧
      (booted s = true → v = true → code ≠ s.life.lc → s.life.lcAcked = true → s.life.lcReq = code →
        exec (.lcStateChange code v) s = .next (secureWipeTo s1 none)) ∧
      (booted s = true → v = false ∨ (code ≠ s.life.lc ∧ (s.life.lcAcked = false ∨ s.life.lcReq ≠ code)) →
        exec (.lcStateChange code v) s = .next (holdEnd { wiped s1 false with dump := {} }))) ∧
    (s.life.lcReqValid = true →
      exec .lcReqAck s = .next { s with life := { s.life with lcReqValid := false, lcAcked := true } } ∧
      exec .lcReqTimeout s = .next { s with life := { s.life with lcReqValid := false, lcReq := 0 } }) ∧
    exec .nonceLapse s = .next { s with life := { s.life with nonce := 0, nonceFor := 0 } }

/-- Debug instructions (15 Table 15.8, R456): BYPASS and DSTAT act at every level; OBSREG needs level OBSERVE; MEMRD,
MEMWR, CTXCTL and SCAN need OPEN, and below their level every one acts as BYPASS; SCAN is for the state of manufacture
alone, elsewhere it acts as BYPASS at OPEN too, and leaving it, by another instruction too, resets the block. The
layouts of DSTAT and OBSREG and the numbering of MEMRD and MEMWR are the model's choice (log entries 123, 124 and
127). -/
def Obligations.DebugInstructionsAct : Prop :=
  ∀ s : State, let u := scanLeft s
    (s.life.scan = false → u = s) ∧ (s.life.scan = true → u = powerOn (powerOff s)) ∧
    (∀ b, exec (.bypass b) s = .next (dbgSet u 0xFF (b2n b))) ∧
    exec .dstat s = .next (dbgSet u 0x01
      (levelNo u.life.level + 4 * u.life.lc.toNat + 32 * (fwStatus u % 8) + 256 * pstateNo u.life.pstate)) ∧
    (∀ ofs, (1 ≤ levelNo u.life.level → exec (.obsreg ofs) s = .next (dbgSet u 0x10 (obsWord u ofs))) ∧
      (u.life.level = .closed → exec (.obsreg ofs) s = .next (dbgNo u))) ∧
    (u.life.level = .opened →
      (∀ st k w, w < storeWords st k → exec (.memrd st k w) s = .next (dbgSet u 0x20 (storeWord u st k w)) ∧
        ∀ d, exec (.memwr st k w d) s = .next (dbgSet (putWord u st k w d.toNat) 0x21 d.toNat)) ∧
      (∀ st k w d, storeWords st k ≤ w → exec (.memrd st k w) s = .fault .noSuchWord ∧
        exec (.memwr st k w d) s = .fault .noSuchWord) ∧
      (∀ x : Fin 64, let c := getCtx u x.val
        exec (.ctxctl x 0) s = .next (dbgSet (setCtx u x.val { c with dbgHalt := true, dbgStep := false }) 0x22 0) ∧
        exec (.ctxctl x 1) s = .next (dbgSet (setCtx u x.val { c with dbgStep := c.dbgHalt }) 0x22 0) ∧
        exec (.ctxctl x 2) s = .next (dbgSet (setCtx u x.val { c with dbgHalt := false, dbgStep := false }) 0x22 0))) ∧
    (u.life.level ≠ .opened → ∀ st k w d (x : Fin 64) a, exec (.memrd st k w) s = .next (dbgNo u) ∧
      exec (.memwr st k w d) s = .next (dbgNo u) ∧ exec (.ctxctl x a) s = .next (dbgNo u)) ∧
    (s.life.level = .opened → s.life.lc = 1 → exec (.scan true) s = .next u ∧
      exec (.scan false) s = .next (let s1 := dbgSet s 0x30 0; { s1 with life := { s1.life with scan := true } })) ∧
    (s.life.level ≠ .opened ∨ s.life.lc ≠ 1 → ∀ b, exec (.scan b) s = .next (dbgNo s))

/-! ### The ports (12) -/

/-- Answers to the block's requests (12 R363 to R368, R379): the last beat of a READ, an acknowledgment or a completion
with status OK ends the request well; another status or a timeout ends it with a fault, and a tag is free again with the
last of its beats only; a WRITE is not acknowledged before its last beat; a credit counts, and lets beats and requests
through. Host link events (R380 to R383, Table 12.6) act in a block out of reset; what RETRAIN_TIMEOUT
leaves is the model's reading (log entry 119). -/
def Obligations.PortEventsAct : Prop :=
  (∀ (s : State) (n : Fin 16) (g : Fin 256) (r : Req), memReq s n.val g.val = some r →
    (∀ st l, r.b.kind = .read → st ≠ 0 → r.retired = false →
      exec (.memResponse n g st l) s = .next (finishReq s r false l)) ∧
    (∀ st, r.b.kind = .read → st = 0 ∨ r.retired = true →
      exec (.memResponse n g st true) s = .next (finishReq s r true true) ∧ exec (.memResponse n g st false) s = .next s) ∧
    (∀ st, r.b.kind ≠ .read → r.wd = 0 → exec (.memAck n g st) s = .next (finishReq s r (st.val == 0) true)) ∧
    (∀ st, r.b.kind ≠ .read → 0 < r.wd → exec (.memAck n g st) s = .next s) ∧
    (r.retired = false → exec (.memTagTimeout n g) s = .next (finishReq s r false false))) ∧
  (∀ (s : State) (n : Fin 16) (wd : Bool), awake s = true → let c := getMemCh s n.val
    exec (.memCreditReturn n wd) s = .next (goOn (sendBeats (setMemCh s n.val (if wd then
      { c with wdCrd := c.wdCrd + 1, wdTotal := c.wdTotal + 1 } else
      { c with reqCrd := c.reqCrd + 1, reqTotal := c.reqTotal + 1 })) n.val))) ∧
  (∀ (s : State) (g : Fin 256) (r : Req), hostReq s g.val = some r →
    (∀ st, exec (.hostCompletion g st) s = .next (finishReq s r (st.val == 0) true)) ∧
    (r.retired = false → exec (.hostReadTimeout g) s = .next (finishReq s r false false))) ∧
  (∀ s : State, awake s = true → let h := s.host
    let link := fun up retrain => { s with host :=
      { h with up := up, retrain := retrain, expired := h.expired && retrain } }
    (h.up = true → exec .linkDown s = .next (hostLoss (link false h.retrain) 1)) ∧
    (h.up = false → exec .linkUp s = .next (goOn (postBlockEvent (link true h.retrain) 0x0031 (leBytes 1 0)))) ∧
    (h.retrain = false → exec .retrainStart s = .next (postBlockEvent (link h.up true) 0x0031 (leBytes 1 2))) ∧
    (h.retrain = true → h.expired = false →
      exec .retrainEnd s = .next (goOn (postBlockEvent (link h.up false) 0x0031 (leBytes 1 3)))) ∧
    (h.retrain = true → h.expired = true → exec .retrainEnd s = .next (goOn (link h.up false))) ∧
    (h.retrain = true → h.expired = false →
      exec .retrainTimeout s = .next (hostLoss { s with host := { h with expired := true } } 6)) ∧
    exec .hotReset s = .next (goOn (hostLoss (invalidateHost (link h.up false)) 4)) ∧
    exec .functionLevelReset s = .next (goOn (hostLoss (invalidateHost (link h.up h.retrain)) 5)))

/-! ### The Light Port (13) -/

/-- The frame expected next from a peer of the session is accepted, acknowledges, and does what its type says; LINK
answers it when no frame presented then carries its acknowledgment; a NAK sends the kept frames of its class again from
its SEQ (13 R392, R393, R397 to R403). Which frames are taken, when LINK answers, and the
grants, and the port that a PROBE is answered over, are the model's readings (log entries 109 to 112 and 163). -/
def Obligations.PlumeFramesAct : Prop :=
  ∀ (s : State) (p : Fin 2) (f : Frame), let q := f.src.val; let u := meet s f
    dsessOk u f = true →
    let acts := fun (rsp : Bool) (h : State → Nat → State) => let s2 := took u q rsp f
      let s3 := h (acked s2 q f) q
      (.next (if sentTo s3 q = sentTo s2 q then sendCtl s3 q 0xC1 else s3) : Out)
    (f.seq = (getPeer u q).req.rx →
      (frameFits s p f 0x01 0 = true → exec (.plumeWrite p f) s = acts false (doWrite f)) ∧
      (frameFits s p f 0x02 0 = true → exec (.plumeRead p f) s = acts false (doRead f)) ∧
      (frameFits s p f 0x03 0 = true → exec (.plumeAdd p f) s = acts false (doAdd f)) ∧
      (frameFits s p f 0x04 0 = true → exec (.doorbell p f) s = acts false (doBell f)) ∧
      (frameFits s p f 0x05 0 = true → exec (.state p f) s = acts false (doState f)) ∧
      (frameFits s p f 0x06 0 = true → exec (.cancel p f) s = acts false (doCancel f))) ∧
    (f.seq = (getPeer u q).rsp.rx →
      (frameFits s p f 0x81 1 = true → exec (.wack p f) s = acts true (answer p.val f (fun t _ => t) fun l _ => l)) ∧
      (frameFits s p f 0x82 1 = true → exec (.rdata p f) s = acts true (answer p.val f
        (fun t o => { t with rx := storeBytes t.rx o f.payload }) fun l o => { l with rx := storeBytes l.rx o f.payload })) ∧
      (frameFits s p f 0x83 1 = true → exec (.aack p f) s = acts true (answer p.val f
        (fun t _ => { t with flags := t.flags ||| f.flags.setWidth 5 }) fun l _ => l)) ∧
      (frameFits s p f 0x84 1 = true → exec (.dack p f) s = acts true (answer p.val f (fun t _ => t) fun l _ => l)) ∧
      (frameFits s p f 0x85 1 = true → exec (.sresult p f) s = acts true (doSresult f))) ∧
    (frameFits s p f 0xC1 2 = true → exec (.link p f) s = .next (acked u q f)) ∧
    (frameFits s p f 0xC2 2 = true → exec (.nak p f) s =
      .next (resendTo (acked u q f) q (f.flags.getLsbD 0) f.seq)) ∧
    (frameFits s p f 0xC3 2 = true → exec (.probe p f) s = .next (
      let s1 := ctlOver (acked u q f) p.val q 0xC4 0 0
      if (getPeer (acked u q f) q).lost then sendCtl s1 q 0xC3 else s1)) ∧
    (frameFits s p f 0xC4 2 = true → exec (.probeReply p f) s = .next (probed p.val (acked u q f) q))

/-- A frame that is not the next one of its class changes nothing but link control (13 R392): one above the expected
SEQ brings one NAK with the class and the SEQ, one below it LINK; one that does not fit, or is of another session,
does nothing to the class. -/
def Obligations.PlumeOrderKept : Prop :=
  ∀ (type : BitVec 8) (rsp : Bool) (h : State → Nat → State) (p : Fin 2) (f : Frame) (s : State),
    let q := f.src.val; let u := meet s f; let c := classOf (getPeer u q) rsp
    (frameFits s p f type (if rsp then 1 else 0) = false → recv type rsp h p f s = .next s) ∧
    (frameFits s p f type (if rsp then 1 else 0) = true →
      (dsessOk u f = false → recv type rsp h p f s = .next u) ∧
      (dsessOk u f = true → before c.rx f.seq = true → c.nak = true → recv type rsp h p f s = .next u) ∧
      (dsessOk u f = true → before c.rx f.seq = true → c.nak = false → recv type rsp h p f s =
        .next (let s1 := setPeer u q (withClass (getPeer u q) rsp { c with nak := true })
          ctlOver s1 (portOf u q) q 0xC2 c.rx (if rsp then 1 else 0))) ∧
      (dsessOk u f = true → f.seq ≠ c.rx → before c.rx f.seq = false →
        recv type rsp h p f s = .next (sendCtl u q 0xC1)))

/-- Timers and ports of the light link (13 R389, R393, R404 to R406): a retry timeout sends the kept frames again,
over a port that is UP, and keeps them queued otherwise; the fourth in a row on one frame moves the pair from its
primary port to the other one while that is UP; a peer that leaves a frame unacknowledged is lost, and one lost
already loses the exports to it and the imports from it; a port that goes DOWN or comes UP moves the pairs it serves,
and what then waits is presented. A timer row is the expiry itself, and what a peer's loss keeps, is the model's
reading (log entries 58, 112 and 116). -/
def Obligations.LightTimersAct : Prop :=
  ∀ s : State,
    (∀ q : Fin 64, frameWaits s q.val = true → let r := getPeer s q.val; let s1 := resendPeer s q.val countTimeout
      let four := fun (c : PClass) => unacked c = true ∧ 3 ≤ c.timeouts
      (portIsUp s (portOf s q.val) = true →
        (four r.req ∨ four r.rsp → r.alt = false → portIsUp s (1 - primaryPort s q.val) = true →
          exec (.retryTimeout q) s = .next (switchPort s1 q.val)) ∧
        ((¬ four r.req ∧ ¬ four r.rsp) ∨ r.alt = true ∨ portIsUp s (1 - primaryPort s q.val) = false →
          exec (.retryTimeout q) s = .next s1)) ∧
      (portIsUp s (portOf s q.val) = false → r.alt = true ∨ portIsUp s (1 - primaryPort s q.val) = false →
        exec (.retryTimeout q) s = .next s) ∧
      (r.lost = false → exec (.peerLost q) s = .next (losePeer s q.val)) ∧
      (r.lost = true → exec (.peerLost q) s = .next (failExports (failImports s q.val) q.val))) ∧
    (∀ p : Fin 2, (portIsUp s p.val = true → exec (.portDown p) s = .next (presentPort
        ((List.range 64).foldl (fun s q => if portOf s q = p.val then movePair s q else s)
          (report (setPort s p.val false) none 0x22 0 none none (BitVec.ofNat 32 p.val))) (1 - p.val))) ∧
      (awake s = true → portIsUp s p.val = false → exec (.portUp p) s = .next (presentPort
        ((List.range 64).foldl (fun s q => portRisen p.val s q) (setPort s p.val true)) p.val)))

/-! ### Streams and words -/

/-- A stream that STREAM_CREATE makes (01 R21, R22, Table 01.5): its GEN is the one after the slot's, never 0,
so the handle answered is valid and no handle of the slot's former stream is; it is IDLE with no steps, and its 32 KiB
are zero. -/
def Obligations.NewStreamHandleValid : Prop :=
  ∀ (s : State) (i p : Nat) (f : Bool) (w : Nat), TablesSound s → memWf s.sinter = true → i < 4096 →
    let t := newStream s i p f w; let v := getSlot t i; let g := (getSlot s i).gen.toNat
    v.gen.toNat = (if g + 1 = 2 ^ 20 then 1 else g + 1) ∧ v.gen ≠ 0 ∧ streamOk t (streamHandle t i) = true ∧
    v.st = .idle ∧ v.seq = 0 ∧ v.steps = 0 ∧ v.qdepth = 0 ∧ v.f32 = f ∧ v.widthM1 = w ∧ v.part = p ∧
    (∀ h : Word, slotOf h = i → h.toNat / 4096 = g → streamOk t h = false) ∧
    (∀ a, i * 32768 ≤ a → a < (i + 1) * 32768 → loadByte t.sinter a = 0) ∧
    (∀ a, (a < i * 32768 ∨ (i + 1) * 32768 ≤ a) → loadByte t.sinter a = loadByte s.sinter a) ∧
    (∀ j, j ≠ i → getSlot t j = getSlot s j)
end

