-- ==== Sys2Proof/Laws/Bits.lean ====
section
/-! SUPPORT. Laws of the sparse tables and byte memories: what a write changes, what it leaves, and that every memory
operation keeps the canonical form. -/

namespace Sys2Proof.Machine

/-! ### Tables -/

@[simp] theorem tget_nil {α : Type} (d : α) (k : Nat) : tget d k [] = d := rfl

/-- Every key of a table is above k. -/
def above {α : Type} (k : Nat) (t : Tab α) : Bool := t.all fun e => decide (k < e.1)

theorem twf_cons {α : Type} [DecidableEq α] (d : α) (k : Nat) (v : α) (r : Tab α) :
    twf d ((k, v) :: r) = true ↔ v ≠ d ∧ above k r = true ∧ twf d r = true := by
  simp [twf, above, and_assoc]

theorem tget_of_above {α : Type} (d : α) (j k : Nat) (t : Tab α) (h : above j t = true) (hk : k ≤ j) :
    tget d k t = d := by
  induction t with
  | nil => rfl
  | cons e r ih =>
    simp only [above, List.all_cons, Bool.and_eq_true, decide_eq_true_eq] at h
    have hr : above j r = true := h.2
    have hne : e.1 ≠ k := by omega
    simp [tget, hne, ih hr]

/-- An entry reads as what was put there. -/
theorem tget_tput_same {α : Type} [DecidableEq α] (d : α) (k : Nat) (v : α) (t : Tab α) (h : twf d t = true) :
    tget d k (tput d k v t) = v := by
  induction t with
  | nil => by_cases hv : v = d <;> simp [tput, tget, hv]
  | cons e r ih =>
    obtain ⟨k', v'⟩ := e
    obtain ⟨-, ha, hr⟩ := (twf_cons d k' v' r).mp h
    by_cases h1 : k < k'
    · by_cases hv : v = d
      · have := tget_of_above d k' k r ha (by omega)
        have hne : k' ≠ k := by omega
        simp [tput, h1, hv, tget, hne, this]
      · simp [tput, h1, hv, tget]
    · by_cases h2 : k = k'
      · subst h2
        by_cases hv : v = d
        · simp [tput, hv, tget_of_above d k k r ha (Nat.le_refl k)]
        · simp [tput, hv, tget]
      · have hne : k' ≠ k := fun h => h2 h.symm
        simp [tput, h1, h2, tget, hne, ih hr]

/-- Every other entry reads as before. -/
theorem tget_tput_other {α : Type} [DecidableEq α] (d : α) (j k : Nat) (v : α) (t : Tab α) (hjk : j ≠ k) :
    tget d j (tput d k v t) = tget d j t := by
  induction t with
  | nil =>
    by_cases hv : v = d
    · simp [tput, hv]
    · have : k ≠ j := fun h => hjk h.symm
      simp [tput, hv, tget, this]
  | cons e r ih =>
    obtain ⟨k', v'⟩ := e
    have hkj : k ≠ j := fun h => hjk h.symm
    by_cases h1 : k < k'
    · by_cases hv : v = d
      · simp [tput, h1, hv]
      · simp [tput, h1, hv, tget, hkj]
    · by_cases h2 : k = k'
      · subst h2
        by_cases hv : v = d <;> simp [tput, hv, tget, hkj]
      · simp only [tput, h1, h2, if_false, tget, ih]

theorem above_tput {α : Type} [DecidableEq α] (d : α) (j k : Nat) (v : α) (t : Tab α) (h : above j t = true)
    (hk : j < k) : above j (tput d k v t) = true := by
  induction t with
  | nil => by_cases hv : v = d <;> simp [tput, hv, above, hk]
  | cons e r ih =>
    obtain ⟨k', v'⟩ := e
    simp only [above, List.all_cons, Bool.and_eq_true, decide_eq_true_eq] at h
    have hr : above j r = true := h.2
    have ih' := ih hr
    simp only [above] at ih' hr
    by_cases h1 : k < k'
    · by_cases hv : v = d <;> simp [tput, h1, hv, above, hk, h.1] <;> simpa using hr
    · by_cases h2 : k = k'
      · by_cases hv : v = d <;> simp [tput, h2, hv, above, h.1] <;> simpa using hr
      · simp only [tput, h1, h2, if_false, above, List.all_cons, Bool.and_eq_true, decide_eq_true_eq]
        exact ⟨h.1, ih'⟩

theorem above_mono {α : Type} (i j : Nat) (t : Tab α) (h : above j t = true) (hij : i ≤ j) : above i t = true := by
  simp only [above, List.all_eq_true, decide_eq_true_eq] at *
  exact fun e he => Nat.lt_of_le_of_lt hij (h e he)

/-- A write keeps the canonical form. -/
theorem twf_tput {α : Type} [DecidableEq α] (d : α) (k : Nat) (v : α) (t : Tab α) (h : twf d t = true) :
    twf d (tput d k v t) = true := by
  induction t with
  | nil => by_cases hv : v = d <;> simp [tput, hv, twf]
  | cons e r ih =>
    obtain ⟨k', v'⟩ := e
    obtain ⟨hv', ha, hr⟩ := (twf_cons d k' v' r).mp h
    by_cases h1 : k < k'
    · by_cases hv : v = d
      · simpa [tput, h1, hv] using h
      · simp only [tput, h1, hv, if_true, if_false]
        refine (twf_cons d k v _).mpr ⟨hv, ?_, h⟩
        simp only [above, List.all_cons, Bool.and_eq_true, decide_eq_true_eq]
        exact ⟨h1, above_mono k k' r ha (by omega)⟩
    · by_cases h2 : k = k'
      · subst h2
        by_cases hv : v = d
        · simpa [tput, hv] using hr
        · simp only [tput, Nat.lt_irrefl, hv, if_true, if_false]
          exact (twf_cons d k v r).mpr ⟨hv, ha, hr⟩
      · simp only [tput, h1, h2, if_false]
        exact (twf_cons d k' v' _).mpr ⟨hv', above_tput d k' k v r ha (by omega), ih hr⟩

theorem above_filter {α : Type} (k : Nat) (p : Nat × α → Bool) (t : Tab α) (h : above k t = true) :
    above k (t.filter p) = true := by
  simp only [above, List.all_eq_true] at *
  exact fun e he => h e (List.mem_of_mem_filter he)

/-- Leaving entries out keeps the canonical form. -/
theorem twf_filter {α : Type} [DecidableEq α] (d : α) (p : Nat × α → Bool) (t : Tab α) (h : twf d t = true) :
    twf d (t.filter p) = true := by
  induction t with
  | nil => rfl
  | cons e r ih =>
    obtain ⟨k, v⟩ := e
    obtain ⟨hv, ha, hr⟩ := (twf_cons d k v r).mp h
    by_cases hp : p (k, v) = true
    · rw [List.filter_cons_of_pos hp]
      exact (twf_cons d k v _).mpr ⟨hv, above_filter k p r ha, ih hr⟩
    · rw [List.filter_cons_of_neg hp]
      exact ih hr

/-! ### Byte memories -/

theorem memWf_storeByte (m : Mem) (a : Nat) (b : Byte) (h : memWf m = true) : memWf (storeByte m a b) = true :=
  twf_tput 0 a b m h

theorem memWf_storeBytes (m : Mem) (a : Nat) (bs : List Byte) (h : memWf m = true) :
    memWf (storeBytes m a bs) = true := by
  induction bs generalizing m a with
  | nil => exact h
  | cons b r ih => exact ih _ _ (memWf_storeByte m a b h)

theorem memWf_store (m : Mem) (a n w : Nat) (h : memWf m = true) : memWf (store m a n w) = true :=
  memWf_storeBytes m a _ h

theorem memWf_clearRange (m : Mem) (a n : Nat) (h : memWf m = true) : memWf (clearRange m a n) = true :=
  twf_filter 0 _ m h

theorem loadByte_storeByte_same (m : Mem) (a : Nat) (b : Byte) (h : memWf m = true) :
    loadByte (storeByte m a b) a = b := tget_tput_same 0 a b m h

theorem loadByte_storeByte_other (m : Mem) (a c : Nat) (b : Byte) (h : c ≠ a) :
    loadByte (storeByte m a b) c = loadByte m c := tget_tput_other 0 c a b m h

/-- Bytes outside the stored ones read as before. -/
theorem loadByte_storeBytes_out (m : Mem) (a c : Nat) (bs : List Byte) (h : c < a ∨ a + bs.length ≤ c) :
    loadByte (storeBytes m a bs) c = loadByte m c := by
  induction bs generalizing m a with
  | nil => rfl
  | cons b r ih =>
    simp only [List.length_cons] at h
    rw [storeBytes, ih _ _ (by omega), loadByte_storeByte_other _ _ _ _ (by omega)]

/-- A stored byte reads back. -/
theorem loadByte_storeBytes_in (m : Mem) (a i : Nat) (bs : List Byte) (h : memWf m = true) (hi : i < bs.length) :
    loadByte (storeBytes m a bs) (a + i) = bs.getD i 0 := by
  induction bs generalizing m a i with
  | nil => exact absurd hi (Nat.not_lt_zero i)
  | cons b r ih =>
    cases i with
    | zero =>
      rw [storeBytes, loadByte_storeBytes_out _ _ _ _ (by omega)]
      simpa using loadByte_storeByte_same m a b h
    | succ i =>
      have := ih (storeByte m a b) (a + 1) i (memWf_storeByte m a b h) (by simpa using hi)
      rw [storeBytes, show a + (i + 1) = a + 1 + i by omega, this]
      rfl

end Sys2Proof.Machine
end

