-- ==== Sys2Proof/Laws/State.lean ====
section
/-! SUPPORT. One lemma for each field and each update of the state: what an update leaves alone, true by definition; and
what a reader gives after a writer. -/

namespace Sys2Proof.Machine

variable (s : State)

/-! ### setCtx -/

@[simp] theorem setCtx_pending (x : Nat) (v : Ctx) : (setCtx s x v).pending = s.pending := rfl
@[simp] theorem setCtx_cp (x : Nat) (v : Ctx) : (setCtx s x v).cp = s.cp := rfl
@[simp] theorem setCtx_tb (x : Nat) (v : Ctx) : (setCtx s x v).tb = s.tb := rfl
@[simp] theorem setCtx_clk (x : Nat) (v : Ctx) : (setCtx s x v).clk = s.clk := rfl
@[simp] theorem setCtx_straps (x : Nat) (v : Ctx) : (setCtx s x v).straps = s.straps := rfl
@[simp] theorem setCtx_mbs (x : Nat) (v : Ctx) : (setCtx s x v).mbs = s.mbs := rfl
@[simp] theorem setCtx_mbOrder (x : Nat) (v : Ctx) : (setCtx s x v).mbOrder = s.mbOrder := rfl
@[simp] theorem setCtx_parts (x : Nat) (v : Ctx) : (setCtx s x v).parts = s.parts := rfl
@[simp] theorem setCtx_chans (x : Nat) (v : Ctx) : (setCtx s x v).chans = s.chans := rfl
@[simp] theorem setCtx_regions (x : Nat) (v : Ctx) : (setCtx s x v).regions = s.regions := rfl
@[simp] theorem setCtx_images (x : Nat) (v : Ctx) : (setCtx s x v).images = s.images := rfl
@[simp] theorem setCtx_tables (x : Nat) (v : Ctx) : (setCtx s x v).tables = s.tables := rfl
@[simp] theorem setCtx_gsets (x : Nat) (v : Ctx) : (setCtx s x v).gsets = s.gsets := rfl
@[simp] theorem setCtx_slots (x : Nat) (v : Ctx) : (setCtx s x v).slots = s.slots := rfl
@[simp] theorem setCtx_sinter (x : Nat) (v : Ctx) : (setCtx s x v).sinter = s.sinter := rfl
@[simp] theorem setCtx_cals (x : Nat) (v : Ctx) : (setCtx s x v).cals = s.cals := rfl
@[simp] theorem setCtx_sems (x : Nat) (v : Ctx) : (setCtx s x v).sems = s.sems := rfl
@[simp] theorem setCtx_vs (x : Nat) (v : Ctx) : (setCtx s x v).vs = s.vs := rfl
@[simp] theorem setCtx_vsPtr (x : Nat) (v : Ctx) : (setCtx s x v).vsPtr = s.vsPtr := rfl
@[simp] theorem setCtx_tephraPtr (x : Nat) (v : Ctx) : (setCtx s x v).tephraPtr = s.tephraPtr := rfl
@[simp] theorem setCtx_xqPtr (x : Nat) (v : Ctx) : (setCtx s x v).xqPtr = s.xqPtr := rfl
@[simp] theorem setCtx_xqFree (x : Nat) (v : Ctx) : (setCtx s x v).xqFree = s.xqFree := rfl
@[simp] theorem setCtx_cpMem (x : Nat) (v : Ctx) : (setCtx s x v).cpMem = s.cpMem := rfl
@[simp] theorem setCtx_spare (x : Nat) (v : Ctx) : (setCtx s x v).spare = s.spare := rfl
@[simp] theorem setCtx_l2 (x : Nat) (v : Ctx) : (setCtx s x v).l2 = s.l2 := rfl
@[simp] theorem setCtx_l2Retired (x : Nat) (v : Ctx) : (setCtx s x v).l2Retired = s.l2Retired := rfl
@[simp] theorem setCtx_tephra (x : Nat) (v : Ctx) : (setCtx s x v).tephra = s.tephra := rfl
@[simp] theorem setCtx_tephraRetired (x : Nat) (v : Ctx) : (setCtx s x v).tephraRetired = s.tephraRetired := rfl
@[simp] theorem setCtx_items (x : Nat) (v : Ctx) : (setCtx s x v).items = s.items := rfl
@[simp] theorem setCtx_posts (x : Nat) (v : Ctx) : (setCtx s x v).posts = s.posts := rfl
@[simp] theorem setCtx_exports (x : Nat) (v : Ctx) : (setCtx s x v).exports = s.exports := rfl
@[simp] theorem setCtx_arrivals (x : Nat) (v : Ctx) : (setCtx s x v).arrivals = s.arrivals := rfl
@[simp] theorem setCtx_jobs (x : Nat) (v : Ctx) : (setCtx s x v).jobs = s.jobs := rfl
@[simp] theorem setCtx_reqs (x : Nat) (v : Ctx) : (setCtx s x v).reqs = s.reqs := rfl
@[simp] theorem setCtx_mem (x : Nat) (v : Ctx) : (setCtx s x v).mem = s.mem := rfl
@[simp] theorem setCtx_host (x : Nat) (v : Ctx) : (setCtx s x v).host = s.host := rfl
@[simp] theorem setCtx_light (x : Nat) (v : Ctx) : (setCtx s x v).light = s.light := rfl
@[simp] theorem setCtx_imem (x : Nat) (v : Ctx) : (setCtx s x v).imem = s.imem := rfl
@[simp] theorem setCtx_hmem (x : Nat) (v : Ctx) : (setCtx s x v).hmem = s.hmem := rfl
@[simp] theorem setCtx_flt (x : Nat) (v : Ctx) : (setCtx s x v).flt = s.flt := rfl
@[simp] theorem setCtx_dump (x : Nat) (v : Ctx) : (setCtx s x v).dump = s.dump := rfl
@[simp] theorem setCtx_ladder (x : Nat) (v : Ctx) : (setCtx s x v).ladder = s.ladder := rfl
@[simp] theorem setCtx_life (x : Nat) (v : Ctx) : (setCtx s x v).life = s.life := rfl
@[simp] theorem setCtx_pwrcyc (x : Nat) (v : Ctx) : (setCtx s x v).pwrcyc = s.pwrcyc := rfl
@[simp] theorem setCtx_nid (x : Nat) (v : Ctx) : (setCtx s x v).nid = s.nid := rfl
@[simp] theorem setCtx_draws (x : Nat) (v : Ctx) : (setCtx s x v).draws = s.draws := rfl

/-! ### setCal -/

@[simp] theorem setCal_pending (c : Nat) (v : Cal) : (setCal s c v).pending = s.pending := rfl
@[simp] theorem setCal_cp (c : Nat) (v : Cal) : (setCal s c v).cp = s.cp := rfl
@[simp] theorem setCal_tb (c : Nat) (v : Cal) : (setCal s c v).tb = s.tb := rfl
@[simp] theorem setCal_clk (c : Nat) (v : Cal) : (setCal s c v).clk = s.clk := rfl
@[simp] theorem setCal_straps (c : Nat) (v : Cal) : (setCal s c v).straps = s.straps := rfl
@[simp] theorem setCal_mbs (c : Nat) (v : Cal) : (setCal s c v).mbs = s.mbs := rfl
@[simp] theorem setCal_mbOrder (c : Nat) (v : Cal) : (setCal s c v).mbOrder = s.mbOrder := rfl
@[simp] theorem setCal_parts (c : Nat) (v : Cal) : (setCal s c v).parts = s.parts := rfl
@[simp] theorem setCal_chans (c : Nat) (v : Cal) : (setCal s c v).chans = s.chans := rfl
@[simp] theorem setCal_regions (c : Nat) (v : Cal) : (setCal s c v).regions = s.regions := rfl
@[simp] theorem setCal_images (c : Nat) (v : Cal) : (setCal s c v).images = s.images := rfl
@[simp] theorem setCal_tables (c : Nat) (v : Cal) : (setCal s c v).tables = s.tables := rfl
@[simp] theorem setCal_gsets (c : Nat) (v : Cal) : (setCal s c v).gsets = s.gsets := rfl
@[simp] theorem setCal_slots (c : Nat) (v : Cal) : (setCal s c v).slots = s.slots := rfl
@[simp] theorem setCal_sinter (c : Nat) (v : Cal) : (setCal s c v).sinter = s.sinter := rfl
@[simp] theorem setCal_ctxs (c : Nat) (v : Cal) : (setCal s c v).ctxs = s.ctxs := rfl
@[simp] theorem setCal_sems (c : Nat) (v : Cal) : (setCal s c v).sems = s.sems := rfl
@[simp] theorem setCal_vs (c : Nat) (v : Cal) : (setCal s c v).vs = s.vs := rfl
@[simp] theorem setCal_vsPtr (c : Nat) (v : Cal) : (setCal s c v).vsPtr = s.vsPtr := rfl
@[simp] theorem setCal_tephraPtr (c : Nat) (v : Cal) : (setCal s c v).tephraPtr = s.tephraPtr := rfl
@[simp] theorem setCal_xqPtr (c : Nat) (v : Cal) : (setCal s c v).xqPtr = s.xqPtr := rfl
@[simp] theorem setCal_xqFree (c : Nat) (v : Cal) : (setCal s c v).xqFree = s.xqFree := rfl
@[simp] theorem setCal_cpMem (c : Nat) (v : Cal) : (setCal s c v).cpMem = s.cpMem := rfl
@[simp] theorem setCal_spare (c : Nat) (v : Cal) : (setCal s c v).spare = s.spare := rfl
@[simp] theorem setCal_l2 (c : Nat) (v : Cal) : (setCal s c v).l2 = s.l2 := rfl
@[simp] theorem setCal_l2Retired (c : Nat) (v : Cal) : (setCal s c v).l2Retired = s.l2Retired := rfl
@[simp] theorem setCal_tephra (c : Nat) (v : Cal) : (setCal s c v).tephra = s.tephra := rfl
@[simp] theorem setCal_tephraRetired (c : Nat) (v : Cal) : (setCal s c v).tephraRetired = s.tephraRetired := rfl
@[simp] theorem setCal_items (c : Nat) (v : Cal) : (setCal s c v).items = s.items := rfl
@[simp] theorem setCal_posts (c : Nat) (v : Cal) : (setCal s c v).posts = s.posts := rfl
@[simp] theorem setCal_exports (c : Nat) (v : Cal) : (setCal s c v).exports = s.exports := rfl
@[simp] theorem setCal_arrivals (c : Nat) (v : Cal) : (setCal s c v).arrivals = s.arrivals := rfl
@[simp] theorem setCal_jobs (c : Nat) (v : Cal) : (setCal s c v).jobs = s.jobs := rfl
@[simp] theorem setCal_reqs (c : Nat) (v : Cal) : (setCal s c v).reqs = s.reqs := rfl
@[simp] theorem setCal_mem (c : Nat) (v : Cal) : (setCal s c v).mem = s.mem := rfl
@[simp] theorem setCal_host (c : Nat) (v : Cal) : (setCal s c v).host = s.host := rfl
@[simp] theorem setCal_light (c : Nat) (v : Cal) : (setCal s c v).light = s.light := rfl
@[simp] theorem setCal_imem (c : Nat) (v : Cal) : (setCal s c v).imem = s.imem := rfl
@[simp] theorem setCal_hmem (c : Nat) (v : Cal) : (setCal s c v).hmem = s.hmem := rfl
@[simp] theorem setCal_flt (c : Nat) (v : Cal) : (setCal s c v).flt = s.flt := rfl
@[simp] theorem setCal_dump (c : Nat) (v : Cal) : (setCal s c v).dump = s.dump := rfl
@[simp] theorem setCal_ladder (c : Nat) (v : Cal) : (setCal s c v).ladder = s.ladder := rfl
@[simp] theorem setCal_life (c : Nat) (v : Cal) : (setCal s c v).life = s.life := rfl
@[simp] theorem setCal_pwrcyc (c : Nat) (v : Cal) : (setCal s c v).pwrcyc = s.pwrcyc := rfl
@[simp] theorem setCal_nid (c : Nat) (v : Cal) : (setCal s c v).nid = s.nid := rfl
@[simp] theorem setCal_draws (c : Nat) (v : Cal) : (setCal s c v).draws = s.draws := rfl

/-! ### setChan -/

@[simp] theorem setChan_pending (i : Nat) (v : Chan) : (setChan s i v).pending = s.pending := rfl
@[simp] theorem setChan_cp (i : Nat) (v : Chan) : (setChan s i v).cp = s.cp := rfl
@[simp] theorem setChan_tb (i : Nat) (v : Chan) : (setChan s i v).tb = s.tb := rfl
@[simp] theorem setChan_clk (i : Nat) (v : Chan) : (setChan s i v).clk = s.clk := rfl
@[simp] theorem setChan_straps (i : Nat) (v : Chan) : (setChan s i v).straps = s.straps := rfl
@[simp] theorem setChan_mbs (i : Nat) (v : Chan) : (setChan s i v).mbs = s.mbs := rfl
@[simp] theorem setChan_mbOrder (i : Nat) (v : Chan) : (setChan s i v).mbOrder = s.mbOrder := rfl
@[simp] theorem setChan_parts (i : Nat) (v : Chan) : (setChan s i v).parts = s.parts := rfl
@[simp] theorem setChan_regions (i : Nat) (v : Chan) : (setChan s i v).regions = s.regions := rfl
@[simp] theorem setChan_images (i : Nat) (v : Chan) : (setChan s i v).images = s.images := rfl
@[simp] theorem setChan_tables (i : Nat) (v : Chan) : (setChan s i v).tables = s.tables := rfl
@[simp] theorem setChan_gsets (i : Nat) (v : Chan) : (setChan s i v).gsets = s.gsets := rfl
@[simp] theorem setChan_slots (i : Nat) (v : Chan) : (setChan s i v).slots = s.slots := rfl
@[simp] theorem setChan_sinter (i : Nat) (v : Chan) : (setChan s i v).sinter = s.sinter := rfl
@[simp] theorem setChan_ctxs (i : Nat) (v : Chan) : (setChan s i v).ctxs = s.ctxs := rfl
@[simp] theorem setChan_cals (i : Nat) (v : Chan) : (setChan s i v).cals = s.cals := rfl
@[simp] theorem setChan_sems (i : Nat) (v : Chan) : (setChan s i v).sems = s.sems := rfl
@[simp] theorem setChan_vs (i : Nat) (v : Chan) : (setChan s i v).vs = s.vs := rfl
@[simp] theorem setChan_vsPtr (i : Nat) (v : Chan) : (setChan s i v).vsPtr = s.vsPtr := rfl
@[simp] theorem setChan_tephraPtr (i : Nat) (v : Chan) : (setChan s i v).tephraPtr = s.tephraPtr := rfl
@[simp] theorem setChan_xqPtr (i : Nat) (v : Chan) : (setChan s i v).xqPtr = s.xqPtr := rfl
@[simp] theorem setChan_xqFree (i : Nat) (v : Chan) : (setChan s i v).xqFree = s.xqFree := rfl
@[simp] theorem setChan_cpMem (i : Nat) (v : Chan) : (setChan s i v).cpMem = s.cpMem := rfl
@[simp] theorem setChan_spare (i : Nat) (v : Chan) : (setChan s i v).spare = s.spare := rfl
@[simp] theorem setChan_l2 (i : Nat) (v : Chan) : (setChan s i v).l2 = s.l2 := rfl
@[simp] theorem setChan_l2Retired (i : Nat) (v : Chan) : (setChan s i v).l2Retired = s.l2Retired := rfl
@[simp] theorem setChan_tephra (i : Nat) (v : Chan) : (setChan s i v).tephra = s.tephra := rfl
@[simp] theorem setChan_tephraRetired (i : Nat) (v : Chan) : (setChan s i v).tephraRetired = s.tephraRetired := rfl
@[simp] theorem setChan_items (i : Nat) (v : Chan) : (setChan s i v).items = s.items := rfl
@[simp] theorem setChan_posts (i : Nat) (v : Chan) : (setChan s i v).posts = s.posts := rfl
@[simp] theorem setChan_exports (i : Nat) (v : Chan) : (setChan s i v).exports = s.exports := rfl
@[simp] theorem setChan_arrivals (i : Nat) (v : Chan) : (setChan s i v).arrivals = s.arrivals := rfl
@[simp] theorem setChan_jobs (i : Nat) (v : Chan) : (setChan s i v).jobs = s.jobs := rfl
@[simp] theorem setChan_reqs (i : Nat) (v : Chan) : (setChan s i v).reqs = s.reqs := rfl
@[simp] theorem setChan_mem (i : Nat) (v : Chan) : (setChan s i v).mem = s.mem := rfl
@[simp] theorem setChan_host (i : Nat) (v : Chan) : (setChan s i v).host = s.host := rfl
@[simp] theorem setChan_light (i : Nat) (v : Chan) : (setChan s i v).light = s.light := rfl
@[simp] theorem setChan_imem (i : Nat) (v : Chan) : (setChan s i v).imem = s.imem := rfl
@[simp] theorem setChan_hmem (i : Nat) (v : Chan) : (setChan s i v).hmem = s.hmem := rfl
@[simp] theorem setChan_flt (i : Nat) (v : Chan) : (setChan s i v).flt = s.flt := rfl
@[simp] theorem setChan_dump (i : Nat) (v : Chan) : (setChan s i v).dump = s.dump := rfl
@[simp] theorem setChan_ladder (i : Nat) (v : Chan) : (setChan s i v).ladder = s.ladder := rfl
@[simp] theorem setChan_life (i : Nat) (v : Chan) : (setChan s i v).life = s.life := rfl
@[simp] theorem setChan_pwrcyc (i : Nat) (v : Chan) : (setChan s i v).pwrcyc = s.pwrcyc := rfl
@[simp] theorem setChan_nid (i : Nat) (v : Chan) : (setChan s i v).nid = s.nid := rfl
@[simp] theorem setChan_draws (i : Nat) (v : Chan) : (setChan s i v).draws = s.draws := rfl

/-! ### setRegion -/

@[simp] theorem setRegion_pending (i : Nat) (v : Region) : (setRegion s i v).pending = s.pending := rfl
@[simp] theorem setRegion_cp (i : Nat) (v : Region) : (setRegion s i v).cp = s.cp := rfl
@[simp] theorem setRegion_tb (i : Nat) (v : Region) : (setRegion s i v).tb = s.tb := rfl
@[simp] theorem setRegion_clk (i : Nat) (v : Region) : (setRegion s i v).clk = s.clk := rfl
@[simp] theorem setRegion_straps (i : Nat) (v : Region) : (setRegion s i v).straps = s.straps := rfl
@[simp] theorem setRegion_mbs (i : Nat) (v : Region) : (setRegion s i v).mbs = s.mbs := rfl
@[simp] theorem setRegion_mbOrder (i : Nat) (v : Region) : (setRegion s i v).mbOrder = s.mbOrder := rfl
@[simp] theorem setRegion_parts (i : Nat) (v : Region) : (setRegion s i v).parts = s.parts := rfl
@[simp] theorem setRegion_chans (i : Nat) (v : Region) : (setRegion s i v).chans = s.chans := rfl
@[simp] theorem setRegion_images (i : Nat) (v : Region) : (setRegion s i v).images = s.images := rfl
@[simp] theorem setRegion_tables (i : Nat) (v : Region) : (setRegion s i v).tables = s.tables := rfl
@[simp] theorem setRegion_gsets (i : Nat) (v : Region) : (setRegion s i v).gsets = s.gsets := rfl
@[simp] theorem setRegion_slots (i : Nat) (v : Region) : (setRegion s i v).slots = s.slots := rfl
@[simp] theorem setRegion_sinter (i : Nat) (v : Region) : (setRegion s i v).sinter = s.sinter := rfl
@[simp] theorem setRegion_ctxs (i : Nat) (v : Region) : (setRegion s i v).ctxs = s.ctxs := rfl
@[simp] theorem setRegion_cals (i : Nat) (v : Region) : (setRegion s i v).cals = s.cals := rfl
@[simp] theorem setRegion_sems (i : Nat) (v : Region) : (setRegion s i v).sems = s.sems := rfl
@[simp] theorem setRegion_vs (i : Nat) (v : Region) : (setRegion s i v).vs = s.vs := rfl
@[simp] theorem setRegion_vsPtr (i : Nat) (v : Region) : (setRegion s i v).vsPtr = s.vsPtr := rfl
@[simp] theorem setRegion_tephraPtr (i : Nat) (v : Region) : (setRegion s i v).tephraPtr = s.tephraPtr := rfl
@[simp] theorem setRegion_xqPtr (i : Nat) (v : Region) : (setRegion s i v).xqPtr = s.xqPtr := rfl
@[simp] theorem setRegion_xqFree (i : Nat) (v : Region) : (setRegion s i v).xqFree = s.xqFree := rfl
@[simp] theorem setRegion_cpMem (i : Nat) (v : Region) : (setRegion s i v).cpMem = s.cpMem := rfl
@[simp] theorem setRegion_spare (i : Nat) (v : Region) : (setRegion s i v).spare = s.spare := rfl
@[simp] theorem setRegion_l2 (i : Nat) (v : Region) : (setRegion s i v).l2 = s.l2 := rfl
@[simp] theorem setRegion_l2Retired (i : Nat) (v : Region) : (setRegion s i v).l2Retired = s.l2Retired := rfl
@[simp] theorem setRegion_tephra (i : Nat) (v : Region) : (setRegion s i v).tephra = s.tephra := rfl
@[simp] theorem setRegion_tephraRetired (i : Nat) (v : Region) : (setRegion s i v).tephraRetired = s.tephraRetired := rfl
@[simp] theorem setRegion_items (i : Nat) (v : Region) : (setRegion s i v).items = s.items := rfl
@[simp] theorem setRegion_posts (i : Nat) (v : Region) : (setRegion s i v).posts = s.posts := rfl
@[simp] theorem setRegion_exports (i : Nat) (v : Region) : (setRegion s i v).exports = s.exports := rfl
@[simp] theorem setRegion_arrivals (i : Nat) (v : Region) : (setRegion s i v).arrivals = s.arrivals := rfl
@[simp] theorem setRegion_jobs (i : Nat) (v : Region) : (setRegion s i v).jobs = s.jobs := rfl
@[simp] theorem setRegion_reqs (i : Nat) (v : Region) : (setRegion s i v).reqs = s.reqs := rfl
@[simp] theorem setRegion_mem (i : Nat) (v : Region) : (setRegion s i v).mem = s.mem := rfl
@[simp] theorem setRegion_host (i : Nat) (v : Region) : (setRegion s i v).host = s.host := rfl
@[simp] theorem setRegion_light (i : Nat) (v : Region) : (setRegion s i v).light = s.light := rfl
@[simp] theorem setRegion_imem (i : Nat) (v : Region) : (setRegion s i v).imem = s.imem := rfl
@[simp] theorem setRegion_hmem (i : Nat) (v : Region) : (setRegion s i v).hmem = s.hmem := rfl
@[simp] theorem setRegion_flt (i : Nat) (v : Region) : (setRegion s i v).flt = s.flt := rfl
@[simp] theorem setRegion_dump (i : Nat) (v : Region) : (setRegion s i v).dump = s.dump := rfl
@[simp] theorem setRegion_ladder (i : Nat) (v : Region) : (setRegion s i v).ladder = s.ladder := rfl
@[simp] theorem setRegion_life (i : Nat) (v : Region) : (setRegion s i v).life = s.life := rfl
@[simp] theorem setRegion_pwrcyc (i : Nat) (v : Region) : (setRegion s i v).pwrcyc = s.pwrcyc := rfl
@[simp] theorem setRegion_nid (i : Nat) (v : Region) : (setRegion s i v).nid = s.nid := rfl
@[simp] theorem setRegion_draws (i : Nat) (v : Region) : (setRegion s i v).draws = s.draws := rfl

/-! ### setImage -/

@[simp] theorem setImage_pending (i : Nat) (v : Image) : (setImage s i v).pending = s.pending := rfl
@[simp] theorem setImage_cp (i : Nat) (v : Image) : (setImage s i v).cp = s.cp := rfl
@[simp] theorem setImage_tb (i : Nat) (v : Image) : (setImage s i v).tb = s.tb := rfl
@[simp] theorem setImage_clk (i : Nat) (v : Image) : (setImage s i v).clk = s.clk := rfl
@[simp] theorem setImage_straps (i : Nat) (v : Image) : (setImage s i v).straps = s.straps := rfl
@[simp] theorem setImage_mbs (i : Nat) (v : Image) : (setImage s i v).mbs = s.mbs := rfl
@[simp] theorem setImage_mbOrder (i : Nat) (v : Image) : (setImage s i v).mbOrder = s.mbOrder := rfl
@[simp] theorem setImage_parts (i : Nat) (v : Image) : (setImage s i v).parts = s.parts := rfl
@[simp] theorem setImage_chans (i : Nat) (v : Image) : (setImage s i v).chans = s.chans := rfl
@[simp] theorem setImage_regions (i : Nat) (v : Image) : (setImage s i v).regions = s.regions := rfl
@[simp] theorem setImage_tables (i : Nat) (v : Image) : (setImage s i v).tables = s.tables := rfl
@[simp] theorem setImage_gsets (i : Nat) (v : Image) : (setImage s i v).gsets = s.gsets := rfl
@[simp] theorem setImage_slots (i : Nat) (v : Image) : (setImage s i v).slots = s.slots := rfl
@[simp] theorem setImage_sinter (i : Nat) (v : Image) : (setImage s i v).sinter = s.sinter := rfl
@[simp] theorem setImage_ctxs (i : Nat) (v : Image) : (setImage s i v).ctxs = s.ctxs := rfl
@[simp] theorem setImage_cals (i : Nat) (v : Image) : (setImage s i v).cals = s.cals := rfl
@[simp] theorem setImage_sems (i : Nat) (v : Image) : (setImage s i v).sems = s.sems := rfl
@[simp] theorem setImage_vs (i : Nat) (v : Image) : (setImage s i v).vs = s.vs := rfl
@[simp] theorem setImage_vsPtr (i : Nat) (v : Image) : (setImage s i v).vsPtr = s.vsPtr := rfl
@[simp] theorem setImage_tephraPtr (i : Nat) (v : Image) : (setImage s i v).tephraPtr = s.tephraPtr := rfl
@[simp] theorem setImage_xqPtr (i : Nat) (v : Image) : (setImage s i v).xqPtr = s.xqPtr := rfl
@[simp] theorem setImage_xqFree (i : Nat) (v : Image) : (setImage s i v).xqFree = s.xqFree := rfl
@[simp] theorem setImage_cpMem (i : Nat) (v : Image) : (setImage s i v).cpMem = s.cpMem := rfl
@[simp] theorem setImage_spare (i : Nat) (v : Image) : (setImage s i v).spare = s.spare := rfl
@[simp] theorem setImage_l2 (i : Nat) (v : Image) : (setImage s i v).l2 = s.l2 := rfl
@[simp] theorem setImage_l2Retired (i : Nat) (v : Image) : (setImage s i v).l2Retired = s.l2Retired := rfl
@[simp] theorem setImage_tephra (i : Nat) (v : Image) : (setImage s i v).tephra = s.tephra := rfl
@[simp] theorem setImage_tephraRetired (i : Nat) (v : Image) : (setImage s i v).tephraRetired = s.tephraRetired := rfl
@[simp] theorem setImage_items (i : Nat) (v : Image) : (setImage s i v).items = s.items := rfl
@[simp] theorem setImage_posts (i : Nat) (v : Image) : (setImage s i v).posts = s.posts := rfl
@[simp] theorem setImage_exports (i : Nat) (v : Image) : (setImage s i v).exports = s.exports := rfl
@[simp] theorem setImage_arrivals (i : Nat) (v : Image) : (setImage s i v).arrivals = s.arrivals := rfl
@[simp] theorem setImage_jobs (i : Nat) (v : Image) : (setImage s i v).jobs = s.jobs := rfl
@[simp] theorem setImage_reqs (i : Nat) (v : Image) : (setImage s i v).reqs = s.reqs := rfl
@[simp] theorem setImage_mem (i : Nat) (v : Image) : (setImage s i v).mem = s.mem := rfl
@[simp] theorem setImage_host (i : Nat) (v : Image) : (setImage s i v).host = s.host := rfl
@[simp] theorem setImage_light (i : Nat) (v : Image) : (setImage s i v).light = s.light := rfl
@[simp] theorem setImage_imem (i : Nat) (v : Image) : (setImage s i v).imem = s.imem := rfl
@[simp] theorem setImage_hmem (i : Nat) (v : Image) : (setImage s i v).hmem = s.hmem := rfl
@[simp] theorem setImage_flt (i : Nat) (v : Image) : (setImage s i v).flt = s.flt := rfl
@[simp] theorem setImage_dump (i : Nat) (v : Image) : (setImage s i v).dump = s.dump := rfl
@[simp] theorem setImage_ladder (i : Nat) (v : Image) : (setImage s i v).ladder = s.ladder := rfl
@[simp] theorem setImage_life (i : Nat) (v : Image) : (setImage s i v).life = s.life := rfl
@[simp] theorem setImage_pwrcyc (i : Nat) (v : Image) : (setImage s i v).pwrcyc = s.pwrcyc := rfl
@[simp] theorem setImage_nid (i : Nat) (v : Image) : (setImage s i v).nid = s.nid := rfl
@[simp] theorem setImage_draws (i : Nat) (v : Image) : (setImage s i v).draws = s.draws := rfl

/-! ### setTable -/

@[simp] theorem setTable_pending (i : Nat) (v : Table) : (setTable s i v).pending = s.pending := rfl
@[simp] theorem setTable_cp (i : Nat) (v : Table) : (setTable s i v).cp = s.cp := rfl
@[simp] theorem setTable_tb (i : Nat) (v : Table) : (setTable s i v).tb = s.tb := rfl
@[simp] theorem setTable_clk (i : Nat) (v : Table) : (setTable s i v).clk = s.clk := rfl
@[simp] theorem setTable_straps (i : Nat) (v : Table) : (setTable s i v).straps = s.straps := rfl
@[simp] theorem setTable_mbs (i : Nat) (v : Table) : (setTable s i v).mbs = s.mbs := rfl
@[simp] theorem setTable_mbOrder (i : Nat) (v : Table) : (setTable s i v).mbOrder = s.mbOrder := rfl
@[simp] theorem setTable_parts (i : Nat) (v : Table) : (setTable s i v).parts = s.parts := rfl
@[simp] theorem setTable_chans (i : Nat) (v : Table) : (setTable s i v).chans = s.chans := rfl
@[simp] theorem setTable_regions (i : Nat) (v : Table) : (setTable s i v).regions = s.regions := rfl
@[simp] theorem setTable_images (i : Nat) (v : Table) : (setTable s i v).images = s.images := rfl
@[simp] theorem setTable_gsets (i : Nat) (v : Table) : (setTable s i v).gsets = s.gsets := rfl
@[simp] theorem setTable_slots (i : Nat) (v : Table) : (setTable s i v).slots = s.slots := rfl
@[simp] theorem setTable_sinter (i : Nat) (v : Table) : (setTable s i v).sinter = s.sinter := rfl
@[simp] theorem setTable_ctxs (i : Nat) (v : Table) : (setTable s i v).ctxs = s.ctxs := rfl
@[simp] theorem setTable_cals (i : Nat) (v : Table) : (setTable s i v).cals = s.cals := rfl
@[simp] theorem setTable_sems (i : Nat) (v : Table) : (setTable s i v).sems = s.sems := rfl
@[simp] theorem setTable_vs (i : Nat) (v : Table) : (setTable s i v).vs = s.vs := rfl
@[simp] theorem setTable_vsPtr (i : Nat) (v : Table) : (setTable s i v).vsPtr = s.vsPtr := rfl
@[simp] theorem setTable_tephraPtr (i : Nat) (v : Table) : (setTable s i v).tephraPtr = s.tephraPtr := rfl
@[simp] theorem setTable_xqPtr (i : Nat) (v : Table) : (setTable s i v).xqPtr = s.xqPtr := rfl
@[simp] theorem setTable_xqFree (i : Nat) (v : Table) : (setTable s i v).xqFree = s.xqFree := rfl
@[simp] theorem setTable_cpMem (i : Nat) (v : Table) : (setTable s i v).cpMem = s.cpMem := rfl
@[simp] theorem setTable_spare (i : Nat) (v : Table) : (setTable s i v).spare = s.spare := rfl
@[simp] theorem setTable_l2 (i : Nat) (v : Table) : (setTable s i v).l2 = s.l2 := rfl
@[simp] theorem setTable_l2Retired (i : Nat) (v : Table) : (setTable s i v).l2Retired = s.l2Retired := rfl
@[simp] theorem setTable_tephra (i : Nat) (v : Table) : (setTable s i v).tephra = s.tephra := rfl
@[simp] theorem setTable_tephraRetired (i : Nat) (v : Table) : (setTable s i v).tephraRetired = s.tephraRetired := rfl
@[simp] theorem setTable_items (i : Nat) (v : Table) : (setTable s i v).items = s.items := rfl
@[simp] theorem setTable_posts (i : Nat) (v : Table) : (setTable s i v).posts = s.posts := rfl
@[simp] theorem setTable_exports (i : Nat) (v : Table) : (setTable s i v).exports = s.exports := rfl
@[simp] theorem setTable_arrivals (i : Nat) (v : Table) : (setTable s i v).arrivals = s.arrivals := rfl
@[simp] theorem setTable_jobs (i : Nat) (v : Table) : (setTable s i v).jobs = s.jobs := rfl
@[simp] theorem setTable_reqs (i : Nat) (v : Table) : (setTable s i v).reqs = s.reqs := rfl
@[simp] theorem setTable_mem (i : Nat) (v : Table) : (setTable s i v).mem = s.mem := rfl
@[simp] theorem setTable_host (i : Nat) (v : Table) : (setTable s i v).host = s.host := rfl
@[simp] theorem setTable_light (i : Nat) (v : Table) : (setTable s i v).light = s.light := rfl
@[simp] theorem setTable_imem (i : Nat) (v : Table) : (setTable s i v).imem = s.imem := rfl
@[simp] theorem setTable_hmem (i : Nat) (v : Table) : (setTable s i v).hmem = s.hmem := rfl
@[simp] theorem setTable_flt (i : Nat) (v : Table) : (setTable s i v).flt = s.flt := rfl
@[simp] theorem setTable_dump (i : Nat) (v : Table) : (setTable s i v).dump = s.dump := rfl
@[simp] theorem setTable_ladder (i : Nat) (v : Table) : (setTable s i v).ladder = s.ladder := rfl
@[simp] theorem setTable_life (i : Nat) (v : Table) : (setTable s i v).life = s.life := rfl
@[simp] theorem setTable_pwrcyc (i : Nat) (v : Table) : (setTable s i v).pwrcyc = s.pwrcyc := rfl
@[simp] theorem setTable_nid (i : Nat) (v : Table) : (setTable s i v).nid = s.nid := rfl
@[simp] theorem setTable_draws (i : Nat) (v : Table) : (setTable s i v).draws = s.draws := rfl

/-! ### setGset -/

@[simp] theorem setGset_pending (i : Nat) (v : GSet) : (setGset s i v).pending = s.pending := rfl
@[simp] theorem setGset_cp (i : Nat) (v : GSet) : (setGset s i v).cp = s.cp := rfl
@[simp] theorem setGset_tb (i : Nat) (v : GSet) : (setGset s i v).tb = s.tb := rfl
@[simp] theorem setGset_clk (i : Nat) (v : GSet) : (setGset s i v).clk = s.clk := rfl
@[simp] theorem setGset_straps (i : Nat) (v : GSet) : (setGset s i v).straps = s.straps := rfl
@[simp] theorem setGset_mbs (i : Nat) (v : GSet) : (setGset s i v).mbs = s.mbs := rfl
@[simp] theorem setGset_mbOrder (i : Nat) (v : GSet) : (setGset s i v).mbOrder = s.mbOrder := rfl
@[simp] theorem setGset_parts (i : Nat) (v : GSet) : (setGset s i v).parts = s.parts := rfl
@[simp] theorem setGset_chans (i : Nat) (v : GSet) : (setGset s i v).chans = s.chans := rfl
@[simp] theorem setGset_regions (i : Nat) (v : GSet) : (setGset s i v).regions = s.regions := rfl
@[simp] theorem setGset_images (i : Nat) (v : GSet) : (setGset s i v).images = s.images := rfl
@[simp] theorem setGset_tables (i : Nat) (v : GSet) : (setGset s i v).tables = s.tables := rfl
@[simp] theorem setGset_slots (i : Nat) (v : GSet) : (setGset s i v).slots = s.slots := rfl
@[simp] theorem setGset_sinter (i : Nat) (v : GSet) : (setGset s i v).sinter = s.sinter := rfl
@[simp] theorem setGset_ctxs (i : Nat) (v : GSet) : (setGset s i v).ctxs = s.ctxs := rfl
@[simp] theorem setGset_cals (i : Nat) (v : GSet) : (setGset s i v).cals = s.cals := rfl
@[simp] theorem setGset_sems (i : Nat) (v : GSet) : (setGset s i v).sems = s.sems := rfl
@[simp] theorem setGset_vs (i : Nat) (v : GSet) : (setGset s i v).vs = s.vs := rfl
@[simp] theorem setGset_vsPtr (i : Nat) (v : GSet) : (setGset s i v).vsPtr = s.vsPtr := rfl
@[simp] theorem setGset_tephraPtr (i : Nat) (v : GSet) : (setGset s i v).tephraPtr = s.tephraPtr := rfl
@[simp] theorem setGset_xqPtr (i : Nat) (v : GSet) : (setGset s i v).xqPtr = s.xqPtr := rfl
@[simp] theorem setGset_xqFree (i : Nat) (v : GSet) : (setGset s i v).xqFree = s.xqFree := rfl
@[simp] theorem setGset_cpMem (i : Nat) (v : GSet) : (setGset s i v).cpMem = s.cpMem := rfl
@[simp] theorem setGset_spare (i : Nat) (v : GSet) : (setGset s i v).spare = s.spare := rfl
@[simp] theorem setGset_l2 (i : Nat) (v : GSet) : (setGset s i v).l2 = s.l2 := rfl
@[simp] theorem setGset_l2Retired (i : Nat) (v : GSet) : (setGset s i v).l2Retired = s.l2Retired := rfl
@[simp] theorem setGset_tephra (i : Nat) (v : GSet) : (setGset s i v).tephra = s.tephra := rfl
@[simp] theorem setGset_tephraRetired (i : Nat) (v : GSet) : (setGset s i v).tephraRetired = s.tephraRetired := rfl
@[simp] theorem setGset_items (i : Nat) (v : GSet) : (setGset s i v).items = s.items := rfl
@[simp] theorem setGset_posts (i : Nat) (v : GSet) : (setGset s i v).posts = s.posts := rfl
@[simp] theorem setGset_exports (i : Nat) (v : GSet) : (setGset s i v).exports = s.exports := rfl
@[simp] theorem setGset_arrivals (i : Nat) (v : GSet) : (setGset s i v).arrivals = s.arrivals := rfl
@[simp] theorem setGset_jobs (i : Nat) (v : GSet) : (setGset s i v).jobs = s.jobs := rfl
@[simp] theorem setGset_reqs (i : Nat) (v : GSet) : (setGset s i v).reqs = s.reqs := rfl
@[simp] theorem setGset_mem (i : Nat) (v : GSet) : (setGset s i v).mem = s.mem := rfl
@[simp] theorem setGset_host (i : Nat) (v : GSet) : (setGset s i v).host = s.host := rfl
@[simp] theorem setGset_light (i : Nat) (v : GSet) : (setGset s i v).light = s.light := rfl
@[simp] theorem setGset_imem (i : Nat) (v : GSet) : (setGset s i v).imem = s.imem := rfl
@[simp] theorem setGset_hmem (i : Nat) (v : GSet) : (setGset s i v).hmem = s.hmem := rfl
@[simp] theorem setGset_flt (i : Nat) (v : GSet) : (setGset s i v).flt = s.flt := rfl
@[simp] theorem setGset_dump (i : Nat) (v : GSet) : (setGset s i v).dump = s.dump := rfl
@[simp] theorem setGset_ladder (i : Nat) (v : GSet) : (setGset s i v).ladder = s.ladder := rfl
@[simp] theorem setGset_life (i : Nat) (v : GSet) : (setGset s i v).life = s.life := rfl
@[simp] theorem setGset_pwrcyc (i : Nat) (v : GSet) : (setGset s i v).pwrcyc = s.pwrcyc := rfl
@[simp] theorem setGset_nid (i : Nat) (v : GSet) : (setGset s i v).nid = s.nid := rfl
@[simp] theorem setGset_draws (i : Nat) (v : GSet) : (setGset s i v).draws = s.draws := rfl

/-! ### setSlot -/

@[simp] theorem setSlot_pending (i : Nat) (v : Slot) : (setSlot s i v).pending = s.pending := rfl
@[simp] theorem setSlot_cp (i : Nat) (v : Slot) : (setSlot s i v).cp = s.cp := rfl
@[simp] theorem setSlot_tb (i : Nat) (v : Slot) : (setSlot s i v).tb = s.tb := rfl
@[simp] theorem setSlot_clk (i : Nat) (v : Slot) : (setSlot s i v).clk = s.clk := rfl
@[simp] theorem setSlot_straps (i : Nat) (v : Slot) : (setSlot s i v).straps = s.straps := rfl
@[simp] theorem setSlot_mbs (i : Nat) (v : Slot) : (setSlot s i v).mbs = s.mbs := rfl
@[simp] theorem setSlot_mbOrder (i : Nat) (v : Slot) : (setSlot s i v).mbOrder = s.mbOrder := rfl
@[simp] theorem setSlot_parts (i : Nat) (v : Slot) : (setSlot s i v).parts = s.parts := rfl
@[simp] theorem setSlot_chans (i : Nat) (v : Slot) : (setSlot s i v).chans = s.chans := rfl
@[simp] theorem setSlot_regions (i : Nat) (v : Slot) : (setSlot s i v).regions = s.regions := rfl
@[simp] theorem setSlot_images (i : Nat) (v : Slot) : (setSlot s i v).images = s.images := rfl
@[simp] theorem setSlot_tables (i : Nat) (v : Slot) : (setSlot s i v).tables = s.tables := rfl
@[simp] theorem setSlot_gsets (i : Nat) (v : Slot) : (setSlot s i v).gsets = s.gsets := rfl
@[simp] theorem setSlot_sinter (i : Nat) (v : Slot) : (setSlot s i v).sinter = s.sinter := rfl
@[simp] theorem setSlot_ctxs (i : Nat) (v : Slot) : (setSlot s i v).ctxs = s.ctxs := rfl
@[simp] theorem setSlot_cals (i : Nat) (v : Slot) : (setSlot s i v).cals = s.cals := rfl
@[simp] theorem setSlot_sems (i : Nat) (v : Slot) : (setSlot s i v).sems = s.sems := rfl
@[simp] theorem setSlot_vs (i : Nat) (v : Slot) : (setSlot s i v).vs = s.vs := rfl
@[simp] theorem setSlot_vsPtr (i : Nat) (v : Slot) : (setSlot s i v).vsPtr = s.vsPtr := rfl
@[simp] theorem setSlot_tephraPtr (i : Nat) (v : Slot) : (setSlot s i v).tephraPtr = s.tephraPtr := rfl
@[simp] theorem setSlot_xqPtr (i : Nat) (v : Slot) : (setSlot s i v).xqPtr = s.xqPtr := rfl
@[simp] theorem setSlot_xqFree (i : Nat) (v : Slot) : (setSlot s i v).xqFree = s.xqFree := rfl
@[simp] theorem setSlot_cpMem (i : Nat) (v : Slot) : (setSlot s i v).cpMem = s.cpMem := rfl
@[simp] theorem setSlot_spare (i : Nat) (v : Slot) : (setSlot s i v).spare = s.spare := rfl
@[simp] theorem setSlot_l2 (i : Nat) (v : Slot) : (setSlot s i v).l2 = s.l2 := rfl
@[simp] theorem setSlot_l2Retired (i : Nat) (v : Slot) : (setSlot s i v).l2Retired = s.l2Retired := rfl
@[simp] theorem setSlot_tephra (i : Nat) (v : Slot) : (setSlot s i v).tephra = s.tephra := rfl
@[simp] theorem setSlot_tephraRetired (i : Nat) (v : Slot) : (setSlot s i v).tephraRetired = s.tephraRetired := rfl
@[simp] theorem setSlot_items (i : Nat) (v : Slot) : (setSlot s i v).items = s.items := rfl
@[simp] theorem setSlot_posts (i : Nat) (v : Slot) : (setSlot s i v).posts = s.posts := rfl
@[simp] theorem setSlot_exports (i : Nat) (v : Slot) : (setSlot s i v).exports = s.exports := rfl
@[simp] theorem setSlot_arrivals (i : Nat) (v : Slot) : (setSlot s i v).arrivals = s.arrivals := rfl
@[simp] theorem setSlot_jobs (i : Nat) (v : Slot) : (setSlot s i v).jobs = s.jobs := rfl
@[simp] theorem setSlot_reqs (i : Nat) (v : Slot) : (setSlot s i v).reqs = s.reqs := rfl
@[simp] theorem setSlot_mem (i : Nat) (v : Slot) : (setSlot s i v).mem = s.mem := rfl
@[simp] theorem setSlot_host (i : Nat) (v : Slot) : (setSlot s i v).host = s.host := rfl
@[simp] theorem setSlot_light (i : Nat) (v : Slot) : (setSlot s i v).light = s.light := rfl
@[simp] theorem setSlot_imem (i : Nat) (v : Slot) : (setSlot s i v).imem = s.imem := rfl
@[simp] theorem setSlot_hmem (i : Nat) (v : Slot) : (setSlot s i v).hmem = s.hmem := rfl
@[simp] theorem setSlot_flt (i : Nat) (v : Slot) : (setSlot s i v).flt = s.flt := rfl
@[simp] theorem setSlot_dump (i : Nat) (v : Slot) : (setSlot s i v).dump = s.dump := rfl
@[simp] theorem setSlot_ladder (i : Nat) (v : Slot) : (setSlot s i v).ladder = s.ladder := rfl
@[simp] theorem setSlot_life (i : Nat) (v : Slot) : (setSlot s i v).life = s.life := rfl
@[simp] theorem setSlot_pwrcyc (i : Nat) (v : Slot) : (setSlot s i v).pwrcyc = s.pwrcyc := rfl
@[simp] theorem setSlot_nid (i : Nat) (v : Slot) : (setSlot s i v).nid = s.nid := rfl
@[simp] theorem setSlot_draws (i : Nat) (v : Slot) : (setSlot s i v).draws = s.draws := rfl

/-! ### setSem -/

@[simp] theorem setSem_pending (k : Nat) (v : Sem) : (setSem s k v).pending = s.pending := rfl
@[simp] theorem setSem_cp (k : Nat) (v : Sem) : (setSem s k v).cp = s.cp := rfl
@[simp] theorem setSem_tb (k : Nat) (v : Sem) : (setSem s k v).tb = s.tb := rfl
@[simp] theorem setSem_clk (k : Nat) (v : Sem) : (setSem s k v).clk = s.clk := rfl
@[simp] theorem setSem_straps (k : Nat) (v : Sem) : (setSem s k v).straps = s.straps := rfl
@[simp] theorem setSem_mbs (k : Nat) (v : Sem) : (setSem s k v).mbs = s.mbs := rfl
@[simp] theorem setSem_mbOrder (k : Nat) (v : Sem) : (setSem s k v).mbOrder = s.mbOrder := rfl
@[simp] theorem setSem_parts (k : Nat) (v : Sem) : (setSem s k v).parts = s.parts := rfl
@[simp] theorem setSem_chans (k : Nat) (v : Sem) : (setSem s k v).chans = s.chans := rfl
@[simp] theorem setSem_regions (k : Nat) (v : Sem) : (setSem s k v).regions = s.regions := rfl
@[simp] theorem setSem_images (k : Nat) (v : Sem) : (setSem s k v).images = s.images := rfl
@[simp] theorem setSem_tables (k : Nat) (v : Sem) : (setSem s k v).tables = s.tables := rfl
@[simp] theorem setSem_gsets (k : Nat) (v : Sem) : (setSem s k v).gsets = s.gsets := rfl
@[simp] theorem setSem_slots (k : Nat) (v : Sem) : (setSem s k v).slots = s.slots := rfl
@[simp] theorem setSem_sinter (k : Nat) (v : Sem) : (setSem s k v).sinter = s.sinter := rfl
@[simp] theorem setSem_ctxs (k : Nat) (v : Sem) : (setSem s k v).ctxs = s.ctxs := rfl
@[simp] theorem setSem_cals (k : Nat) (v : Sem) : (setSem s k v).cals = s.cals := rfl
@[simp] theorem setSem_vs (k : Nat) (v : Sem) : (setSem s k v).vs = s.vs := rfl
@[simp] theorem setSem_vsPtr (k : Nat) (v : Sem) : (setSem s k v).vsPtr = s.vsPtr := rfl
@[simp] theorem setSem_tephraPtr (k : Nat) (v : Sem) : (setSem s k v).tephraPtr = s.tephraPtr := rfl
@[simp] theorem setSem_xqPtr (k : Nat) (v : Sem) : (setSem s k v).xqPtr = s.xqPtr := rfl
@[simp] theorem setSem_xqFree (k : Nat) (v : Sem) : (setSem s k v).xqFree = s.xqFree := rfl
@[simp] theorem setSem_cpMem (k : Nat) (v : Sem) : (setSem s k v).cpMem = s.cpMem := rfl
@[simp] theorem setSem_spare (k : Nat) (v : Sem) : (setSem s k v).spare = s.spare := rfl
@[simp] theorem setSem_l2 (k : Nat) (v : Sem) : (setSem s k v).l2 = s.l2 := rfl
@[simp] theorem setSem_l2Retired (k : Nat) (v : Sem) : (setSem s k v).l2Retired = s.l2Retired := rfl
@[simp] theorem setSem_tephra (k : Nat) (v : Sem) : (setSem s k v).tephra = s.tephra := rfl
@[simp] theorem setSem_tephraRetired (k : Nat) (v : Sem) : (setSem s k v).tephraRetired = s.tephraRetired := rfl
@[simp] theorem setSem_items (k : Nat) (v : Sem) : (setSem s k v).items = s.items := rfl
@[simp] theorem setSem_posts (k : Nat) (v : Sem) : (setSem s k v).posts = s.posts := rfl
@[simp] theorem setSem_exports (k : Nat) (v : Sem) : (setSem s k v).exports = s.exports := rfl
@[simp] theorem setSem_arrivals (k : Nat) (v : Sem) : (setSem s k v).arrivals = s.arrivals := rfl
@[simp] theorem setSem_jobs (k : Nat) (v : Sem) : (setSem s k v).jobs = s.jobs := rfl
@[simp] theorem setSem_reqs (k : Nat) (v : Sem) : (setSem s k v).reqs = s.reqs := rfl
@[simp] theorem setSem_mem (k : Nat) (v : Sem) : (setSem s k v).mem = s.mem := rfl
@[simp] theorem setSem_host (k : Nat) (v : Sem) : (setSem s k v).host = s.host := rfl
@[simp] theorem setSem_light (k : Nat) (v : Sem) : (setSem s k v).light = s.light := rfl
@[simp] theorem setSem_imem (k : Nat) (v : Sem) : (setSem s k v).imem = s.imem := rfl
@[simp] theorem setSem_hmem (k : Nat) (v : Sem) : (setSem s k v).hmem = s.hmem := rfl
@[simp] theorem setSem_flt (k : Nat) (v : Sem) : (setSem s k v).flt = s.flt := rfl
@[simp] theorem setSem_dump (k : Nat) (v : Sem) : (setSem s k v).dump = s.dump := rfl
@[simp] theorem setSem_ladder (k : Nat) (v : Sem) : (setSem s k v).ladder = s.ladder := rfl
@[simp] theorem setSem_life (k : Nat) (v : Sem) : (setSem s k v).life = s.life := rfl
@[simp] theorem setSem_pwrcyc (k : Nat) (v : Sem) : (setSem s k v).pwrcyc = s.pwrcyc := rfl
@[simp] theorem setSem_nid (k : Nat) (v : Sem) : (setSem s k v).nid = s.nid := rfl
@[simp] theorem setSem_draws (k : Nat) (v : Sem) : (setSem s k v).draws = s.draws := rfl

/-! ### setPart -/

@[simp] theorem setPart_pending (p : Nat) (v : Part) : (setPart s p v).pending = s.pending := rfl
@[simp] theorem setPart_cp (p : Nat) (v : Part) : (setPart s p v).cp = s.cp := rfl
@[simp] theorem setPart_tb (p : Nat) (v : Part) : (setPart s p v).tb = s.tb := rfl
@[simp] theorem setPart_clk (p : Nat) (v : Part) : (setPart s p v).clk = s.clk := rfl
@[simp] theorem setPart_straps (p : Nat) (v : Part) : (setPart s p v).straps = s.straps := rfl
@[simp] theorem setPart_mbs (p : Nat) (v : Part) : (setPart s p v).mbs = s.mbs := rfl
@[simp] theorem setPart_mbOrder (p : Nat) (v : Part) : (setPart s p v).mbOrder = s.mbOrder := rfl
@[simp] theorem setPart_chans (p : Nat) (v : Part) : (setPart s p v).chans = s.chans := rfl
@[simp] theorem setPart_regions (p : Nat) (v : Part) : (setPart s p v).regions = s.regions := rfl
@[simp] theorem setPart_images (p : Nat) (v : Part) : (setPart s p v).images = s.images := rfl
@[simp] theorem setPart_tables (p : Nat) (v : Part) : (setPart s p v).tables = s.tables := rfl
@[simp] theorem setPart_gsets (p : Nat) (v : Part) : (setPart s p v).gsets = s.gsets := rfl
@[simp] theorem setPart_slots (p : Nat) (v : Part) : (setPart s p v).slots = s.slots := rfl
@[simp] theorem setPart_sinter (p : Nat) (v : Part) : (setPart s p v).sinter = s.sinter := rfl
@[simp] theorem setPart_ctxs (p : Nat) (v : Part) : (setPart s p v).ctxs = s.ctxs := rfl
@[simp] theorem setPart_cals (p : Nat) (v : Part) : (setPart s p v).cals = s.cals := rfl
@[simp] theorem setPart_sems (p : Nat) (v : Part) : (setPart s p v).sems = s.sems := rfl
@[simp] theorem setPart_vs (p : Nat) (v : Part) : (setPart s p v).vs = s.vs := rfl
@[simp] theorem setPart_vsPtr (p : Nat) (v : Part) : (setPart s p v).vsPtr = s.vsPtr := rfl
@[simp] theorem setPart_tephraPtr (p : Nat) (v : Part) : (setPart s p v).tephraPtr = s.tephraPtr := rfl
@[simp] theorem setPart_xqPtr (p : Nat) (v : Part) : (setPart s p v).xqPtr = s.xqPtr := rfl
@[simp] theorem setPart_xqFree (p : Nat) (v : Part) : (setPart s p v).xqFree = s.xqFree := rfl
@[simp] theorem setPart_cpMem (p : Nat) (v : Part) : (setPart s p v).cpMem = s.cpMem := rfl
@[simp] theorem setPart_spare (p : Nat) (v : Part) : (setPart s p v).spare = s.spare := rfl
@[simp] theorem setPart_l2 (p : Nat) (v : Part) : (setPart s p v).l2 = s.l2 := rfl
@[simp] theorem setPart_l2Retired (p : Nat) (v : Part) : (setPart s p v).l2Retired = s.l2Retired := rfl
@[simp] theorem setPart_tephra (p : Nat) (v : Part) : (setPart s p v).tephra = s.tephra := rfl
@[simp] theorem setPart_tephraRetired (p : Nat) (v : Part) : (setPart s p v).tephraRetired = s.tephraRetired := rfl
@[simp] theorem setPart_items (p : Nat) (v : Part) : (setPart s p v).items = s.items := rfl
@[simp] theorem setPart_posts (p : Nat) (v : Part) : (setPart s p v).posts = s.posts := rfl
@[simp] theorem setPart_exports (p : Nat) (v : Part) : (setPart s p v).exports = s.exports := rfl
@[simp] theorem setPart_arrivals (p : Nat) (v : Part) : (setPart s p v).arrivals = s.arrivals := rfl
@[simp] theorem setPart_jobs (p : Nat) (v : Part) : (setPart s p v).jobs = s.jobs := rfl
@[simp] theorem setPart_reqs (p : Nat) (v : Part) : (setPart s p v).reqs = s.reqs := rfl
@[simp] theorem setPart_mem (p : Nat) (v : Part) : (setPart s p v).mem = s.mem := rfl
@[simp] theorem setPart_host (p : Nat) (v : Part) : (setPart s p v).host = s.host := rfl
@[simp] theorem setPart_light (p : Nat) (v : Part) : (setPart s p v).light = s.light := rfl
@[simp] theorem setPart_imem (p : Nat) (v : Part) : (setPart s p v).imem = s.imem := rfl
@[simp] theorem setPart_hmem (p : Nat) (v : Part) : (setPart s p v).hmem = s.hmem := rfl
@[simp] theorem setPart_flt (p : Nat) (v : Part) : (setPart s p v).flt = s.flt := rfl
@[simp] theorem setPart_dump (p : Nat) (v : Part) : (setPart s p v).dump = s.dump := rfl
@[simp] theorem setPart_ladder (p : Nat) (v : Part) : (setPart s p v).ladder = s.ladder := rfl
@[simp] theorem setPart_life (p : Nat) (v : Part) : (setPart s p v).life = s.life := rfl
@[simp] theorem setPart_pwrcyc (p : Nat) (v : Part) : (setPart s p v).pwrcyc = s.pwrcyc := rfl
@[simp] theorem setPart_nid (p : Nat) (v : Part) : (setPart s p v).nid = s.nid := rfl
@[simp] theorem setPart_draws (p : Nat) (v : Part) : (setPart s p v).draws = s.draws := rfl

/-! ### setMb -/

@[simp] theorem setMb_pending (m : Nat) (v : Mailbox) : (setMb s m v).pending = s.pending := rfl
@[simp] theorem setMb_cp (m : Nat) (v : Mailbox) : (setMb s m v).cp = s.cp := rfl
@[simp] theorem setMb_tb (m : Nat) (v : Mailbox) : (setMb s m v).tb = s.tb := rfl
@[simp] theorem setMb_clk (m : Nat) (v : Mailbox) : (setMb s m v).clk = s.clk := rfl
@[simp] theorem setMb_straps (m : Nat) (v : Mailbox) : (setMb s m v).straps = s.straps := rfl
@[simp] theorem setMb_mbOrder (m : Nat) (v : Mailbox) : (setMb s m v).mbOrder = s.mbOrder := rfl
@[simp] theorem setMb_parts (m : Nat) (v : Mailbox) : (setMb s m v).parts = s.parts := rfl
@[simp] theorem setMb_chans (m : Nat) (v : Mailbox) : (setMb s m v).chans = s.chans := rfl
@[simp] theorem setMb_regions (m : Nat) (v : Mailbox) : (setMb s m v).regions = s.regions := rfl
@[simp] theorem setMb_images (m : Nat) (v : Mailbox) : (setMb s m v).images = s.images := rfl
@[simp] theorem setMb_tables (m : Nat) (v : Mailbox) : (setMb s m v).tables = s.tables := rfl
@[simp] theorem setMb_gsets (m : Nat) (v : Mailbox) : (setMb s m v).gsets = s.gsets := rfl
@[simp] theorem setMb_slots (m : Nat) (v : Mailbox) : (setMb s m v).slots = s.slots := rfl
@[simp] theorem setMb_sinter (m : Nat) (v : Mailbox) : (setMb s m v).sinter = s.sinter := rfl
@[simp] theorem setMb_ctxs (m : Nat) (v : Mailbox) : (setMb s m v).ctxs = s.ctxs := rfl
@[simp] theorem setMb_cals (m : Nat) (v : Mailbox) : (setMb s m v).cals = s.cals := rfl
@[simp] theorem setMb_sems (m : Nat) (v : Mailbox) : (setMb s m v).sems = s.sems := rfl
@[simp] theorem setMb_vs (m : Nat) (v : Mailbox) : (setMb s m v).vs = s.vs := rfl
@[simp] theorem setMb_vsPtr (m : Nat) (v : Mailbox) : (setMb s m v).vsPtr = s.vsPtr := rfl
@[simp] theorem setMb_tephraPtr (m : Nat) (v : Mailbox) : (setMb s m v).tephraPtr = s.tephraPtr := rfl
@[simp] theorem setMb_xqPtr (m : Nat) (v : Mailbox) : (setMb s m v).xqPtr = s.xqPtr := rfl
@[simp] theorem setMb_xqFree (m : Nat) (v : Mailbox) : (setMb s m v).xqFree = s.xqFree := rfl
@[simp] theorem setMb_cpMem (m : Nat) (v : Mailbox) : (setMb s m v).cpMem = s.cpMem := rfl
@[simp] theorem setMb_spare (m : Nat) (v : Mailbox) : (setMb s m v).spare = s.spare := rfl
@[simp] theorem setMb_l2 (m : Nat) (v : Mailbox) : (setMb s m v).l2 = s.l2 := rfl
@[simp] theorem setMb_l2Retired (m : Nat) (v : Mailbox) : (setMb s m v).l2Retired = s.l2Retired := rfl
@[simp] theorem setMb_tephra (m : Nat) (v : Mailbox) : (setMb s m v).tephra = s.tephra := rfl
@[simp] theorem setMb_tephraRetired (m : Nat) (v : Mailbox) : (setMb s m v).tephraRetired = s.tephraRetired := rfl
@[simp] theorem setMb_items (m : Nat) (v : Mailbox) : (setMb s m v).items = s.items := rfl
@[simp] theorem setMb_posts (m : Nat) (v : Mailbox) : (setMb s m v).posts = s.posts := rfl
@[simp] theorem setMb_exports (m : Nat) (v : Mailbox) : (setMb s m v).exports = s.exports := rfl
@[simp] theorem setMb_arrivals (m : Nat) (v : Mailbox) : (setMb s m v).arrivals = s.arrivals := rfl
@[simp] theorem setMb_jobs (m : Nat) (v : Mailbox) : (setMb s m v).jobs = s.jobs := rfl
@[simp] theorem setMb_reqs (m : Nat) (v : Mailbox) : (setMb s m v).reqs = s.reqs := rfl
@[simp] theorem setMb_mem (m : Nat) (v : Mailbox) : (setMb s m v).mem = s.mem := rfl
@[simp] theorem setMb_host (m : Nat) (v : Mailbox) : (setMb s m v).host = s.host := rfl
@[simp] theorem setMb_light (m : Nat) (v : Mailbox) : (setMb s m v).light = s.light := rfl
@[simp] theorem setMb_imem (m : Nat) (v : Mailbox) : (setMb s m v).imem = s.imem := rfl
@[simp] theorem setMb_hmem (m : Nat) (v : Mailbox) : (setMb s m v).hmem = s.hmem := rfl
@[simp] theorem setMb_flt (m : Nat) (v : Mailbox) : (setMb s m v).flt = s.flt := rfl
@[simp] theorem setMb_dump (m : Nat) (v : Mailbox) : (setMb s m v).dump = s.dump := rfl
@[simp] theorem setMb_ladder (m : Nat) (v : Mailbox) : (setMb s m v).ladder = s.ladder := rfl
@[simp] theorem setMb_life (m : Nat) (v : Mailbox) : (setMb s m v).life = s.life := rfl
@[simp] theorem setMb_pwrcyc (m : Nat) (v : Mailbox) : (setMb s m v).pwrcyc = s.pwrcyc := rfl
@[simp] theorem setMb_nid (m : Nat) (v : Mailbox) : (setMb s m v).nid = s.nid := rfl
@[simp] theorem setMb_draws (m : Nat) (v : Mailbox) : (setMb s m v).draws = s.draws := rfl

/-! ### setMemCh -/

@[simp] theorem setMemCh_pending (n : Nat) (v : MemCh) : (setMemCh s n v).pending = s.pending := rfl
@[simp] theorem setMemCh_cp (n : Nat) (v : MemCh) : (setMemCh s n v).cp = s.cp := rfl
@[simp] theorem setMemCh_tb (n : Nat) (v : MemCh) : (setMemCh s n v).tb = s.tb := rfl
@[simp] theorem setMemCh_clk (n : Nat) (v : MemCh) : (setMemCh s n v).clk = s.clk := rfl
@[simp] theorem setMemCh_straps (n : Nat) (v : MemCh) : (setMemCh s n v).straps = s.straps := rfl
@[simp] theorem setMemCh_mbs (n : Nat) (v : MemCh) : (setMemCh s n v).mbs = s.mbs := rfl
@[simp] theorem setMemCh_mbOrder (n : Nat) (v : MemCh) : (setMemCh s n v).mbOrder = s.mbOrder := rfl
@[simp] theorem setMemCh_parts (n : Nat) (v : MemCh) : (setMemCh s n v).parts = s.parts := rfl
@[simp] theorem setMemCh_chans (n : Nat) (v : MemCh) : (setMemCh s n v).chans = s.chans := rfl
@[simp] theorem setMemCh_regions (n : Nat) (v : MemCh) : (setMemCh s n v).regions = s.regions := rfl
@[simp] theorem setMemCh_images (n : Nat) (v : MemCh) : (setMemCh s n v).images = s.images := rfl
@[simp] theorem setMemCh_tables (n : Nat) (v : MemCh) : (setMemCh s n v).tables = s.tables := rfl
@[simp] theorem setMemCh_gsets (n : Nat) (v : MemCh) : (setMemCh s n v).gsets = s.gsets := rfl
@[simp] theorem setMemCh_slots (n : Nat) (v : MemCh) : (setMemCh s n v).slots = s.slots := rfl
@[simp] theorem setMemCh_sinter (n : Nat) (v : MemCh) : (setMemCh s n v).sinter = s.sinter := rfl
@[simp] theorem setMemCh_ctxs (n : Nat) (v : MemCh) : (setMemCh s n v).ctxs = s.ctxs := rfl
@[simp] theorem setMemCh_cals (n : Nat) (v : MemCh) : (setMemCh s n v).cals = s.cals := rfl
@[simp] theorem setMemCh_sems (n : Nat) (v : MemCh) : (setMemCh s n v).sems = s.sems := rfl
@[simp] theorem setMemCh_vs (n : Nat) (v : MemCh) : (setMemCh s n v).vs = s.vs := rfl
@[simp] theorem setMemCh_vsPtr (n : Nat) (v : MemCh) : (setMemCh s n v).vsPtr = s.vsPtr := rfl
@[simp] theorem setMemCh_tephraPtr (n : Nat) (v : MemCh) : (setMemCh s n v).tephraPtr = s.tephraPtr := rfl
@[simp] theorem setMemCh_xqPtr (n : Nat) (v : MemCh) : (setMemCh s n v).xqPtr = s.xqPtr := rfl
@[simp] theorem setMemCh_xqFree (n : Nat) (v : MemCh) : (setMemCh s n v).xqFree = s.xqFree := rfl
@[simp] theorem setMemCh_cpMem (n : Nat) (v : MemCh) : (setMemCh s n v).cpMem = s.cpMem := rfl
@[simp] theorem setMemCh_spare (n : Nat) (v : MemCh) : (setMemCh s n v).spare = s.spare := rfl
@[simp] theorem setMemCh_l2 (n : Nat) (v : MemCh) : (setMemCh s n v).l2 = s.l2 := rfl
@[simp] theorem setMemCh_l2Retired (n : Nat) (v : MemCh) : (setMemCh s n v).l2Retired = s.l2Retired := rfl
@[simp] theorem setMemCh_tephra (n : Nat) (v : MemCh) : (setMemCh s n v).tephra = s.tephra := rfl
@[simp] theorem setMemCh_tephraRetired (n : Nat) (v : MemCh) : (setMemCh s n v).tephraRetired = s.tephraRetired := rfl
@[simp] theorem setMemCh_items (n : Nat) (v : MemCh) : (setMemCh s n v).items = s.items := rfl
@[simp] theorem setMemCh_posts (n : Nat) (v : MemCh) : (setMemCh s n v).posts = s.posts := rfl
@[simp] theorem setMemCh_exports (n : Nat) (v : MemCh) : (setMemCh s n v).exports = s.exports := rfl
@[simp] theorem setMemCh_arrivals (n : Nat) (v : MemCh) : (setMemCh s n v).arrivals = s.arrivals := rfl
@[simp] theorem setMemCh_jobs (n : Nat) (v : MemCh) : (setMemCh s n v).jobs = s.jobs := rfl
@[simp] theorem setMemCh_reqs (n : Nat) (v : MemCh) : (setMemCh s n v).reqs = s.reqs := rfl
@[simp] theorem setMemCh_host (n : Nat) (v : MemCh) : (setMemCh s n v).host = s.host := rfl
@[simp] theorem setMemCh_light (n : Nat) (v : MemCh) : (setMemCh s n v).light = s.light := rfl
@[simp] theorem setMemCh_imem (n : Nat) (v : MemCh) : (setMemCh s n v).imem = s.imem := rfl
@[simp] theorem setMemCh_hmem (n : Nat) (v : MemCh) : (setMemCh s n v).hmem = s.hmem := rfl
@[simp] theorem setMemCh_flt (n : Nat) (v : MemCh) : (setMemCh s n v).flt = s.flt := rfl
@[simp] theorem setMemCh_dump (n : Nat) (v : MemCh) : (setMemCh s n v).dump = s.dump := rfl
@[simp] theorem setMemCh_ladder (n : Nat) (v : MemCh) : (setMemCh s n v).ladder = s.ladder := rfl
@[simp] theorem setMemCh_life (n : Nat) (v : MemCh) : (setMemCh s n v).life = s.life := rfl
@[simp] theorem setMemCh_pwrcyc (n : Nat) (v : MemCh) : (setMemCh s n v).pwrcyc = s.pwrcyc := rfl
@[simp] theorem setMemCh_nid (n : Nat) (v : MemCh) : (setMemCh s n v).nid = s.nid := rfl
@[simp] theorem setMemCh_draws (n : Nat) (v : MemCh) : (setMemCh s n v).draws = s.draws := rfl

/-! ### setPeer -/

@[simp] theorem setPeer_pending (q : Nat) (v : Peer) : (setPeer s q v).pending = s.pending := rfl
@[simp] theorem setPeer_cp (q : Nat) (v : Peer) : (setPeer s q v).cp = s.cp := rfl
@[simp] theorem setPeer_tb (q : Nat) (v : Peer) : (setPeer s q v).tb = s.tb := rfl
@[simp] theorem setPeer_clk (q : Nat) (v : Peer) : (setPeer s q v).clk = s.clk := rfl
@[simp] theorem setPeer_straps (q : Nat) (v : Peer) : (setPeer s q v).straps = s.straps := rfl
@[simp] theorem setPeer_mbs (q : Nat) (v : Peer) : (setPeer s q v).mbs = s.mbs := rfl
@[simp] theorem setPeer_mbOrder (q : Nat) (v : Peer) : (setPeer s q v).mbOrder = s.mbOrder := rfl
@[simp] theorem setPeer_parts (q : Nat) (v : Peer) : (setPeer s q v).parts = s.parts := rfl
@[simp] theorem setPeer_chans (q : Nat) (v : Peer) : (setPeer s q v).chans = s.chans := rfl
@[simp] theorem setPeer_regions (q : Nat) (v : Peer) : (setPeer s q v).regions = s.regions := rfl
@[simp] theorem setPeer_images (q : Nat) (v : Peer) : (setPeer s q v).images = s.images := rfl
@[simp] theorem setPeer_tables (q : Nat) (v : Peer) : (setPeer s q v).tables = s.tables := rfl
@[simp] theorem setPeer_gsets (q : Nat) (v : Peer) : (setPeer s q v).gsets = s.gsets := rfl
@[simp] theorem setPeer_slots (q : Nat) (v : Peer) : (setPeer s q v).slots = s.slots := rfl
@[simp] theorem setPeer_sinter (q : Nat) (v : Peer) : (setPeer s q v).sinter = s.sinter := rfl
@[simp] theorem setPeer_ctxs (q : Nat) (v : Peer) : (setPeer s q v).ctxs = s.ctxs := rfl
@[simp] theorem setPeer_cals (q : Nat) (v : Peer) : (setPeer s q v).cals = s.cals := rfl
@[simp] theorem setPeer_sems (q : Nat) (v : Peer) : (setPeer s q v).sems = s.sems := rfl
@[simp] theorem setPeer_vs (q : Nat) (v : Peer) : (setPeer s q v).vs = s.vs := rfl
@[simp] theorem setPeer_vsPtr (q : Nat) (v : Peer) : (setPeer s q v).vsPtr = s.vsPtr := rfl
@[simp] theorem setPeer_tephraPtr (q : Nat) (v : Peer) : (setPeer s q v).tephraPtr = s.tephraPtr := rfl
@[simp] theorem setPeer_xqPtr (q : Nat) (v : Peer) : (setPeer s q v).xqPtr = s.xqPtr := rfl
@[simp] theorem setPeer_xqFree (q : Nat) (v : Peer) : (setPeer s q v).xqFree = s.xqFree := rfl
@[simp] theorem setPeer_cpMem (q : Nat) (v : Peer) : (setPeer s q v).cpMem = s.cpMem := rfl
@[simp] theorem setPeer_spare (q : Nat) (v : Peer) : (setPeer s q v).spare = s.spare := rfl
@[simp] theorem setPeer_l2 (q : Nat) (v : Peer) : (setPeer s q v).l2 = s.l2 := rfl
@[simp] theorem setPeer_l2Retired (q : Nat) (v : Peer) : (setPeer s q v).l2Retired = s.l2Retired := rfl
@[simp] theorem setPeer_tephra (q : Nat) (v : Peer) : (setPeer s q v).tephra = s.tephra := rfl
@[simp] theorem setPeer_tephraRetired (q : Nat) (v : Peer) : (setPeer s q v).tephraRetired = s.tephraRetired := rfl
@[simp] theorem setPeer_items (q : Nat) (v : Peer) : (setPeer s q v).items = s.items := rfl
@[simp] theorem setPeer_posts (q : Nat) (v : Peer) : (setPeer s q v).posts = s.posts := rfl
@[simp] theorem setPeer_exports (q : Nat) (v : Peer) : (setPeer s q v).exports = s.exports := rfl
@[simp] theorem setPeer_arrivals (q : Nat) (v : Peer) : (setPeer s q v).arrivals = s.arrivals := rfl
@[simp] theorem setPeer_jobs (q : Nat) (v : Peer) : (setPeer s q v).jobs = s.jobs := rfl
@[simp] theorem setPeer_reqs (q : Nat) (v : Peer) : (setPeer s q v).reqs = s.reqs := rfl
@[simp] theorem setPeer_mem (q : Nat) (v : Peer) : (setPeer s q v).mem = s.mem := rfl
@[simp] theorem setPeer_host (q : Nat) (v : Peer) : (setPeer s q v).host = s.host := rfl
@[simp] theorem setPeer_imem (q : Nat) (v : Peer) : (setPeer s q v).imem = s.imem := rfl
@[simp] theorem setPeer_hmem (q : Nat) (v : Peer) : (setPeer s q v).hmem = s.hmem := rfl
@[simp] theorem setPeer_flt (q : Nat) (v : Peer) : (setPeer s q v).flt = s.flt := rfl
@[simp] theorem setPeer_dump (q : Nat) (v : Peer) : (setPeer s q v).dump = s.dump := rfl
@[simp] theorem setPeer_ladder (q : Nat) (v : Peer) : (setPeer s q v).ladder = s.ladder := rfl
@[simp] theorem setPeer_life (q : Nat) (v : Peer) : (setPeer s q v).life = s.life := rfl
@[simp] theorem setPeer_pwrcyc (q : Nat) (v : Peer) : (setPeer s q v).pwrcyc = s.pwrcyc := rfl
@[simp] theorem setPeer_nid (q : Nat) (v : Peer) : (setPeer s q v).nid = s.nid := rfl
@[simp] theorem setPeer_draws (q : Nat) (v : Peer) : (setPeer s q v).draws = s.draws := rfl

/-! ### setItem -/

@[simp] theorem setItem_pending (i : Item) : (setItem s i).pending = s.pending := rfl
@[simp] theorem setItem_cp (i : Item) : (setItem s i).cp = s.cp := rfl
@[simp] theorem setItem_tb (i : Item) : (setItem s i).tb = s.tb := rfl
@[simp] theorem setItem_clk (i : Item) : (setItem s i).clk = s.clk := rfl
@[simp] theorem setItem_straps (i : Item) : (setItem s i).straps = s.straps := rfl
@[simp] theorem setItem_mbs (i : Item) : (setItem s i).mbs = s.mbs := rfl
@[simp] theorem setItem_mbOrder (i : Item) : (setItem s i).mbOrder = s.mbOrder := rfl
@[simp] theorem setItem_parts (i : Item) : (setItem s i).parts = s.parts := rfl
@[simp] theorem setItem_chans (i : Item) : (setItem s i).chans = s.chans := rfl
@[simp] theorem setItem_regions (i : Item) : (setItem s i).regions = s.regions := rfl
@[simp] theorem setItem_images (i : Item) : (setItem s i).images = s.images := rfl
@[simp] theorem setItem_tables (i : Item) : (setItem s i).tables = s.tables := rfl
@[simp] theorem setItem_gsets (i : Item) : (setItem s i).gsets = s.gsets := rfl
@[simp] theorem setItem_slots (i : Item) : (setItem s i).slots = s.slots := rfl
@[simp] theorem setItem_sinter (i : Item) : (setItem s i).sinter = s.sinter := rfl
@[simp] theorem setItem_ctxs (i : Item) : (setItem s i).ctxs = s.ctxs := rfl
@[simp] theorem setItem_cals (i : Item) : (setItem s i).cals = s.cals := rfl
@[simp] theorem setItem_sems (i : Item) : (setItem s i).sems = s.sems := rfl
@[simp] theorem setItem_vs (i : Item) : (setItem s i).vs = s.vs := rfl
@[simp] theorem setItem_vsPtr (i : Item) : (setItem s i).vsPtr = s.vsPtr := rfl
@[simp] theorem setItem_tephraPtr (i : Item) : (setItem s i).tephraPtr = s.tephraPtr := rfl
@[simp] theorem setItem_xqPtr (i : Item) : (setItem s i).xqPtr = s.xqPtr := rfl
@[simp] theorem setItem_xqFree (i : Item) : (setItem s i).xqFree = s.xqFree := rfl
@[simp] theorem setItem_cpMem (i : Item) : (setItem s i).cpMem = s.cpMem := rfl
@[simp] theorem setItem_spare (i : Item) : (setItem s i).spare = s.spare := rfl
@[simp] theorem setItem_l2 (i : Item) : (setItem s i).l2 = s.l2 := rfl
@[simp] theorem setItem_l2Retired (i : Item) : (setItem s i).l2Retired = s.l2Retired := rfl
@[simp] theorem setItem_tephra (i : Item) : (setItem s i).tephra = s.tephra := rfl
@[simp] theorem setItem_tephraRetired (i : Item) : (setItem s i).tephraRetired = s.tephraRetired := rfl
@[simp] theorem setItem_posts (i : Item) : (setItem s i).posts = s.posts := rfl
@[simp] theorem setItem_exports (i : Item) : (setItem s i).exports = s.exports := rfl
@[simp] theorem setItem_arrivals (i : Item) : (setItem s i).arrivals = s.arrivals := rfl
@[simp] theorem setItem_jobs (i : Item) : (setItem s i).jobs = s.jobs := rfl
@[simp] theorem setItem_reqs (i : Item) : (setItem s i).reqs = s.reqs := rfl
@[simp] theorem setItem_mem (i : Item) : (setItem s i).mem = s.mem := rfl
@[simp] theorem setItem_host (i : Item) : (setItem s i).host = s.host := rfl
@[simp] theorem setItem_light (i : Item) : (setItem s i).light = s.light := rfl
@[simp] theorem setItem_imem (i : Item) : (setItem s i).imem = s.imem := rfl
@[simp] theorem setItem_hmem (i : Item) : (setItem s i).hmem = s.hmem := rfl
@[simp] theorem setItem_flt (i : Item) : (setItem s i).flt = s.flt := rfl
@[simp] theorem setItem_dump (i : Item) : (setItem s i).dump = s.dump := rfl
@[simp] theorem setItem_ladder (i : Item) : (setItem s i).ladder = s.ladder := rfl
@[simp] theorem setItem_life (i : Item) : (setItem s i).life = s.life := rfl
@[simp] theorem setItem_pwrcyc (i : Item) : (setItem s i).pwrcyc = s.pwrcyc := rfl
@[simp] theorem setItem_nid (i : Item) : (setItem s i).nid = s.nid := rfl
@[simp] theorem setItem_draws (i : Item) : (setItem s i).draws = s.draws := rfl

/-! ### raiseInt -/

@[simp] theorem raiseInt_pending (w : Word) : (raiseInt s w).pending = s.pending := rfl
@[simp] theorem raiseInt_tb (w : Word) : (raiseInt s w).tb = s.tb := rfl
@[simp] theorem raiseInt_clk (w : Word) : (raiseInt s w).clk = s.clk := rfl
@[simp] theorem raiseInt_straps (w : Word) : (raiseInt s w).straps = s.straps := rfl
@[simp] theorem raiseInt_mbs (w : Word) : (raiseInt s w).mbs = s.mbs := rfl
@[simp] theorem raiseInt_mbOrder (w : Word) : (raiseInt s w).mbOrder = s.mbOrder := rfl
@[simp] theorem raiseInt_parts (w : Word) : (raiseInt s w).parts = s.parts := rfl
@[simp] theorem raiseInt_chans (w : Word) : (raiseInt s w).chans = s.chans := rfl
@[simp] theorem raiseInt_regions (w : Word) : (raiseInt s w).regions = s.regions := rfl
@[simp] theorem raiseInt_images (w : Word) : (raiseInt s w).images = s.images := rfl
@[simp] theorem raiseInt_tables (w : Word) : (raiseInt s w).tables = s.tables := rfl
@[simp] theorem raiseInt_gsets (w : Word) : (raiseInt s w).gsets = s.gsets := rfl
@[simp] theorem raiseInt_slots (w : Word) : (raiseInt s w).slots = s.slots := rfl
@[simp] theorem raiseInt_sinter (w : Word) : (raiseInt s w).sinter = s.sinter := rfl
@[simp] theorem raiseInt_ctxs (w : Word) : (raiseInt s w).ctxs = s.ctxs := rfl
@[simp] theorem raiseInt_cals (w : Word) : (raiseInt s w).cals = s.cals := rfl
@[simp] theorem raiseInt_sems (w : Word) : (raiseInt s w).sems = s.sems := rfl
@[simp] theorem raiseInt_vs (w : Word) : (raiseInt s w).vs = s.vs := rfl
@[simp] theorem raiseInt_vsPtr (w : Word) : (raiseInt s w).vsPtr = s.vsPtr := rfl
@[simp] theorem raiseInt_tephraPtr (w : Word) : (raiseInt s w).tephraPtr = s.tephraPtr := rfl
@[simp] theorem raiseInt_xqPtr (w : Word) : (raiseInt s w).xqPtr = s.xqPtr := rfl
@[simp] theorem raiseInt_xqFree (w : Word) : (raiseInt s w).xqFree = s.xqFree := rfl
@[simp] theorem raiseInt_cpMem (w : Word) : (raiseInt s w).cpMem = s.cpMem := rfl
@[simp] theorem raiseInt_spare (w : Word) : (raiseInt s w).spare = s.spare := rfl
@[simp] theorem raiseInt_l2 (w : Word) : (raiseInt s w).l2 = s.l2 := rfl
@[simp] theorem raiseInt_l2Retired (w : Word) : (raiseInt s w).l2Retired = s.l2Retired := rfl
@[simp] theorem raiseInt_tephra (w : Word) : (raiseInt s w).tephra = s.tephra := rfl
@[simp] theorem raiseInt_tephraRetired (w : Word) : (raiseInt s w).tephraRetired = s.tephraRetired := rfl
@[simp] theorem raiseInt_items (w : Word) : (raiseInt s w).items = s.items := rfl
@[simp] theorem raiseInt_posts (w : Word) : (raiseInt s w).posts = s.posts := rfl
@[simp] theorem raiseInt_exports (w : Word) : (raiseInt s w).exports = s.exports := rfl
@[simp] theorem raiseInt_arrivals (w : Word) : (raiseInt s w).arrivals = s.arrivals := rfl
@[simp] theorem raiseInt_jobs (w : Word) : (raiseInt s w).jobs = s.jobs := rfl
@[simp] theorem raiseInt_reqs (w : Word) : (raiseInt s w).reqs = s.reqs := rfl
@[simp] theorem raiseInt_mem (w : Word) : (raiseInt s w).mem = s.mem := rfl
@[simp] theorem raiseInt_host (w : Word) : (raiseInt s w).host = s.host := rfl
@[simp] theorem raiseInt_light (w : Word) : (raiseInt s w).light = s.light := rfl
@[simp] theorem raiseInt_imem (w : Word) : (raiseInt s w).imem = s.imem := rfl
@[simp] theorem raiseInt_hmem (w : Word) : (raiseInt s w).hmem = s.hmem := rfl
@[simp] theorem raiseInt_flt (w : Word) : (raiseInt s w).flt = s.flt := rfl
@[simp] theorem raiseInt_dump (w : Word) : (raiseInt s w).dump = s.dump := rfl
@[simp] theorem raiseInt_ladder (w : Word) : (raiseInt s w).ladder = s.ladder := rfl
@[simp] theorem raiseInt_life (w : Word) : (raiseInt s w).life = s.life := rfl
@[simp] theorem raiseInt_pwrcyc (w : Word) : (raiseInt s w).pwrcyc = s.pwrcyc := rfl
@[simp] theorem raiseInt_nid (w : Word) : (raiseInt s w).nid = s.nid := rfl
@[simp] theorem raiseInt_draws (w : Word) : (raiseInt s w).draws = s.draws := rfl

/-! ### raiseFatal -/

@[simp] theorem raiseFatal_pending (w : Word) : (raiseFatal s w).pending = s.pending := rfl
@[simp] theorem raiseFatal_tb (w : Word) : (raiseFatal s w).tb = s.tb := rfl
@[simp] theorem raiseFatal_clk (w : Word) : (raiseFatal s w).clk = s.clk := rfl
@[simp] theorem raiseFatal_straps (w : Word) : (raiseFatal s w).straps = s.straps := rfl
@[simp] theorem raiseFatal_mbs (w : Word) : (raiseFatal s w).mbs = s.mbs := rfl
@[simp] theorem raiseFatal_mbOrder (w : Word) : (raiseFatal s w).mbOrder = s.mbOrder := rfl
@[simp] theorem raiseFatal_parts (w : Word) : (raiseFatal s w).parts = s.parts := rfl
@[simp] theorem raiseFatal_chans (w : Word) : (raiseFatal s w).chans = s.chans := rfl
@[simp] theorem raiseFatal_regions (w : Word) : (raiseFatal s w).regions = s.regions := rfl
@[simp] theorem raiseFatal_images (w : Word) : (raiseFatal s w).images = s.images := rfl
@[simp] theorem raiseFatal_tables (w : Word) : (raiseFatal s w).tables = s.tables := rfl
@[simp] theorem raiseFatal_gsets (w : Word) : (raiseFatal s w).gsets = s.gsets := rfl
@[simp] theorem raiseFatal_slots (w : Word) : (raiseFatal s w).slots = s.slots := rfl
@[simp] theorem raiseFatal_sinter (w : Word) : (raiseFatal s w).sinter = s.sinter := rfl
@[simp] theorem raiseFatal_ctxs (w : Word) : (raiseFatal s w).ctxs = s.ctxs := rfl
@[simp] theorem raiseFatal_cals (w : Word) : (raiseFatal s w).cals = s.cals := rfl
@[simp] theorem raiseFatal_sems (w : Word) : (raiseFatal s w).sems = s.sems := rfl
@[simp] theorem raiseFatal_vs (w : Word) : (raiseFatal s w).vs = s.vs := rfl
@[simp] theorem raiseFatal_vsPtr (w : Word) : (raiseFatal s w).vsPtr = s.vsPtr := rfl
@[simp] theorem raiseFatal_tephraPtr (w : Word) : (raiseFatal s w).tephraPtr = s.tephraPtr := rfl
@[simp] theorem raiseFatal_xqPtr (w : Word) : (raiseFatal s w).xqPtr = s.xqPtr := rfl
@[simp] theorem raiseFatal_xqFree (w : Word) : (raiseFatal s w).xqFree = s.xqFree := rfl
@[simp] theorem raiseFatal_cpMem (w : Word) : (raiseFatal s w).cpMem = s.cpMem := rfl
@[simp] theorem raiseFatal_spare (w : Word) : (raiseFatal s w).spare = s.spare := rfl
@[simp] theorem raiseFatal_l2 (w : Word) : (raiseFatal s w).l2 = s.l2 := rfl
@[simp] theorem raiseFatal_l2Retired (w : Word) : (raiseFatal s w).l2Retired = s.l2Retired := rfl
@[simp] theorem raiseFatal_tephra (w : Word) : (raiseFatal s w).tephra = s.tephra := rfl
@[simp] theorem raiseFatal_tephraRetired (w : Word) : (raiseFatal s w).tephraRetired = s.tephraRetired := rfl
@[simp] theorem raiseFatal_items (w : Word) : (raiseFatal s w).items = s.items := rfl
@[simp] theorem raiseFatal_posts (w : Word) : (raiseFatal s w).posts = s.posts := rfl
@[simp] theorem raiseFatal_exports (w : Word) : (raiseFatal s w).exports = s.exports := rfl
@[simp] theorem raiseFatal_arrivals (w : Word) : (raiseFatal s w).arrivals = s.arrivals := rfl
@[simp] theorem raiseFatal_jobs (w : Word) : (raiseFatal s w).jobs = s.jobs := rfl
@[simp] theorem raiseFatal_reqs (w : Word) : (raiseFatal s w).reqs = s.reqs := rfl
@[simp] theorem raiseFatal_mem (w : Word) : (raiseFatal s w).mem = s.mem := rfl
@[simp] theorem raiseFatal_host (w : Word) : (raiseFatal s w).host = s.host := rfl
@[simp] theorem raiseFatal_light (w : Word) : (raiseFatal s w).light = s.light := rfl
@[simp] theorem raiseFatal_imem (w : Word) : (raiseFatal s w).imem = s.imem := rfl
@[simp] theorem raiseFatal_hmem (w : Word) : (raiseFatal s w).hmem = s.hmem := rfl
@[simp] theorem raiseFatal_flt (w : Word) : (raiseFatal s w).flt = s.flt := rfl
@[simp] theorem raiseFatal_dump (w : Word) : (raiseFatal s w).dump = s.dump := rfl
@[simp] theorem raiseFatal_ladder (w : Word) : (raiseFatal s w).ladder = s.ladder := rfl
@[simp] theorem raiseFatal_life (w : Word) : (raiseFatal s w).life = s.life := rfl
@[simp] theorem raiseFatal_pwrcyc (w : Word) : (raiseFatal s w).pwrcyc = s.pwrcyc := rfl
@[simp] theorem raiseFatal_nid (w : Word) : (raiseFatal s w).nid = s.nid := rfl
@[simp] theorem raiseFatal_draws (w : Word) : (raiseFatal s w).draws = s.draws := rfl

/-! ### setLastStep -/

@[simp] theorem setLastStep_pending (n : Nat) : (setLastStep s n).pending = s.pending := rfl
@[simp] theorem setLastStep_tb (n : Nat) : (setLastStep s n).tb = s.tb := rfl
@[simp] theorem setLastStep_clk (n : Nat) : (setLastStep s n).clk = s.clk := rfl
@[simp] theorem setLastStep_straps (n : Nat) : (setLastStep s n).straps = s.straps := rfl
@[simp] theorem setLastStep_mbs (n : Nat) : (setLastStep s n).mbs = s.mbs := rfl
@[simp] theorem setLastStep_mbOrder (n : Nat) : (setLastStep s n).mbOrder = s.mbOrder := rfl
@[simp] theorem setLastStep_parts (n : Nat) : (setLastStep s n).parts = s.parts := rfl
@[simp] theorem setLastStep_chans (n : Nat) : (setLastStep s n).chans = s.chans := rfl
@[simp] theorem setLastStep_regions (n : Nat) : (setLastStep s n).regions = s.regions := rfl
@[simp] theorem setLastStep_images (n : Nat) : (setLastStep s n).images = s.images := rfl
@[simp] theorem setLastStep_tables (n : Nat) : (setLastStep s n).tables = s.tables := rfl
@[simp] theorem setLastStep_gsets (n : Nat) : (setLastStep s n).gsets = s.gsets := rfl
@[simp] theorem setLastStep_slots (n : Nat) : (setLastStep s n).slots = s.slots := rfl
@[simp] theorem setLastStep_sinter (n : Nat) : (setLastStep s n).sinter = s.sinter := rfl
@[simp] theorem setLastStep_ctxs (n : Nat) : (setLastStep s n).ctxs = s.ctxs := rfl
@[simp] theorem setLastStep_cals (n : Nat) : (setLastStep s n).cals = s.cals := rfl
@[simp] theorem setLastStep_sems (n : Nat) : (setLastStep s n).sems = s.sems := rfl
@[simp] theorem setLastStep_vs (n : Nat) : (setLastStep s n).vs = s.vs := rfl
@[simp] theorem setLastStep_vsPtr (n : Nat) : (setLastStep s n).vsPtr = s.vsPtr := rfl
@[simp] theorem setLastStep_tephraPtr (n : Nat) : (setLastStep s n).tephraPtr = s.tephraPtr := rfl
@[simp] theorem setLastStep_xqPtr (n : Nat) : (setLastStep s n).xqPtr = s.xqPtr := rfl
@[simp] theorem setLastStep_xqFree (n : Nat) : (setLastStep s n).xqFree = s.xqFree := rfl
@[simp] theorem setLastStep_cpMem (n : Nat) : (setLastStep s n).cpMem = s.cpMem := rfl
@[simp] theorem setLastStep_spare (n : Nat) : (setLastStep s n).spare = s.spare := rfl
@[simp] theorem setLastStep_l2 (n : Nat) : (setLastStep s n).l2 = s.l2 := rfl
@[simp] theorem setLastStep_l2Retired (n : Nat) : (setLastStep s n).l2Retired = s.l2Retired := rfl
@[simp] theorem setLastStep_tephra (n : Nat) : (setLastStep s n).tephra = s.tephra := rfl
@[simp] theorem setLastStep_tephraRetired (n : Nat) : (setLastStep s n).tephraRetired = s.tephraRetired := rfl
@[simp] theorem setLastStep_items (n : Nat) : (setLastStep s n).items = s.items := rfl
@[simp] theorem setLastStep_posts (n : Nat) : (setLastStep s n).posts = s.posts := rfl
@[simp] theorem setLastStep_exports (n : Nat) : (setLastStep s n).exports = s.exports := rfl
@[simp] theorem setLastStep_arrivals (n : Nat) : (setLastStep s n).arrivals = s.arrivals := rfl
@[simp] theorem setLastStep_jobs (n : Nat) : (setLastStep s n).jobs = s.jobs := rfl
@[simp] theorem setLastStep_reqs (n : Nat) : (setLastStep s n).reqs = s.reqs := rfl
@[simp] theorem setLastStep_mem (n : Nat) : (setLastStep s n).mem = s.mem := rfl
@[simp] theorem setLastStep_host (n : Nat) : (setLastStep s n).host = s.host := rfl
@[simp] theorem setLastStep_light (n : Nat) : (setLastStep s n).light = s.light := rfl
@[simp] theorem setLastStep_imem (n : Nat) : (setLastStep s n).imem = s.imem := rfl
@[simp] theorem setLastStep_hmem (n : Nat) : (setLastStep s n).hmem = s.hmem := rfl
@[simp] theorem setLastStep_flt (n : Nat) : (setLastStep s n).flt = s.flt := rfl
@[simp] theorem setLastStep_dump (n : Nat) : (setLastStep s n).dump = s.dump := rfl
@[simp] theorem setLastStep_ladder (n : Nat) : (setLastStep s n).ladder = s.ladder := rfl
@[simp] theorem setLastStep_life (n : Nat) : (setLastStep s n).life = s.life := rfl
@[simp] theorem setLastStep_pwrcyc (n : Nat) : (setLastStep s n).pwrcyc = s.pwrcyc := rfl
@[simp] theorem setLastStep_nid (n : Nat) : (setLastStep s n).nid = s.nid := rfl
@[simp] theorem setLastStep_draws (n : Nat) : (setLastStep s n).draws = s.draws := rfl

/-! ### Readers after writers -/

theorem getCtx_setCtx_same (x : Nat) (v : Ctx) (h : twf ({} : Ctx) s.ctxs = true) : getCtx (setCtx s x v) x = v :=
  tget_tput_same ({} : Ctx) x v s.ctxs h

theorem getCtx_setCtx_other (x j : Nat) (v : Ctx) (h : j ≠ x) : getCtx (setCtx s x v) j = getCtx s j :=
  tget_tput_other ({} : Ctx) j x v s.ctxs h

theorem getCal_setCal_same (c : Nat) (v : Cal) (h : twf ({} : Cal) s.cals = true) : getCal (setCal s c v) c = v :=
  tget_tput_same ({} : Cal) c v s.cals h

theorem getCal_setCal_other (c j : Nat) (v : Cal) (h : j ≠ c) : getCal (setCal s c v) j = getCal s j :=
  tget_tput_other ({} : Cal) j c v s.cals h

theorem getChan_setChan_same (i : Nat) (v : Chan) (h : twf ({} : Chan) s.chans = true) : getChan (setChan s i v) i = v :=
  tget_tput_same ({} : Chan) i v s.chans h

theorem getChan_setChan_other (i j : Nat) (v : Chan) (h : j ≠ i) : getChan (setChan s i v) j = getChan s j :=
  tget_tput_other ({} : Chan) j i v s.chans h

theorem getRegion_setRegion_same (i : Nat) (v : Region) (h : twf ({} : Region) s.regions = true) : getRegion (setRegion s i v) i = v :=
  tget_tput_same ({} : Region) i v s.regions h

theorem getRegion_setRegion_other (i j : Nat) (v : Region) (h : j ≠ i) : getRegion (setRegion s i v) j = getRegion s j :=
  tget_tput_other ({} : Region) j i v s.regions h

theorem getImage_setImage_same (i : Nat) (v : Image) (h : twf ({} : Image) s.images = true) : getImage (setImage s i v) i = v :=
  tget_tput_same ({} : Image) i v s.images h

theorem getImage_setImage_other (i j : Nat) (v : Image) (h : j ≠ i) : getImage (setImage s i v) j = getImage s j :=
  tget_tput_other ({} : Image) j i v s.images h

theorem getTable_setTable_same (i : Nat) (v : Table) (h : twf ({} : Table) s.tables = true) : getTable (setTable s i v) i = v :=
  tget_tput_same ({} : Table) i v s.tables h

theorem getTable_setTable_other (i j : Nat) (v : Table) (h : j ≠ i) : getTable (setTable s i v) j = getTable s j :=
  tget_tput_other ({} : Table) j i v s.tables h

theorem getGset_setGset_same (i : Nat) (v : GSet) (h : twf ({} : GSet) s.gsets = true) : getGset (setGset s i v) i = v :=
  tget_tput_same ({} : GSet) i v s.gsets h

theorem getGset_setGset_other (i j : Nat) (v : GSet) (h : j ≠ i) : getGset (setGset s i v) j = getGset s j :=
  tget_tput_other ({} : GSet) j i v s.gsets h

theorem getSlot_setSlot_same (i : Nat) (v : Slot) (h : twf ({} : Slot) s.slots = true) : getSlot (setSlot s i v) i = v :=
  tget_tput_same ({} : Slot) i v s.slots h

theorem getSlot_setSlot_other (i j : Nat) (v : Slot) (h : j ≠ i) : getSlot (setSlot s i v) j = getSlot s j :=
  tget_tput_other ({} : Slot) j i v s.slots h

theorem getSem_setSem_same (k : Nat) (v : Sem) (h : twf ({} : Sem) s.sems = true) : getSem (setSem s k v) k = v :=
  tget_tput_same ({} : Sem) k v s.sems h

theorem getSem_setSem_other (k j : Nat) (v : Sem) (h : j ≠ k) : getSem (setSem s k v) j = getSem s j :=
  tget_tput_other ({} : Sem) j k v s.sems h

theorem getPart_setPart_same (p : Nat) (v : Part) (h : twf ({} : Part) s.parts = true) : getPart (setPart s p v) p = v :=
  tget_tput_same ({} : Part) p v s.parts h

theorem getPart_setPart_other (p j : Nat) (v : Part) (h : j ≠ p) : getPart (setPart s p v) j = getPart s j :=
  tget_tput_other ({} : Part) j p v s.parts h

theorem getMb_setMb_same (m : Nat) (v : Mailbox) (h : twf ({} : Mailbox) s.mbs = true) : getMb (setMb s m v) m = v :=
  tget_tput_same ({} : Mailbox) m v s.mbs h

theorem getMb_setMb_other (m j : Nat) (v : Mailbox) (h : j ≠ m) : getMb (setMb s m v) j = getMb s j :=
  tget_tput_other ({} : Mailbox) j m v s.mbs h

theorem getMemCh_setMemCh_same (n : Nat) (v : MemCh) (h : twf ({} : MemCh) s.mem = true) : getMemCh (setMemCh s n v) n = v :=
  tget_tput_same ({} : MemCh) n v s.mem h

theorem getMemCh_setMemCh_other (n j : Nat) (v : MemCh) (h : j ≠ n) : getMemCh (setMemCh s n v) j = getMemCh s j :=
  tget_tput_other ({} : MemCh) j n v s.mem h

@[simp] theorem getCal_setCtx (x : Nat) (v : Ctx) (y : Nat) : getCal (setCtx s x v) y = getCal s y := rfl
@[simp] theorem getMb_setCtx (x : Nat) (v : Ctx) (y : Nat) : getMb (setCtx s x v) y = getMb s y := rfl
@[simp] theorem getSem_setCtx (x : Nat) (v : Ctx) (y : Nat) : getSem (setCtx s x v) y = getSem s y := rfl
@[simp] theorem getSlot_setCtx (x : Nat) (v : Ctx) (y : Nat) : getSlot (setCtx s x v) y = getSlot s y := rfl
@[simp] theorem getPart_setCtx (x : Nat) (v : Ctx) (y : Nat) : getPart (setCtx s x v) y = getPart s y := rfl
@[simp] theorem getChan_setCtx (x : Nat) (v : Ctx) (y : Nat) : getChan (setCtx s x v) y = getChan s y := rfl
@[simp] theorem getRegion_setCtx (x : Nat) (v : Ctx) (y : Nat) : getRegion (setCtx s x v) y = getRegion s y := rfl
@[simp] theorem getCtx_setCal (c : Nat) (v : Cal) (y : Nat) : getCtx (setCal s c v) y = getCtx s y := rfl
@[simp] theorem getMb_setCal (c : Nat) (v : Cal) (y : Nat) : getMb (setCal s c v) y = getMb s y := rfl
@[simp] theorem getSem_setCal (c : Nat) (v : Cal) (y : Nat) : getSem (setCal s c v) y = getSem s y := rfl
@[simp] theorem getSlot_setCal (c : Nat) (v : Cal) (y : Nat) : getSlot (setCal s c v) y = getSlot s y := rfl
@[simp] theorem getPart_setCal (c : Nat) (v : Cal) (y : Nat) : getPart (setCal s c v) y = getPart s y := rfl
@[simp] theorem getChan_setCal (c : Nat) (v : Cal) (y : Nat) : getChan (setCal s c v) y = getChan s y := rfl
@[simp] theorem getRegion_setCal (c : Nat) (v : Cal) (y : Nat) : getRegion (setCal s c v) y = getRegion s y := rfl
@[simp] theorem getCtx_setChan (i : Nat) (v : Chan) (y : Nat) : getCtx (setChan s i v) y = getCtx s y := rfl
@[simp] theorem getCal_setChan (i : Nat) (v : Chan) (y : Nat) : getCal (setChan s i v) y = getCal s y := rfl
@[simp] theorem getMb_setChan (i : Nat) (v : Chan) (y : Nat) : getMb (setChan s i v) y = getMb s y := rfl
@[simp] theorem getSem_setChan (i : Nat) (v : Chan) (y : Nat) : getSem (setChan s i v) y = getSem s y := rfl
@[simp] theorem getSlot_setChan (i : Nat) (v : Chan) (y : Nat) : getSlot (setChan s i v) y = getSlot s y := rfl
@[simp] theorem getPart_setChan (i : Nat) (v : Chan) (y : Nat) : getPart (setChan s i v) y = getPart s y := rfl
@[simp] theorem getRegion_setChan (i : Nat) (v : Chan) (y : Nat) : getRegion (setChan s i v) y = getRegion s y := rfl
@[simp] theorem getCtx_setRegion (i : Nat) (v : Region) (y : Nat) : getCtx (setRegion s i v) y = getCtx s y := rfl
@[simp] theorem getCal_setRegion (i : Nat) (v : Region) (y : Nat) : getCal (setRegion s i v) y = getCal s y := rfl
@[simp] theorem getMb_setRegion (i : Nat) (v : Region) (y : Nat) : getMb (setRegion s i v) y = getMb s y := rfl
@[simp] theorem getSem_setRegion (i : Nat) (v : Region) (y : Nat) : getSem (setRegion s i v) y = getSem s y := rfl
@[simp] theorem getSlot_setRegion (i : Nat) (v : Region) (y : Nat) : getSlot (setRegion s i v) y = getSlot s y := rfl
@[simp] theorem getPart_setRegion (i : Nat) (v : Region) (y : Nat) : getPart (setRegion s i v) y = getPart s y := rfl
@[simp] theorem getChan_setRegion (i : Nat) (v : Region) (y : Nat) : getChan (setRegion s i v) y = getChan s y := rfl
@[simp] theorem getCtx_setImage (i : Nat) (v : Image) (y : Nat) : getCtx (setImage s i v) y = getCtx s y := rfl
@[simp] theorem getCal_setImage (i : Nat) (v : Image) (y : Nat) : getCal (setImage s i v) y = getCal s y := rfl
@[simp] theorem getMb_setImage (i : Nat) (v : Image) (y : Nat) : getMb (setImage s i v) y = getMb s y := rfl
@[simp] theorem getSem_setImage (i : Nat) (v : Image) (y : Nat) : getSem (setImage s i v) y = getSem s y := rfl
@[simp] theorem getSlot_setImage (i : Nat) (v : Image) (y : Nat) : getSlot (setImage s i v) y = getSlot s y := rfl
@[simp] theorem getPart_setImage (i : Nat) (v : Image) (y : Nat) : getPart (setImage s i v) y = getPart s y := rfl
@[simp] theorem getChan_setImage (i : Nat) (v : Image) (y : Nat) : getChan (setImage s i v) y = getChan s y := rfl
@[simp] theorem getRegion_setImage (i : Nat) (v : Image) (y : Nat) : getRegion (setImage s i v) y = getRegion s y := rfl
@[simp] theorem getCtx_setTable (i : Nat) (v : Table) (y : Nat) : getCtx (setTable s i v) y = getCtx s y := rfl
@[simp] theorem getCal_setTable (i : Nat) (v : Table) (y : Nat) : getCal (setTable s i v) y = getCal s y := rfl
@[simp] theorem getMb_setTable (i : Nat) (v : Table) (y : Nat) : getMb (setTable s i v) y = getMb s y := rfl
@[simp] theorem getSem_setTable (i : Nat) (v : Table) (y : Nat) : getSem (setTable s i v) y = getSem s y := rfl
@[simp] theorem getSlot_setTable (i : Nat) (v : Table) (y : Nat) : getSlot (setTable s i v) y = getSlot s y := rfl
@[simp] theorem getPart_setTable (i : Nat) (v : Table) (y : Nat) : getPart (setTable s i v) y = getPart s y := rfl
@[simp] theorem getChan_setTable (i : Nat) (v : Table) (y : Nat) : getChan (setTable s i v) y = getChan s y := rfl
@[simp] theorem getRegion_setTable (i : Nat) (v : Table) (y : Nat) : getRegion (setTable s i v) y = getRegion s y := rfl
@[simp] theorem getCtx_setGset (i : Nat) (v : GSet) (y : Nat) : getCtx (setGset s i v) y = getCtx s y := rfl
@[simp] theorem getCal_setGset (i : Nat) (v : GSet) (y : Nat) : getCal (setGset s i v) y = getCal s y := rfl
@[simp] theorem getMb_setGset (i : Nat) (v : GSet) (y : Nat) : getMb (setGset s i v) y = getMb s y := rfl
@[simp] theorem getSem_setGset (i : Nat) (v : GSet) (y : Nat) : getSem (setGset s i v) y = getSem s y := rfl
@[simp] theorem getSlot_setGset (i : Nat) (v : GSet) (y : Nat) : getSlot (setGset s i v) y = getSlot s y := rfl
@[simp] theorem getPart_setGset (i : Nat) (v : GSet) (y : Nat) : getPart (setGset s i v) y = getPart s y := rfl
@[simp] theorem getChan_setGset (i : Nat) (v : GSet) (y : Nat) : getChan (setGset s i v) y = getChan s y := rfl
@[simp] theorem getRegion_setGset (i : Nat) (v : GSet) (y : Nat) : getRegion (setGset s i v) y = getRegion s y := rfl
@[simp] theorem getCtx_setSlot (i : Nat) (v : Slot) (y : Nat) : getCtx (setSlot s i v) y = getCtx s y := rfl
@[simp] theorem getCal_setSlot (i : Nat) (v : Slot) (y : Nat) : getCal (setSlot s i v) y = getCal s y := rfl
@[simp] theorem getMb_setSlot (i : Nat) (v : Slot) (y : Nat) : getMb (setSlot s i v) y = getMb s y := rfl
@[simp] theorem getSem_setSlot (i : Nat) (v : Slot) (y : Nat) : getSem (setSlot s i v) y = getSem s y := rfl
@[simp] theorem getPart_setSlot (i : Nat) (v : Slot) (y : Nat) : getPart (setSlot s i v) y = getPart s y := rfl
@[simp] theorem getChan_setSlot (i : Nat) (v : Slot) (y : Nat) : getChan (setSlot s i v) y = getChan s y := rfl
@[simp] theorem getRegion_setSlot (i : Nat) (v : Slot) (y : Nat) : getRegion (setSlot s i v) y = getRegion s y := rfl
@[simp] theorem getCtx_setSem (k : Nat) (v : Sem) (y : Nat) : getCtx (setSem s k v) y = getCtx s y := rfl
@[simp] theorem getCal_setSem (k : Nat) (v : Sem) (y : Nat) : getCal (setSem s k v) y = getCal s y := rfl
@[simp] theorem getMb_setSem (k : Nat) (v : Sem) (y : Nat) : getMb (setSem s k v) y = getMb s y := rfl
@[simp] theorem getSlot_setSem (k : Nat) (v : Sem) (y : Nat) : getSlot (setSem s k v) y = getSlot s y := rfl
@[simp] theorem getPart_setSem (k : Nat) (v : Sem) (y : Nat) : getPart (setSem s k v) y = getPart s y := rfl
@[simp] theorem getChan_setSem (k : Nat) (v : Sem) (y : Nat) : getChan (setSem s k v) y = getChan s y := rfl
@[simp] theorem getRegion_setSem (k : Nat) (v : Sem) (y : Nat) : getRegion (setSem s k v) y = getRegion s y := rfl
@[simp] theorem getCtx_setPart (p : Nat) (v : Part) (y : Nat) : getCtx (setPart s p v) y = getCtx s y := rfl
@[simp] theorem getCal_setPart (p : Nat) (v : Part) (y : Nat) : getCal (setPart s p v) y = getCal s y := rfl
@[simp] theorem getMb_setPart (p : Nat) (v : Part) (y : Nat) : getMb (setPart s p v) y = getMb s y := rfl
@[simp] theorem getSem_setPart (p : Nat) (v : Part) (y : Nat) : getSem (setPart s p v) y = getSem s y := rfl
@[simp] theorem getSlot_setPart (p : Nat) (v : Part) (y : Nat) : getSlot (setPart s p v) y = getSlot s y := rfl
@[simp] theorem getChan_setPart (p : Nat) (v : Part) (y : Nat) : getChan (setPart s p v) y = getChan s y := rfl
@[simp] theorem getRegion_setPart (p : Nat) (v : Part) (y : Nat) : getRegion (setPart s p v) y = getRegion s y := rfl
@[simp] theorem getCtx_setMb (m : Nat) (v : Mailbox) (y : Nat) : getCtx (setMb s m v) y = getCtx s y := rfl
@[simp] theorem getCal_setMb (m : Nat) (v : Mailbox) (y : Nat) : getCal (setMb s m v) y = getCal s y := rfl
@[simp] theorem getSem_setMb (m : Nat) (v : Mailbox) (y : Nat) : getSem (setMb s m v) y = getSem s y := rfl
@[simp] theorem getSlot_setMb (m : Nat) (v : Mailbox) (y : Nat) : getSlot (setMb s m v) y = getSlot s y := rfl
@[simp] theorem getPart_setMb (m : Nat) (v : Mailbox) (y : Nat) : getPart (setMb s m v) y = getPart s y := rfl
@[simp] theorem getChan_setMb (m : Nat) (v : Mailbox) (y : Nat) : getChan (setMb s m v) y = getChan s y := rfl
@[simp] theorem getRegion_setMb (m : Nat) (v : Mailbox) (y : Nat) : getRegion (setMb s m v) y = getRegion s y := rfl
@[simp] theorem getCtx_setMemCh (n : Nat) (v : MemCh) (y : Nat) : getCtx (setMemCh s n v) y = getCtx s y := rfl
@[simp] theorem getCal_setMemCh (n : Nat) (v : MemCh) (y : Nat) : getCal (setMemCh s n v) y = getCal s y := rfl
@[simp] theorem getMb_setMemCh (n : Nat) (v : MemCh) (y : Nat) : getMb (setMemCh s n v) y = getMb s y := rfl
@[simp] theorem getSem_setMemCh (n : Nat) (v : MemCh) (y : Nat) : getSem (setMemCh s n v) y = getSem s y := rfl
@[simp] theorem getSlot_setMemCh (n : Nat) (v : MemCh) (y : Nat) : getSlot (setMemCh s n v) y = getSlot s y := rfl
@[simp] theorem getPart_setMemCh (n : Nat) (v : MemCh) (y : Nat) : getPart (setMemCh s n v) y = getPart s y := rfl
@[simp] theorem getChan_setMemCh (n : Nat) (v : MemCh) (y : Nat) : getChan (setMemCh s n v) y = getChan s y := rfl
@[simp] theorem getRegion_setMemCh (n : Nat) (v : MemCh) (y : Nat) : getRegion (setMemCh s n v) y = getRegion s y := rfl
@[simp] theorem getCtx_setPeer (q : Nat) (v : Peer) (y : Nat) : getCtx (setPeer s q v) y = getCtx s y := rfl
@[simp] theorem getCal_setPeer (q : Nat) (v : Peer) (y : Nat) : getCal (setPeer s q v) y = getCal s y := rfl
@[simp] theorem getMb_setPeer (q : Nat) (v : Peer) (y : Nat) : getMb (setPeer s q v) y = getMb s y := rfl
@[simp] theorem getSem_setPeer (q : Nat) (v : Peer) (y : Nat) : getSem (setPeer s q v) y = getSem s y := rfl
@[simp] theorem getSlot_setPeer (q : Nat) (v : Peer) (y : Nat) : getSlot (setPeer s q v) y = getSlot s y := rfl
@[simp] theorem getPart_setPeer (q : Nat) (v : Peer) (y : Nat) : getPart (setPeer s q v) y = getPart s y := rfl
@[simp] theorem getChan_setPeer (q : Nat) (v : Peer) (y : Nat) : getChan (setPeer s q v) y = getChan s y := rfl
@[simp] theorem getRegion_setPeer (q : Nat) (v : Peer) (y : Nat) : getRegion (setPeer s q v) y = getRegion s y := rfl
@[simp] theorem getCtx_setItem (i : Item) (y : Nat) : getCtx (setItem s i) y = getCtx s y := rfl
@[simp] theorem getCal_setItem (i : Item) (y : Nat) : getCal (setItem s i) y = getCal s y := rfl
@[simp] theorem getMb_setItem (i : Item) (y : Nat) : getMb (setItem s i) y = getMb s y := rfl
@[simp] theorem getSem_setItem (i : Item) (y : Nat) : getSem (setItem s i) y = getSem s y := rfl
@[simp] theorem getSlot_setItem (i : Item) (y : Nat) : getSlot (setItem s i) y = getSlot s y := rfl
@[simp] theorem getPart_setItem (i : Item) (y : Nat) : getPart (setItem s i) y = getPart s y := rfl
@[simp] theorem getChan_setItem (i : Item) (y : Nat) : getChan (setItem s i) y = getChan s y := rfl
@[simp] theorem getRegion_setItem (i : Item) (y : Nat) : getRegion (setItem s i) y = getRegion s y := rfl
@[simp] theorem getCtx_raiseInt (w : Word) (y : Nat) : getCtx (raiseInt s w) y = getCtx s y := rfl
@[simp] theorem getCal_raiseInt (w : Word) (y : Nat) : getCal (raiseInt s w) y = getCal s y := rfl
@[simp] theorem getMb_raiseInt (w : Word) (y : Nat) : getMb (raiseInt s w) y = getMb s y := rfl
@[simp] theorem getSem_raiseInt (w : Word) (y : Nat) : getSem (raiseInt s w) y = getSem s y := rfl
@[simp] theorem getSlot_raiseInt (w : Word) (y : Nat) : getSlot (raiseInt s w) y = getSlot s y := rfl
@[simp] theorem getPart_raiseInt (w : Word) (y : Nat) : getPart (raiseInt s w) y = getPart s y := rfl
@[simp] theorem getChan_raiseInt (w : Word) (y : Nat) : getChan (raiseInt s w) y = getChan s y := rfl
@[simp] theorem getRegion_raiseInt (w : Word) (y : Nat) : getRegion (raiseInt s w) y = getRegion s y := rfl
@[simp] theorem getCtx_raiseFatal (w : Word) (y : Nat) : getCtx (raiseFatal s w) y = getCtx s y := rfl
@[simp] theorem getCal_raiseFatal (w : Word) (y : Nat) : getCal (raiseFatal s w) y = getCal s y := rfl
@[simp] theorem getMb_raiseFatal (w : Word) (y : Nat) : getMb (raiseFatal s w) y = getMb s y := rfl
@[simp] theorem getSem_raiseFatal (w : Word) (y : Nat) : getSem (raiseFatal s w) y = getSem s y := rfl
@[simp] theorem getSlot_raiseFatal (w : Word) (y : Nat) : getSlot (raiseFatal s w) y = getSlot s y := rfl
@[simp] theorem getPart_raiseFatal (w : Word) (y : Nat) : getPart (raiseFatal s w) y = getPart s y := rfl
@[simp] theorem getChan_raiseFatal (w : Word) (y : Nat) : getChan (raiseFatal s w) y = getChan s y := rfl
@[simp] theorem getRegion_raiseFatal (w : Word) (y : Nat) : getRegion (raiseFatal s w) y = getRegion s y := rfl
@[simp] theorem getCtx_setLastStep (n : Nat) (y : Nat) : getCtx (setLastStep s n) y = getCtx s y := rfl
@[simp] theorem getCal_setLastStep (n : Nat) (y : Nat) : getCal (setLastStep s n) y = getCal s y := rfl
@[simp] theorem getMb_setLastStep (n : Nat) (y : Nat) : getMb (setLastStep s n) y = getMb s y := rfl
@[simp] theorem getSem_setLastStep (n : Nat) (y : Nat) : getSem (setLastStep s n) y = getSem s y := rfl
@[simp] theorem getSlot_setLastStep (n : Nat) (y : Nat) : getSlot (setLastStep s n) y = getSlot s y := rfl
@[simp] theorem getPart_setLastStep (n : Nat) (y : Nat) : getPart (setLastStep s n) y = getPart s y := rfl
@[simp] theorem getChan_setLastStep (n : Nat) (y : Nat) : getChan (setLastStep s n) y = getChan s y := rfl
@[simp] theorem getRegion_setLastStep (n : Nat) (y : Nat) : getRegion (setLastStep s n) y = getRegion s y := rfl

end Sys2Proof.Machine
end

