-- ==== Sys2Proof/Laws/Issue.lean ====
section
/-! SUPPORT. What each shared way of taking a command can do, said once: the issue of a slot, a mailbox command, a
register access, a ring entry, a Plume frame and a debug instruction. -/

namespace Sys2Proof.Machine

variable {s s1 s2 : State} {x w ofs : Nat} {k : SlotK} {mine : Nat → Bool} {f : State → Nat → Nat → Res}

/-! ### Issue of a slot -/

/-- A slot command always answers a next state. -/
theorem issueSlot_completes (x : Nat) (k : SlotK) (mine : Nat → Bool) (f : State → Nat → Nat → Res) (s : State) :
    Completes (issueSlot x k mine f s) := by
  unfold issueSlot Completes
  repeat' split
  all_goals exact ⟨_, rfl⟩

/-- The next slot is the command's, and it takes effect. -/
theorem issueSlot_done (h : nextTurn s x = .slot s1 k w ofs) (hk : knownOp k w = true) (hm : mine w = true)
    (hf : f s1 w ofs = .done s2) : issueSlot x k mine f s = issued x s2 := by
  simp [issueSlot, issued, h, hk, hm, hf]

/-- The next slot is the command's, and it halts the context. -/
theorem issueSlot_halt {r : Nat} {d : Word} (h : nextTurn s x = .slot s1 k w ofs) (hk : knownOp k w = true)
    (hm : mine w = true) (hf : f s1 w ofs = .halt r d) :
    issueSlot x k mine f s = .next (haltIssue s1 x ofs (slotNo k) r d) := by
  simp [issueSlot, h, hk, hm, hf]

/-- The next slot is the command's, and it waits. -/
theorem issueSlot_wait {c : Nat} (h : nextTurn s x = .slot s1 k w ofs) (hk : knownOp k w = true)
    (hm : mine w = true) (hf : f s1 w ofs = .wait c) : issueSlot x k mine f s = .next (waitSlot s1 x c) := by
  simp [issueSlot, h, hk, hm, hf]

/-- The next slot is another command's: nothing happens. -/
theorem issueSlot_other {k' : SlotK} (h : nextTurn s x = .slot s1 k' w ofs) (hk : knownOp k' w = true)
    (hm : k' ≠ k ∨ mine w = false) : issueSlot x k mine f s = .next s := by
  rcases hm with hm | hm <;> simp [issueSlot, h, hk, hm]

/-- What opRes gives. -/
theorem opRes_done {α : Type} {c : Except Stop α} {wt : α → Option Nat} {e : α → State} {a : α} (hc : c = .ok a)
    (hw : wt a = none) : opRes c wt e = .done (e a) := by simp [opRes, hc, hw]

theorem opRes_wait {α : Type} {c : Except Stop α} {wt : α → Option Nat} {e : α → State} {a : α} {n : Nat}
    (hc : c = .ok a) (hw : wt a = some n) : opRes c wt e = .wait n := by simp [opRes, hc, hw]

theorem opRes_halt {α : Type} {c : Except Stop α} {wt : α → Option Nat} {e : α → State} {q : Stop}
    (hc : c = .error q) : opRes c wt e = .halt q.1 q.2 := by simp [opRes, hc]

/-! ### Mailbox commands -/

variable {m : Fin 16} {op : Nat} {g : State → Nat → Nat → Except Refused Ans}

/-- A mailbox command always answers a next state. -/
theorem eci_completes (op : Nat) (m : Fin 16) (g : State → Nat → Nat → Except Refused Ans) (s : State) :
    Completes (eci op m g s) := by
  unfold eci Completes
  repeat' split
  all_goals exact ⟨_, rfl⟩

/-- A listed command that its row takes and its handler accepts. -/
theorem eci_ok {a : Ans} (hr : cmdReady op m.val s) (hl : listedOp op = true)
    (ha : g s m.val (partOf s m.val) = .ok a) : eci op m g s = .next (answered m.val a) := by
  obtain ⟨ht, ho, hc⟩ := hr
  simp [eci, ht, ho, hl, hc, ha]

/-- A listed command that its handler refuses. -/
theorem eci_refused {e : Refused} (hr : cmdReady op m.val s) (hl : listedOp op = true)
    (ha : g s m.val (partOf s m.val) = .error e) : eci op m g s = .next (respond s m.val e.1 e.2 []) := by
  obtain ⟨ht, ho, hc⟩ := hr
  simp [eci, ht, ho, hl, hc, ha]

/-- Mailbox m is not the one the firmware takes: nothing happens. -/
theorem eci_idle (ht : fwTakes s m.val = false) : eci op m g s = .next s := by simp [eci, ht]

@[simp] theorem need_true {c : Prop} [Decidable c] (st fd : Nat) (h : c) : need c st fd = .ok () := by simp [need, h]

@[simp] theorem need_false {c : Prop} [Decidable c] (st fd : Nat) (h : ¬c) : need c st fd = .error (st, fd) := by
  simp [need, h]

/-! ### The other ways -/

theorem access_completes (g : State → State) (s : State) : Completes (access g s) := by
  unfold access Completes
  split <;> exact ⟨_, rfl⟩

theorem access_live (g : State → State) (h : windowLive s = true) : access g s = .next (g s) := by simp [access, h]

theorem takeEntry_completes (type : Nat) (g : State → Nat → List Byte → State) (i : Nat) (s : State) :
    Completes (takeEntry type g i s) := by
  unfold takeEntry Completes
  dsimp only
  repeat' split
  all_goals exact ⟨_, rfl⟩

theorem recv_completes (type : BitVec 8) (rsp : Bool) (g : State → Nat → State) (p : Fin 2) (fr : Frame) (s : State) :
    Completes (recv type rsp g p fr s) := by
  unfold recv Completes
  dsimp only
  repeat' split
  all_goals exact ⟨_, rfl⟩

theorem recvCtl_completes (type : BitVec 8) (g : State → Nat → State) (p : Fin 2) (fr : Frame) (s : State) :
    Completes (recvCtl type g p fr s) := by
  unfold recvCtl Completes
  dsimp only
  repeat' split
  all_goals exact ⟨_, rfl⟩

end Sys2Proof.Machine
end

