-- ==== Sys2Proof/Laws/Keeps.lean ====
section
/-! SUPPORT. What an operation keeps, in one relation that composes: the queue as it was, and the canonical form of the
stores and tables. -/

namespace Sys2Proof.Machine

/-- The stores and the tables are in canonical form. -/
def Sound (s : State) : Prop := StoresSound s ∧ TablesSound s

/-- From s to t the queue stays, and what is sound stays sound. -/
def Keeps (s t : State) : Prop := t.pending = s.pending ∧ (Sound s → Sound t)

/-- A table's lanes are canonical whenever s0 is sound. -/
def LanesOk (s0 : State) (l : Tab Word) : Prop := Sound s0 → twf 0 l = true

theorem Keeps.refl (s : State) : Keeps s s := ⟨rfl, id⟩

theorem Keeps.trans {s t u : State} (h : Keeps s t) (h' : Keeps t u) : Keeps s u :=
  ⟨h'.1.trans h.1, fun hs => h'.2 (h.2 hs)⟩

theorem Keeps.foldl {α : Type} {s0 s : State} {f : State → α → State} (l : List α) (h : Keeps s0 s)
    (hf : ∀ u a, Keeps s0 u → Keeps s0 (f u a)) : Keeps s0 (l.foldl f s) := by
  induction l generalizing s with
  | nil => exact h
  | cons a r ih => exact ih (hf s a h)

theorem twf_foldl {α β : Type} [DecidableEq α] (d : α) (f : Tab α → β → Tab α) (l : List β) (t : Tab α)
    (h : twf d t = true) (hf : ∀ u a, twf d u = true → twf d (f u a) = true) : twf d (l.foldl f t) = true := by
  induction l generalizing t with
  | nil => exact h
  | cons a r ih => exact ih (f t a) (hf t a h)

theorem twf_tmap {α : Type} [DecidableEq α] (d : α) (f : Nat → α → α) (t : Tab α) : twf d (tmap d f t) = true :=
  twf_foldl d _ t [] rfl fun u _ h => twf_tput d _ _ u h

theorem memWf_foldl {β : Type} (f : Mem → β → Mem) (l : List β) (m : Mem) (h : memWf m = true)
    (hf : ∀ u a, memWf u = true → memWf (f u a) = true) : memWf (l.foldl f m) = true := twf_foldl 0 f l m h hf

theorem getCal_setCal (s : State) (c d : Nat) (v : Cal) (h : twf {} s.cals = true) :
    getCal (setCal s c v) d = if d = c then v else getCal s d := by
  unfold getCal setCal
  split
  · subst d; exact tget_tput_same {} c v s.cals h
  · exact tget_tput_other {} d c v s.cals ‹_›

/-- What Keeps asks of a state given by its fields. -/
def KeepsF (s0 : State) (pending : List Instr) (mbs : Tab Mailbox) (parts : Tab Part) (chans : Tab Chan) (slots : Tab Slot)
    (ctxs : Tab Ctx) (cals : Tab Cal) (sems : Tab Sem) (sinter imem hmem : Mem) : Prop :=
  pending = s0.pending ∧ (Sound s0 → (memWf imem = true ∧ memWf hmem = true ∧ memWf sinter = true) ∧
    twf {} mbs = true ∧ twf {} parts = true ∧ twf {} chans = true ∧ twf {} sems = true ∧ twf {} slots = true ∧
    twf {} ctxs = true ∧ twf {} cals = true ∧ ∀ c, twf 0 (tget {} c cals).lanes = true)

theorem keeps_mk {s0 : State} {pending cp tb clk straps mbs mbOrder parts chans regions images tables gsets slots sinter
    ctxs cals sems vs vsPtr tephraPtr xqPtr xqFree cpMem spare l2 l2Retired tephra tephraRetired items posts exports arrivals jobs reqs mem host light imem hmem
    flt dump ladder life pwrcyc nid draws} :
    Keeps s0 (State.mk pending cp tb clk straps mbs mbOrder parts chans regions images tables gsets slots sinter
      ctxs cals sems vs vsPtr tephraPtr xqPtr xqFree cpMem spare l2 l2Retired tephra tephraRetired items posts exports arrivals jobs reqs mem host light imem hmem
      flt dump ladder life pwrcyc nid draws) ↔ KeepsF s0 pending mbs parts chans slots ctxs cals sems sinter imem hmem :=
  Iff.rfl

/-- An update of the fields that no form is asked of, or that keeps their form, and leaves the Calderas. -/
theorem keepsF_upd {s0 s : State} {pending mbs parts chans slots ctxs cals sems sinter imem hmem}
    (hp : pending = s.pending) (hc : cals = s.cals)
    (hmb : twf {} s.mbs = true → twf {} mbs = true) (hpa : twf {} s.parts = true → twf {} parts = true)
    (hch : twf {} s.chans = true → twf {} chans = true) (hsl : twf {} s.slots = true → twf {} slots = true)
    (hcx : twf {} s.ctxs = true → twf {} ctxs = true) (hse : twf {} s.sems = true → twf {} sems = true)
    (hsi : memWf s.sinter = true → memWf sinter = true) (him : memWf s.imem = true → memWf imem = true)
    (hhm : memWf s.hmem = true → memWf hmem = true) (h : Keeps s0 s) :
    KeepsF s0 pending mbs parts chans slots ctxs cals sems sinter imem hmem := by
  subst hp hc
  refine ⟨h.1, fun h0 => ?_⟩
  obtain ⟨⟨a1, a2, a3⟩, b1, b2, b3, b4, b5, b6, b7, b8⟩ := h.2 h0
  exact ⟨⟨him a1, hhm a2, hsi a3⟩, hmb b1, hpa b2, hch b3, hse b4, hsl b5, hcx b6, b7, b8⟩

section

variable {s0 s : State} (h : Keeps s0 s)
include h

theorem lanesOk_getCal (c : Nat) : LanesOk s0 (getCal s c).lanes := fun h0 => (h.2 h0).2.2.2.2.2.2.2.2 c

theorem keeps_setCal (c : Nat) (v : Cal) (hl : LanesOk s0 v.lanes) : Keeps s0 (setCal s c v) := by
  refine ⟨h.1, fun h0 => ?_⟩
  obtain ⟨⟨a1, a2, a3⟩, b1, b2, b3, b4, b5, b6, b7, b8⟩ := h.2 h0
  refine ⟨⟨a1, a2, a3⟩, b1, b2, b3, b4, b5, b6, twf_tput _ _ _ _ b7, fun d => ?_⟩
  rw [getCal_setCal s c d v b7]
  split
  · exact hl h0
  · exact b8 d

theorem keeps_updCal (c : Nat) (f : Cal → Cal) (hf : ∀ k, LanesOk s0 k.lanes → LanesOk s0 (f k).lanes) :
    Keeps s0 (updCal s c f) := keeps_setCal h c _ (hf _ (lanesOk_getCal h c))

end

theorem lanesOk_nil (s0 : State) : LanesOk s0 [] := fun _ => rfl

theorem lanesOk_tput {s0 : State} {l : Tab Word} (h : LanesOk s0 l) (k : Nat) (v : Word) : LanesOk s0 (tput 0 k v l) :=
  fun h0 => twf_tput 0 k v l (h h0)

/-! ### Lanes under the operations of a Caldera -/

theorem lanes_foldl {α : Type} (f : Cal → α → Cal) (l : List α) (k : Cal) (h : ∀ k a, (f k a).lanes = k.lanes) :
    (l.foldl f k).lanes = k.lanes := by
  induction l generalizing k with
  | nil => rfl
  | cons a r ih => exact (ih _).trans (h k a)

theorem LanesOk.foldl {s0 : State} {α : Type} {f : Cal → α → Cal} (l : List α) {k : Cal} (h : LanesOk s0 k.lanes)
    (hf : ∀ k a, LanesOk s0 k.lanes → LanesOk s0 (f k a).lanes) : LanesOk s0 (l.foldl f k).lanes := by
  induction l generalizing k with
  | nil => exact h
  | cons a r ih => exact ih (hf k a h)

@[simp] theorem lanes_setFmt (k : Cal) (f : Bool) (n : Nat) : (setFmt k f n).lanes = k.lanes := rfl

@[simp] theorem lanes_setHalf (k : Cal) (h : Nat) (st : HalfState) : (setHalf k h st).lanes = k.lanes := rfl

@[simp] theorem lanes_releaseHalf (k : Cal) (h : Nat) : (releaseHalf k h).lanes = k.lanes := by
  unfold releaseHalf
  dsimp only
  split <;> rfl

theorem lanesOk_promoted {s0 : State} {k : Cal} (h : LanesOk s0 k.lanes) (acc : Acc) (runs : List Run) (gs : List Handed)
    (fs : List FaultRep) (a b : Nat) : LanesOk s0 (releaseHalf (releaseHalf
      { k with acc := acc, runs := runs, groups := gs, found := fs } a) b).lanes := by
  rw [lanes_releaseHalf, lanes_releaseHalf]
  exact h

@[simp] theorem lanes_fillEnds (k : Cal) (h : Nat) : (fillEnds k h).lanes = k.lanes := by
  unfold fillEnds
  split <;> rfl

@[simp] theorem lanes_reformat (k : Cal) (f : Bool) (n : Nat) : (reformat k f n).lanes = k.lanes := by
  unfold reformat
  repeat' split
  all_goals rfl

@[simp] theorem lanes_setSlotPlane (k : Cal) (f : Bool) (n : Nat) (g : Nat → Nat → Nat) :
    (setSlotPlane k f n g).lanes = k.lanes := by
  unfold setSlotPlane
  dsimp only
  exact lanes_reformat k f n

@[simp] theorem lanes_setSlotRow (k : Cal) (f : Bool) (n r : Nat) (g : Nat → Nat) :
    (setSlotRow k f n r g).lanes = k.lanes := by
  unfold setSlotRow
  dsimp only
  exact lanes_reformat k f n

@[simp] theorem lanes_restoreRow (k : Cal) (m : Mem) (f : Bool) (l : List Nat) (a b c : Nat) :
    (restoreRow k m f l a b c).lanes = k.lanes := lanes_foldl _ _ _ fun _ _ => lanes_setSlotRow ..

@[simp] theorem lanes_sumGroup (k : Cal) (r : Run) (ups : List Upset) : (sumGroup k r ups).lanes = k.lanes := by
  unfold sumGroup
  generalize List.range (257 * 257) = l
  exact lanes_foldl _ _ _ fun k n => by split <;> rfl

@[simp] theorem lanes_zeroSlot (k : Cal) (e : BusEff) (q : Nat × Bool) : (zeroSlot k e q).lanes = k.lanes := rfl

@[simp] theorem lanes_biasSlot (k : Cal) (e : BusEff) (p : Nat) (q : Nat × Bool) :
    (biasSlot k e p q).lanes = k.lanes := by
  unfold biasSlot
  dsimp only
  split <;> rfl

@[simp] theorem lanes_busEffect (k : Cal) (e : BusEff) : (busEffect k e).1.lanes = k.lanes := by
  unfold busEffect
  split
  · exact lanes_foldl _ _ _ fun _ _ => rfl
  · exact lanes_foldl _ _ _ fun _ _ => lanes_biasSlot ..
  · rfl

@[simp] theorem lanes_putHalf (k : Cal) (w v : Nat) : (putHalf k w v).lanes = k.lanes := by
  unfold putHalf
  rfl

theorem lanesOk_putLanes {s0 : State} {k : Cal} (h : LanesOk s0 k.lanes) (r : Nat) (v : Nat → Word) :
    LanesOk s0 (putLanes k r v).lanes := by
  unfold putLanes
  dsimp only
  exact fun h0 => twf_foldl 0 _ _ _ (h h0) fun u _ hu => twf_tput 0 _ _ u hu

theorem lanesOk_putLaneWord {s0 : State} {k : Cal} (h : LanesOk s0 k.lanes) (w v : Nat) :
    LanesOk s0 (putLaneWord k w v).lanes := lanesOk_tput (lanesOk_tput h _ _) _ _

theorem lanesOk_drainRow {s0 : State} {k : Cal} (h : LanesOk s0 k.lanes) (acc : Acc) (a : DrainArgs)
    (m : Nat) : LanesOk s0 (drainRow acc a k m).lanes := by
  unfold drainRow
  dsimp only
  split
  · exact lanesOk_putLanes (lanesOk_putLanes h _ _) _ _
  · exact lanesOk_putLanes h _ _

/-- A vector operation whose work keeps the lanes' form. -/
def WorkOk (o : VecOp) : Prop := ∀ s0 k sr m, LanesOk s0 k.lanes → LanesOk s0 (o.work k sr m).1.lanes

theorem lanesOk_vecWork {s0 s : State} (h : Keeps s0 s) (x : Nat) {o : VecOp} (ho : WorkOk o) (n : Nat) :
    LanesOk s0 (vecWork x s o n).1.lanes := by
  unfold vecWork
  generalize hq : (getCal s (ctxCal x), (getCtx s x).sr, (0 : Fl)) = q
  have hl : LanesOk s0 q.1.lanes := by subst hq; exact lanesOk_getCal h _
  clear hq
  generalize List.range n = l
  induction l generalizing q with
  | nil => exact hl
  | cons m r ih => exact ih _ (ho _ _ _ _ hl)

/-! ### Memories under writers of more than one value -/

theorem memWf_addElem (f : Bool) (m : Mem) (a : Nat) (v : Pair) (h : memWf m = true) :
    memWf (addElem f m a v).1 = true := memWf_store _ _ _ _ h

theorem memWf_atomicAt (n : Nat) (m : Mem) (a : Nat) (v : List Byte) (h : memWf m = true) :
    memWf (atomicAt n m a v).1 = true := by
  unfold atomicAt
  split
  · exact memWf_store _ _ _ _ h
  · exact memWf_addElem _ _ _ _ h

theorem memWf_addAll (n : Nat) (m : Mem) (a : Nat) (bs : List Byte) (h : memWf m = true) :
    memWf (addAll n m a bs).1 = true := by
  unfold addAll
  dsimp only
  generalize hq : (m, (0 : Fl)) = q
  have hl : memWf q.1 = true := by subst hq; exact h
  clear hq
  generalize List.range _ = l
  induction l generalizing q with
  | nil => exact hl
  | cons k r ih => exact ih _ (memWf_atomicAt _ _ _ _ hl)

theorem memWf_saveRow (k : Cal) (m : Mem) (f : Bool) (l : List Nat) (a r b : Nat) (h : memWf m = true) :
    memWf (saveRow k m f l a r b) = true :=
  memWf_foldl _ _ _ h fun _ _ hu => memWf_foldl _ _ _ hu fun _ _ hv => memWf_store _ _ _ _ hv

theorem memWf_storeWord8 (m : Mem) (w v : Nat) (h : memWf m = true) : memWf (storeWord8 m w v) = true :=
  memWf_store _ _ _ _ h

end Sys2Proof.Machine
end

