-- ==== Sys2Proof/Laws/KeepsOps.lean ====
section
/-! SUPPORT. What each operation keeps: one lemma for each, in the order of the files they stand in. A state that keeps
what s0 had goes in, and one that keeps it comes out, so that the lemmas compose. -/

namespace Sys2Proof.Machine

/-- The state that a turn of a context carries. -/
def turnState : Turn → Option State
  | .fetch s _ => some s
  | .empty s => some s
  | .slot s _ _ _ => some s
  | _ => none

theorem keeps_setCtx {s0 s : State} (h : Keeps s0 s) (x : Nat) (c : Ctx) : Keeps s0 (setCtx s x c) := by
  unfold setCtx
  repeat' first
    | with_reducible exact h | with_reducible exact id
    | with_reducible refine keepsF_upd rfl rfl ?_ ?_ ?_ ?_ ?_ ?_ ?_ ?_ ?_ ?_ | with_reducible exact twf_tput _ _ _ _
    | simp only [keeps_mk]

theorem keeps_updCtx {s0 s : State} (h : Keeps s0 s) (x : Nat) (f : Ctx → Ctx) : Keeps s0 (updCtx s x f) := by
  unfold updCtx
  repeat' first
    | with_reducible exact h | with_reducible apply keeps_setCtx

theorem keeps_setChan {s0 s : State} (h : Keeps s0 s) (i : Nat) (v : Chan) : Keeps s0 (setChan s i v) := by
  unfold setChan
  repeat' first
    | with_reducible exact h | with_reducible exact id
    | with_reducible refine keepsF_upd rfl rfl ?_ ?_ ?_ ?_ ?_ ?_ ?_ ?_ ?_ ?_ | with_reducible exact twf_tput _ _ _ _
    | simp only [keeps_mk]

theorem keeps_updChan {s0 s : State} (h : Keeps s0 s) (i : Nat) (f : Chan → Chan) : Keeps s0 (updChan s i f) := by
  unfold updChan
  repeat' first
    | with_reducible exact h | with_reducible apply keeps_setChan

theorem keeps_setRegion {s0 s : State} (h : Keeps s0 s) (i : Nat) (v : Region) : Keeps s0 (setRegion s i v) := by
  unfold setRegion
  repeat' first
    | with_reducible exact h | with_reducible exact id
    | with_reducible refine keepsF_upd rfl rfl ?_ ?_ ?_ ?_ ?_ ?_ ?_ ?_ ?_ ?_ | simp only [keeps_mk]

theorem keeps_setImage {s0 s : State} (h : Keeps s0 s) (i : Nat) (v : Image) : Keeps s0 (setImage s i v) := by
  unfold setImage
  repeat' first
    | with_reducible exact h | with_reducible exact id
    | with_reducible refine keepsF_upd rfl rfl ?_ ?_ ?_ ?_ ?_ ?_ ?_ ?_ ?_ ?_ | simp only [keeps_mk]

theorem keeps_setTable {s0 s : State} (h : Keeps s0 s) (i : Nat) (v : Table) : Keeps s0 (setTable s i v) := by
  unfold setTable
  repeat' first
    | with_reducible exact h | with_reducible exact id
    | with_reducible refine keepsF_upd rfl rfl ?_ ?_ ?_ ?_ ?_ ?_ ?_ ?_ ?_ ?_ | simp only [keeps_mk]

theorem keeps_setGset {s0 s : State} (h : Keeps s0 s) (i : Nat) (v : GSet) : Keeps s0 (setGset s i v) := by
  unfold setGset
  repeat' first
    | with_reducible exact h | with_reducible exact id
    | with_reducible refine keepsF_upd rfl rfl ?_ ?_ ?_ ?_ ?_ ?_ ?_ ?_ ?_ ?_ | simp only [keeps_mk]

theorem keeps_setSlot {s0 s : State} (h : Keeps s0 s) (i : Nat) (v : Slot) : Keeps s0 (setSlot s i v) := by
  unfold setSlot
  repeat' first
    | with_reducible exact h | with_reducible exact id
    | with_reducible refine keepsF_upd rfl rfl ?_ ?_ ?_ ?_ ?_ ?_ ?_ ?_ ?_ ?_ | with_reducible exact twf_tput _ _ _ _
    | simp only [keeps_mk]

theorem keeps_updSlot {s0 s : State} (h : Keeps s0 s) (i : Nat) (f : Slot → Slot) : Keeps s0 (updSlot s i f) := by
  unfold updSlot
  repeat' first
    | with_reducible exact h | with_reducible apply keeps_setSlot

theorem keeps_setSem {s0 s : State} (h : Keeps s0 s) (k : Nat) (v : Sem) : Keeps s0 (setSem s k v) := by
  unfold setSem
  repeat' first
    | with_reducible exact h | with_reducible exact id
    | with_reducible refine keepsF_upd rfl rfl ?_ ?_ ?_ ?_ ?_ ?_ ?_ ?_ ?_ ?_ | with_reducible exact twf_tput _ _ _ _
    | simp only [keeps_mk]

theorem keeps_updSem {s0 s : State} (h : Keeps s0 s) (k : Nat) (f : Sem → Sem) : Keeps s0 (updSem s k f) := by
  unfold updSem
  repeat' first
    | with_reducible exact h | with_reducible apply keeps_setSem

theorem keeps_setPart {s0 s : State} (h : Keeps s0 s) (p : Nat) (v : Part) : Keeps s0 (setPart s p v) := by
  unfold setPart
  repeat' first
    | with_reducible exact h | with_reducible exact id
    | with_reducible refine keepsF_upd rfl rfl ?_ ?_ ?_ ?_ ?_ ?_ ?_ ?_ ?_ ?_ | with_reducible exact twf_tput _ _ _ _
    | simp only [keeps_mk]

theorem keeps_updPart {s0 s : State} (h : Keeps s0 s) (p : Nat) (f : Part → Part) : Keeps s0
    (updPart s p f) := by
  unfold updPart
  repeat' first
    | with_reducible exact h | with_reducible apply keeps_setPart

theorem keeps_setMb {s0 s : State} (h : Keeps s0 s) (m : Nat) (v : Mailbox) : Keeps s0 (setMb s m v) := by
  unfold setMb
  repeat' first
    | with_reducible exact h | with_reducible exact id
    | with_reducible refine keepsF_upd rfl rfl ?_ ?_ ?_ ?_ ?_ ?_ ?_ ?_ ?_ ?_ | with_reducible exact twf_tput _ _ _ _
    | simp only [keeps_mk]

theorem keeps_updMb {s0 s : State} (h : Keeps s0 s) (m : Nat) (f : Mailbox → Mailbox) : Keeps s0 (updMb s m f) := by
  unfold updMb
  repeat' first
    | with_reducible exact h | with_reducible apply keeps_setMb

theorem keeps_setMemCh {s0 s : State} (h : Keeps s0 s) (n : Nat) (v : MemCh) : Keeps s0 (setMemCh s n v) := by
  unfold setMemCh
  repeat' first
    | with_reducible exact h | with_reducible exact id
    | with_reducible refine keepsF_upd rfl rfl ?_ ?_ ?_ ?_ ?_ ?_ ?_ ?_ ?_ ?_ | simp only [keeps_mk]

theorem keeps_setPeer {s0 s : State} (h : Keeps s0 s) (q : Nat) (v : Peer) : Keeps s0 (setPeer s q v) := by
  unfold setPeer
  repeat' first
    | with_reducible exact h | with_reducible exact id
    | with_reducible refine keepsF_upd rfl rfl ?_ ?_ ?_ ?_ ?_ ?_ ?_ ?_ ?_ ?_ | simp only [keeps_mk]

theorem keeps_raiseInt {s0 s : State} (h : Keeps s0 s) (w : Word) : Keeps s0 (raiseInt s w) := by
  unfold raiseInt
  repeat' first
    | with_reducible exact h | with_reducible exact id
    | with_reducible refine keepsF_upd rfl rfl ?_ ?_ ?_ ?_ ?_ ?_ ?_ ?_ ?_ ?_ | simp only [keeps_mk]

theorem keeps_raiseFatal {s0 s : State} (h : Keeps s0 s) (w : Word) : Keeps s0 (raiseFatal s w) := by
  unfold raiseFatal
  repeat' first
    | with_reducible exact h | with_reducible exact id | with_reducible apply keeps_raiseInt
    | with_reducible refine keepsF_upd rfl rfl ?_ ?_ ?_ ?_ ?_ ?_ ?_ ?_ ?_ ?_ | simp only [keeps_mk]

theorem keeps_setLastStep {s0 s : State} (h : Keeps s0 s) (n : Nat) : Keeps s0 (setLastStep s n) := by
  unfold setLastStep
  repeat' first
    | with_reducible exact h | with_reducible exact id
    | with_reducible refine keepsF_upd rfl rfl ?_ ?_ ?_ ?_ ?_ ?_ ?_ ?_ ?_ ?_ | simp only [keeps_mk]

theorem keeps_postEvent {s0 s : State} (h : Keeps s0 s) (p : Nat) (code : BitVec 16) (payload : List Byte) : Keeps s0
    (postEvent s p code payload) := by
  unfold postEvent
  dsimp only
  repeat' first
    | with_reducible exact h | with_reducible apply keeps_setPart | split

theorem keeps_postBlockEvent {s0 s : State} (h : Keeps s0 s) (code : BitVec 16) (payload : List Byte) : Keeps s0
    (postBlockEvent s code payload) := by
  unfold postBlockEvent
  repeat' first
    | with_reducible assumption | with_reducible apply keeps_postEvent
    | with_reducible refine Keeps.foldl _ ?_ (fun _ _ _ => ?_)

theorem keeps_respond {s0 s : State} (h : Keeps s0 s) (m : Nat) (status : Nat) (field : Nat) (results : List (Nat × Nat × Nat))
    : Keeps s0 (respond s m status field results) := by
  unfold respond
  repeat' first
    | with_reducible exact h | with_reducible exact id | with_reducible apply keeps_raiseInt
    | with_reducible apply keeps_setMb | with_reducible refine keepsF_upd rfl rfl ?_ ?_ ?_ ?_ ?_ ?_ ?_ ?_ ?_ ?_
    | simp only [keeps_mk]

theorem keeps_waitOn {s0 s : State} (h : Keeps s0 s) (m : Nat) (w : Wait) : Keeps s0 (waitOn s m w) := by
  unfold waitOn
  repeat' first
    | with_reducible exact h | with_reducible exact id | with_reducible apply keeps_setMb
    | with_reducible refine keepsF_upd rfl rfl ?_ ?_ ?_ ?_ ?_ ?_ ?_ ?_ ?_ ?_ | simp only [keeps_mk]

theorem keeps_answerWait {s0 s : State} (h : Keeps s0 s) (w : Wait) (status : Nat) (results : List (Nat × Nat × Nat))
    : Keeps s0 (answerWait s w status results) := by
  unfold answerWait
  repeat' first
    | with_reducible assumption | with_reducible apply keeps_respond
    | with_reducible refine Keeps.foldl _ ?_ (fun _ _ _ => ?_) | split

theorem keeps_setItem {s0 s : State} (h : Keeps s0 s) (i : Item) : Keeps s0 (setItem s i) := by
  unfold setItem
  repeat' first
    | with_reducible exact h | with_reducible exact id
    | with_reducible refine keepsF_upd rfl rfl ?_ ?_ ?_ ?_ ?_ ?_ ?_ ?_ ?_ ?_ | simp only [keeps_mk]

theorem keeps_keepBytes {s0 s : State} (h : Keeps s0 s) (i : Item) (a : Nat) (bs : List Byte) : Keeps s0 (keepBytes s
    i a bs) := by
  unfold keepBytes
  repeat' first
    | with_reducible assumption | with_reducible exact id | with_reducible apply keeps_updCal
    | with_reducible refine keepsF_upd rfl rfl ?_ ?_ ?_ ?_ ?_ ?_ ?_ ?_ ?_ ?_
    | with_reducible exact fun q => memWf_storeBytes _ _ _ q | with_reducible exact fun _ q => q

theorem keeps_haltFrom {s0 s : State} (h : Keeps s0 s) (x : Nat) (img : BitVec 16) (ofs : Nat) (slot : Nat) (reason : Nat) (detail : Word) :
    Keeps s0 (haltFrom s x img ofs slot reason detail) := by
  unfold haltFrom
  dsimp only
  repeat' first
    | with_reducible assumption | with_reducible exact id | with_reducible apply keeps_setItem
    | with_reducible apply keeps_setCtx | with_reducible refine keepsF_upd rfl rfl ?_ ?_ ?_ ?_ ?_ ?_ ?_ ?_ ?_ ?_
    | with_reducible exact twf_tput _ _ _ _ | with_reducible exact fun q => memWf_storeBytes _ _ _ q
    | with_reducible exact fun _ q => q | with_reducible refine Keeps.foldl _ ?_ (fun _ _ _ => ?_)
    | with_reducible apply lanesOk_getCal | split

theorem keeps_haltCtx {s0 s : State} (h : Keeps s0 s) (x : Nat) (ofs : Nat) (slot : Nat) (reason : Nat) (detail : Word) :
    Keeps s0 (haltCtx s x ofs slot reason detail) := by
  unfold haltCtx
  repeat' first
    | with_reducible assumption | with_reducible exact id | with_reducible apply keeps_haltFrom

theorem keeps_raiseFlags {s0 s : State} (h : Keeps s0 s) (x : Nat) (img : BitVec 16) (ofs : Nat) (slot : Nat) (f : Fl) :
    Keeps s0 (raiseFlags s x img ofs slot f) := by
  unfold raiseFlags
  dsimp only
  repeat' first
    | with_reducible assumption | with_reducible exact id | with_reducible apply keeps_updCtx
    | with_reducible apply keeps_haltFrom | with_reducible refine keepsF_upd rfl rfl ?_ ?_ ?_ ?_ ?_ ?_ ?_ ?_ ?_ ?_
    | with_reducible exact twf_tput _ _ _ _ | with_reducible exact fun q => memWf_storeBytes _ _ _ q
    | with_reducible exact fun _ q => q | with_reducible refine Keeps.foldl _ ?_ (fun _ _ _ => ?_)
    | with_reducible apply lanesOk_getCal | split

theorem keeps_setEng {s0 s : State} (h : Keeps s0 s) (k : Nat) (l : List Xfer) : Keeps s0 (setEng s k l) := by
  unfold setEng
  repeat' first
    | with_reducible exact h | with_reducible exact id | with_reducible apply keeps_updCal
    | with_reducible refine keepsF_upd rfl rfl ?_ ?_ ?_ ?_ ?_ ?_ ?_ ?_ ?_ ?_ | with_reducible exact fun _ q => q
    | split | simp only [keeps_mk]

theorem keeps_updXfer {s0 s : State} (h : Keeps s0 s) (n : Nat) (f : Xfer → Xfer) : Keeps s0 (updXfer s n f) := by
  unfold updXfer
  repeat' first
    | with_reducible assumption | with_reducible apply keeps_setEng
    | with_reducible refine Keeps.foldl _ ?_ (fun _ _ _ => ?_) | split

theorem keeps_updMove {s0 s : State} (h : Keeps s0 s) (u : User) (f : Xfer → Xfer) (g : Lookup → Lookup) : Keeps s0
    (updMove s u f g) := by
  unfold updMove
  repeat' first
    | with_reducible assumption | with_reducible exact id | with_reducible apply keeps_updXfer
    | with_reducible apply keeps_updCal | with_reducible refine keepsF_upd rfl rfl ?_ ?_ ?_ ?_ ?_ ?_ ?_ ?_ ?_ ?_
    | with_reducible exact fun _ q => q | with_reducible refine Keeps.foldl _ ?_ (fun _ _ _ => ?_) | split

theorem keeps_movePtr {s0 s : State} (h : Keeps s0 s) (u : User) (b : Burst) : Keeps s0 (movePtr s u b) := by
  unfold movePtr
  dsimp only
  repeat' first
    | with_reducible assumption | with_reducible exact id | with_reducible apply keeps_setMemCh
    | with_reducible refine keepsF_upd rfl rfl ?_ ?_ ?_ ?_ ?_ ?_ ?_ ?_ ?_ ?_ | split | simp only [keeps_mk]

theorem keeps_sendBeats {s0 s : State} (h : Keeps s0 s) (n : Nat) : Keeps s0 (sendBeats s n) := by
  unfold sendBeats
  dsimp only
  repeat' first
    | with_reducible assumption | with_reducible exact id | with_reducible apply keeps_setMemCh
    | with_reducible refine keepsF_upd rfl rfl ?_ ?_ ?_ ?_ ?_ ?_ ?_ ?_ ?_ ?_ | simp only [keeps_mk]

theorem keeps_presentMem {s0 s t : State} (h : Keeps s0 s) {u : User} {b : Burst} (ht : presentMem s u b = some t) :
    Keeps s0 t := by
  unfold presentMem at ht
  dsimp only at ht
  rw [ite_eq_iff] at ht
  rcases ht with ⟨-, ht⟩ | ⟨-, ht⟩
  · cases ht
  · rw [Option.map_eq_some_iff] at ht
    obtain ⟨a, -, rfl⟩ := ht
    exact h

theorem keeps_handed {s0 s : State} (h : Keeps s0 s) (a : Nat) (bs : List Byte) : Keeps s0 (handed s a bs) := by
  unfold handed
  repeat' first
    | with_reducible assumption | with_reducible exact id
    | with_reducible refine keepsF_upd rfl rfl ?_ ?_ ?_ ?_ ?_ ?_ ?_ ?_ ?_ ?_
    | with_reducible exact fun q => memWf_storeBytes _ _ _ q | simp only [keeps_mk]

theorem keeps_presentHost {s0 s t : State} (h : Keeps s0 s) {u : User} {b : Burst} (ht : presentHost s u b = some t) :
    Keeps s0 t := by
  unfold presentHost at ht
  dsimp only at ht
  split at ht
  · cases ht
  · split at ht
    · cases ht
      exact keeps_handed h _ _
    · rw [Option.map_eq_some_iff] at ht
      obtain ⟨a, -, rfl⟩ := ht
      exact h
    · split at ht
      · cases ht
      · rw [Option.map_eq_some_iff] at ht
        obtain ⟨a, -, rfl⟩ := ht
        exact h

theorem keeps_present {s0 s t : State} (h : Keeps s0 s) {u : User} {b : Burst} (ht : present s u b = some t) :
    Keeps s0 t := by
  unfold present at ht
  split at ht
  · exact keeps_presentHost h ht
  · exact keeps_presentMem h ht

/-- The arbiters grant one of the requests that may be presented. -/
theorem firstGrant_mem {s : State} {g : Nat × Nat × List Nat × State} (h : firstGrant s = some g) : g ∈ grants s := by
  unfold firstGrant at h
  have gen : ∀ (l : List (Nat × Nat × List Nat × State)) (o : Option (Nat × Nat × List Nat × State)),
      l.foldl (fun o g => match o with
        | none => some g
        | some f => if lexLt g.2.2.1 f.2.2.1 then some g else some f) o = some g → o = some g ∨ g ∈ l := by
    intro l
    induction l with
    | nil => exact fun o ho => .inl ho
    | cons a r ih =>
      intro o ho
      rcases ih _ ho with ho | ho
      · cases o with
        | none => exact .inr (by simp_all)
        | some f => dsimp only at ho; split at ho <;> simp_all
      · exact .inr (List.mem_cons_of_mem _ ho)
  exact (gen _ _ h).resolve_left (by simp)

theorem keeps_firstGrant {s0 s : State} (h : Keeps s0 s) {g : Nat × Nat × List Nat × State} (hg : firstGrant s = some g) :
    Keeps s0 g.2.2.2 := by
  have hm := firstGrant_mem hg
  simp only [grants, List.mem_flatMap, List.mem_filterMap, Option.map_eq_some_iff] at hm
  obtain ⟨j, -, b, -, t, ht, rfl⟩ := hm
  exact keeps_movePtr (keeps_present h ht) _ _

theorem keeps_pumpN {s0 s : State} (n : Nat) (h : Keeps s0 s) : Keeps s0 (pumpN n s) := by
  induction n generalizing s with
  | zero => exact h
  | succ n ih =>
    unfold pumpN
    extract_lets s1
    have h1 : Keeps s0 s1 := h
    split
    · exact h1
    · exact ih (keeps_firstGrant h1 ‹_›)

theorem keeps_fenceReads {s0 s : State} (h : Keeps s0 s) : Keeps s0 (fenceReads s) := by
  unfold fenceReads
  split
  · generalize ho : presentHost s _ _ = o
    cases o with
    | none => exact h
    | some t => exact keeps_presentHost h ho
  · exact h

theorem keeps_pump {s0 s : State} (h : Keeps s0 s) : Keeps s0 (pump s) := keeps_fenceReads (keeps_pumpN _ h)

theorem keeps_addJob {s0 s : State} (h : Keeps s0 s) (u : User) (stages : List (List Burst)) : Keeps s0
    (addJob s u stages) := by
  unfold addJob
  repeat' first
    | with_reducible exact h | with_reducible exact id | with_reducible apply keeps_pump
    | with_reducible refine keepsF_upd rfl rfl ?_ ?_ ?_ ?_ ?_ ?_ ?_ ?_ ?_ ?_ | simp only [keeps_mk]

theorem keeps_dropJob {s0 s : State} (h : Keeps s0 s) (u : User) : Keeps s0 (dropJob s u) := by
  unfold dropJob
  repeat' first
    | with_reducible exact h | with_reducible exact id
    | with_reducible refine keepsF_upd rfl rfl ?_ ?_ ?_ ?_ ?_ ?_ ?_ ?_ ?_ ?_ | simp only [keeps_mk]

theorem keeps_failJob {s0 s : State} (h : Keeps s0 s) (u : User) : Keeps s0 (failJob s u) := by
  unfold failJob
  repeat' first
    | with_reducible exact h | with_reducible exact id
    | with_reducible refine keepsF_upd rfl rfl ?_ ?_ ?_ ?_ ?_ ?_ ?_ ?_ ?_ ?_ | simp only [keeps_mk]

theorem keeps_coverFence {s0 s : State} (h : Keeps s0 s) (k : Nat) : Keeps s0 (coverFence s k) := by
  unfold coverFence
  repeat' first
    | with_reducible exact h | with_reducible exact id
    | with_reducible refine keepsF_upd rfl rfl ?_ ?_ ?_ ?_ ?_ ?_ ?_ ?_ ?_ ?_ | simp only [keeps_mk]

theorem keeps_freeReq {s0 s : State} (h : Keeps s0 s) (r : Req) : Keeps s0 (freeReq s r) := by
  unfold freeReq
  repeat' first
    | with_reducible assumption | with_reducible exact id
    | with_reducible refine keepsF_upd rfl rfl ?_ ?_ ?_ ?_ ?_ ?_ ?_ ?_ ?_ ?_ | simp only [keeps_mk]

theorem keeps_retireReq {s0 s : State} (h : Keeps s0 s) (r : Req) : Keeps s0 (retireReq s r) := by
  unfold retireReq
  repeat' first
    | with_reducible assumption | with_reducible exact id
    | with_reducible refine keepsF_upd rfl rfl ?_ ?_ ?_ ?_ ?_ ?_ ?_ ?_ ?_ ?_ | simp only [keeps_mk]

theorem keeps_setRx {s0 s : State} (h : Keeps s0 s) (u : User) (m : Mem) :
    Keeps s0 (setRx s u m) := by
  unfold setRx
  repeat' first
    | with_reducible assumption | with_reducible exact id
    | with_reducible refine keepsF_upd rfl rfl ?_ ?_ ?_ ?_ ?_ ?_ ?_ ?_ ?_ ?_ | with_reducible exact twf_tput _ _ _ _
    | with_reducible exact fun q => memWf_storeBytes _ _ _ q | with_reducible exact fun _ q => q
    | with_reducible refine Keeps.foldl _ ?_ (fun _ _ _ => ?_) | with_reducible apply lanesOk_getCal | split
    | simp only [keeps_mk]

theorem keeps_landReq {s0 s : State} (h : Keeps s0 s) (r : Req) :
    Keeps s0 (landReq s r) := by
  unfold landReq
  repeat' first
    | with_reducible assumption | with_reducible exact id | with_reducible apply keeps_coverFence
    | with_reducible apply keeps_setRx | with_reducible refine keepsF_upd rfl rfl ?_ ?_ ?_ ?_ ?_ ?_ ?_ ?_ ?_ ?_
    | with_reducible exact twf_tput _ _ _ _ | with_reducible exact fun q => memWf_storeBytes _ _ _ q
    | with_reducible exact fun _ q => q | with_reducible refine Keeps.foldl _ ?_ (fun _ _ _ => ?_)
    | with_reducible apply lanesOk_getCal | split | simp only [keeps_mk]

theorem keeps_endReq {s0 s : State} (h : Keeps s0 s) (r : Req) (ok last : Bool) : Keeps s0 (endReq s r ok last) := by
  unfold endReq
  dsimp only
  repeat' first
    | with_reducible assumption | with_reducible apply keeps_freeReq | with_reducible apply keeps_retireReq
    | with_reducible apply keeps_landReq | with_reducible apply keeps_failJob | split

theorem keeps_countFrames {s0 s : State} (h : Keeps s0 s) (n k : Nat) : Keeps s0 (countFrames s n k) := h

theorem keeps_presentOne {s0 s : State} (h : Keeps s0 s) (q : Nat) (t : TxFrame) : Keeps s0 (presentOne s q t) := by
  unfold presentOne
  dsimp only
  repeat' first
    | with_reducible exact h | with_reducible exact id | with_reducible apply keeps_countFrames
    | with_reducible apply keeps_setPeer | with_reducible refine keepsF_upd rfl rfl ?_ ?_ ?_ ?_ ?_ ?_ ?_ ?_ ?_ ?_
    | simp only [keeps_mk]

theorem keeps_presentReqs {s0 : State} (n : Nat) {s : State} (h : Keeps s0 s) (p : Nat) (aged : Bool) :
    Keeps s0 (presentReqs n s p aged) := by
  induction n generalizing s with
  | zero => exact h
  | succ n ih =>
    unfold presentReqs
    split
    · exact h
    · exact ih (keeps_presentOne h _ _)

theorem keeps_presentRsp {s0 s : State} (h : Keeps s0 s) (q : Nat) :
    Keeps s0 (presentRsp s q) := by
  unfold presentRsp
  dsimp only
  repeat' first
    | with_reducible assumption | with_reducible exact id | with_reducible apply keeps_countFrames
    | with_reducible apply keeps_setPeer

theorem keeps_presentPort {s0 s : State} (h : Keeps s0 s) (n : Nat) :
    Keeps s0 (presentPort s n) := by
  unfold presentPort
  dsimp only
  repeat' first
    | with_reducible assumption | with_reducible exact id | with_reducible apply keeps_presentReqs
    | with_reducible apply keeps_presentRsp | with_reducible refine keepsF_upd rfl rfl ?_ ?_ ?_ ?_ ?_ ?_ ?_ ?_ ?_ ?_
    | with_reducible exact twf_tput _ _ _ _ | with_reducible exact fun q => memWf_storeBytes _ _ _ q
    | with_reducible exact fun _ q => q | with_reducible refine Keeps.foldl _ ?_ (fun _ _ _ => ?_)
    | with_reducible apply lanesOk_getCal | split

theorem keeps_presentPeer {s0 s : State} (h : Keeps s0 s) (q : Nat) :
    Keeps s0 (presentPeer s q) := by
  unfold presentPeer
  repeat' first
    | with_reducible assumption | with_reducible exact id | with_reducible apply keeps_presentPort

theorem keeps_askAgain {s0 s : State} (h : Keeps s0 s) (q : Nat) : Keeps s0 (askAgain s q) := keeps_setPeer h q _

theorem keeps_sendFrame {s0 s : State} (h : Keeps s0 s) (q : Nat) (rsp : Bool) (f : Frame → Frame) : Keeps s0
    (sendFrame s q rsp f) := by
  unfold sendFrame
  repeat' first
    | with_reducible exact h | with_reducible apply keeps_presentPeer | with_reducible apply keeps_setPeer

theorem keeps_ask {s0 s : State} (h : Keeps s0 s) (q : Nat) (u : User) (ofs addr n : Nat) :
    Keeps s0 (ask s q u ofs addr n).2 := h

theorem keeps_sendRequest {s0 s : State} (h : Keeps s0 s) (q : Nat) (u : User) (ofs addr : Nat) (f : Frame → Frame) :
    Keeps s0 (sendRequest s q u ofs addr f) := by
  unfold sendRequest
  dsimp only
  repeat' first
    | with_reducible assumption | with_reducible exact id | with_reducible apply keeps_ask
    | with_reducible apply keeps_sendFrame

theorem keeps_sendResponse {s0 s : State} (h : Keeps s0 s) (q : Nat) (type : BitVec 8) (xid : BitVec 16) (status : Nat)
    (flags : BitVec 8) (aux : Word) (payload : List Byte) : Keeps s0
    (sendResponse s q type xid status flags aux payload) := by
  unfold sendResponse
  repeat' first
    | with_reducible exact h | with_reducible apply keeps_sendFrame

theorem keeps_ctlOver {s0 s : State} (h : Keeps s0 s) (n q : Nat) (type : BitVec 8) (seq : Word) (flags : BitVec 8) :
    Keeps s0 (ctlOver s n q type seq flags) := by
  unfold ctlOver
  repeat' first
    | with_reducible assumption | with_reducible exact id
    | with_reducible refine keepsF_upd rfl rfl ?_ ?_ ?_ ?_ ?_ ?_ ?_ ?_ ?_ ?_ | split | simp only [keeps_mk]

theorem keeps_sendCtl {s0 s : State} (h : Keeps s0 s) (q : Nat) (type : BitVec 8) : Keeps s0 (sendCtl s q type) := by
  unfold sendCtl
  repeat' first
    | with_reducible assumption | with_reducible apply keeps_ctlOver

theorem keeps_sendState {s0 s : State} (h : Keeps s0 s) (i q : Nat) (move : BitVec 16) (rcd : List Byte) : Keeps s0
    (sendState s i q move rcd) := by
  unfold sendState
  dsimp only
  repeat' first
    | with_reducible assumption | with_reducible exact id | with_reducible apply keeps_ask
    | with_reducible apply keeps_sendFrame | with_reducible refine keepsF_upd rfl rfl ?_ ?_ ?_ ?_ ?_ ?_ ?_ ?_ ?_ ?_
    | with_reducible refine Keeps.foldl _ ?_ (fun _ _ _ => ?_)

theorem keeps_dropState {s0 s : State} (h : Keeps s0 s) (q : Nat) (move : BitVec 16) : Keeps s0
    (dropState s q move) := by
  unfold dropState
  repeat' first
    | with_reducible exact h | with_reducible apply keeps_setPeer

theorem keeps_sendCancel {s0 s : State} (h : Keeps s0 s) (i : Nat) (q : Nat) (move : BitVec 16) : Keeps s0
    (sendCancel s i q move) := by
  unfold sendCancel
  repeat' first
    | with_reducible exact h | with_reducible apply keeps_sendRequest

theorem keeps_evict {s0 s : State} (h : Keeps s0 s) (i : Nat) : Keeps s0 (evict s i) := by
  unfold evict
  repeat' first
    | with_reducible exact h | with_reducible apply keeps_updSlot

theorem keeps_freeSlot {s0 s : State} (h : Keeps s0 s) (i : Nat) : Keeps s0 (freeSlot s i) := by
  unfold freeSlot
  simp only [keeps_mk]
  exact keepsF_upd rfl rfl id id id id id id (memWf_clearRange _ _ _) id id (keeps_setSlot h _ _)

theorem keeps_faultStream {s0 s : State} (h : Keeps s0 s) (i : Nat) (cause : Nat) : Keeps s0 (faultStream s i cause) := by
  unfold faultStream
  repeat' first
    | with_reducible exact h | with_reducible apply keeps_postEvent | with_reducible apply keeps_setSlot

theorem keeps_newStream {s0 s : State} (h : Keeps s0 s) (i p : Nat) (f : Bool) (w : Nat) :
    Keeps s0 (newStream s i p f w) := by
  unfold newStream
  simp only [keeps_mk]
  exact keepsF_upd rfl rfl id id id id id id (memWf_clearRange _ _ _) id id (keeps_setSlot h _ _)

theorem keeps_startPeerExport {s0 s : State} (h : Keeps s0 s) (i : Nat) (q : Nat) : Keeps s0 (startPeerExport s i q) := by
  unfold startPeerExport
  repeat' first
    | with_reducible exact h | with_reducible exact id | with_reducible apply keeps_updSlot
    | with_reducible apply keeps_evict | with_reducible apply keeps_sendState
    | with_reducible refine keepsF_upd rfl rfl ?_ ?_ ?_ ?_ ?_ ?_ ?_ ?_ ?_ ?_ | simp only [keeps_mk]

theorem keeps_dropExport {s0 s : State} (h : Keeps s0 s) (i : Nat) : Keeps s0 (dropExport s i) := by
  unfold dropExport
  repeat' first
    | with_reducible exact h | with_reducible exact id | with_reducible apply keeps_dropJob
    | with_reducible refine keepsF_upd rfl rfl ?_ ?_ ?_ ?_ ?_ ?_ ?_ ?_ ?_ ?_ | simp only [keeps_mk]

theorem keeps_exportDone {s0 s : State} (h : Keeps s0 s) (i : Nat) (new : Word) : Keeps s0 (exportDone s i new) := by
  unfold exportDone
  repeat' first
    | with_reducible exact h | with_reducible apply keeps_postEvent | with_reducible apply keeps_freeSlot
    | with_reducible apply keeps_dropExport

theorem keeps_exportFail {s0 s : State} (h : Keeps s0 s) (i : Nat) (status : Nat) : Keeps s0 (exportFail s i status) := by
  unfold exportFail
  dsimp only
  repeat' first
    | with_reducible exact h | with_reducible apply keeps_postEvent | with_reducible apply keeps_setSlot
    | with_reducible apply keeps_dropExport | with_reducible apply keeps_faultStream | split

theorem keeps_startRegionExport {s0 s : State} (h : Keeps s0 s) (i : Nat) (reg : BitVec 16) (ofs : Nat) : Keeps s0
    (startRegionExport s i reg ofs) := by
  unfold startRegionExport
  repeat' first
    | with_reducible exact h | with_reducible exact id | with_reducible apply keeps_updSlot
    | with_reducible apply keeps_evict | with_reducible apply keeps_addJob | with_reducible apply keeps_exportFail
    | with_reducible refine keepsF_upd rfl rfl ?_ ?_ ?_ ?_ ?_ ?_ ?_ ?_ ?_ ?_ | split | simp only [keeps_mk]

theorem keeps_muteMoves {s0 s : State} (h : Keeps s0 s) (x : Nat) : Keeps s0 (muteMoves s x) := by
  unfold muteMoves
  dsimp only
  repeat' first
    | with_reducible assumption | with_reducible apply keeps_setEng | with_reducible apply keeps_updCal
    | with_reducible refine Keeps.foldl _ ?_ (fun _ _ _ => ?_) | with_reducible exact fun _ q => q | split

theorem keeps_dropPre {s0 s : State} (h : Keeps s0 s) (x : Nat) : Keeps s0 (dropPre s x) := by
  unfold dropPre
  dsimp only
  repeat' first
    | with_reducible assumption | with_reducible exact id | with_reducible apply keeps_setEng
    | with_reducible apply keeps_updCal | with_reducible apply keeps_updCtx
    | with_reducible refine keepsF_upd rfl rfl ?_ ?_ ?_ ?_ ?_ ?_ ?_ ?_ ?_ ?_ | with_reducible exact fun _ q => q
    | with_reducible refine Keeps.foldl _ ?_ (fun _ _ _ => ?_) | split

theorem keeps_semAdd {s0 s : State} (h : Keeps s0 s) (k : Nat) (n : Nat) : Keeps s0 (semAdd s k n) := by
  unfold semAdd
  dsimp only
  repeat' first
    | with_reducible exact h | with_reducible apply keeps_postEvent | with_reducible apply keeps_setSem | split

theorem keeps_endChunk {s0 s : State} (h : Keeps s0 s) (v : Nat) :
    Keeps s0 (endChunk s v) := by
  unfold endChunk
  dsimp only
  repeat' first
    | with_reducible assumption | with_reducible exact id | with_reducible apply keeps_updSlot
    | with_reducible apply keeps_faultStream | with_reducible refine keepsF_upd rfl rfl ?_ ?_ ?_ ?_ ?_ ?_ ?_ ?_ ?_ ?_
    | with_reducible exact twf_tput _ _ _ _ | with_reducible exact fun q => memWf_storeBytes _ _ _ q
    | with_reducible exact fun _ q => q | with_reducible refine Keeps.foldl _ ?_ (fun _ _ _ => ?_)
    | with_reducible apply lanesOk_getCal | split

theorem keeps_applyDefer {s0 s : State} (h : Keeps s0 s) (x : Nat) : Keeps s0 (applyDefer s x) := by
  unfold applyDefer
  repeat' first
    | with_reducible assumption | with_reducible apply keeps_updCtx | with_reducible apply keeps_updCal
    | with_reducible refine Keeps.foldl _ ?_ (fun _ _ _ => ?_) | with_reducible exact fun _ q => q | split

theorem keeps_emptyHalves {s0 s : State} (h : Keeps s0 s) (c : Nat) (b : BitVec 4) : Keeps s0 (emptyHalves s c b) := by
  unfold emptyHalves
  repeat' first
    | with_reducible exact h | with_reducible apply keeps_updCal | with_reducible exact fun _ q => q

theorem keeps_promote {s0 s : State} (h : Keeps s0 s) (c : Nat) : Keeps s0 (promote s c) := by
  unfold promote
  repeat' first
    | with_reducible exact h | with_reducible apply keeps_setItem | split

theorem keeps_dropRest {s0 s : State} (h : Keeps s0 s) (i : Item) :
    Keeps s0 (dropRest s i) := by
  unfold dropRest
  repeat' first
    | with_reducible assumption | with_reducible exact id | with_reducible apply keeps_updCal
    | with_reducible refine keepsF_upd rfl rfl ?_ ?_ ?_ ?_ ?_ ?_ ?_ ?_ ?_ ?_ | with_reducible exact twf_tput _ _ _ _
    | with_reducible exact fun q => memWf_storeBytes _ _ _ q | with_reducible exact fun _ q => q

theorem keeps_dropUsers {s0 s : State} (h : Keeps s0 s) (p : User → Bool) :
    Keeps s0 (dropUsers s p) := by
  unfold dropUsers
  repeat' first
    | with_reducible assumption | with_reducible exact id
    | with_reducible refine keepsF_upd rfl rfl ?_ ?_ ?_ ?_ ?_ ?_ ?_ ?_ ?_ ?_ | with_reducible exact twf_tput _ _ _ _
    | with_reducible exact fun q => memWf_storeBytes _ _ _ q | with_reducible exact fun _ q => q
    | with_reducible refine Keeps.foldl _ ?_ (fun _ _ _ => ?_) | with_reducible apply lanesOk_getCal | split
    | simp only [keeps_mk]

theorem keeps_leaveWindow {s0 s : State} (h : Keeps s0 s) (i : Item) :
    Keeps s0 (leaveWindow s i) := by
  unfold leaveWindow
  repeat' first
    | with_reducible assumption | with_reducible exact id | with_reducible apply keeps_promote
    | with_reducible apply keeps_applyDefer | with_reducible apply keeps_updCtx | with_reducible apply keeps_emptyHalves
    | with_reducible apply keeps_dropRest | with_reducible apply keeps_dropUsers

theorem keeps_owePost {s0 s : State} (h : Keeps s0 s) (i : Item) (status : Nat) : Keeps s0 (owePost s i status) := by
  unfold owePost
  repeat' first
    | with_reducible exact h | with_reducible exact id
    | with_reducible refine keepsF_upd rfl rfl ?_ ?_ ?_ ?_ ?_ ?_ ?_ ?_ ?_ ?_ | split | simp only [keeps_mk]

theorem keeps_forceExport {s0 s : State} (h : Keeps s0 s) (m : Nat) (v : Nat) : Keeps s0 (forceExport s m v) := by
  unfold forceExport
  dsimp only
  repeat' first
    | with_reducible exact h | with_reducible apply keeps_respond | with_reducible apply keeps_startPeerExport
    | with_reducible apply keeps_startRegionExport | split

theorem keeps_resolveForce {s0 s : State} (h : Keeps s0 s)  : Keeps s0 (resolveForce s) := by
  unfold resolveForce
  dsimp only
  repeat' first
    | with_reducible assumption | with_reducible apply keeps_forceExport | with_reducible apply keeps_respond
    | with_reducible apply keeps_freeSlot | with_reducible refine Keeps.foldl _ ?_ (fun _ _ _ => ?_) | split

theorem keeps_dropChan {s0 s : State} (h : Keeps s0 s) (i : Nat) :
    Keeps s0 (dropChan s i) := by
  unfold dropChan
  repeat' first
    | with_reducible assumption | with_reducible exact id | with_reducible apply keeps_dropUsers

theorem keeps_resolveChDestroy {s0 s : State} (h : Keeps s0 s)  :
    Keeps s0 (resolveChDestroy s) := by
  unfold resolveChDestroy
  dsimp only
  repeat' first
    | with_reducible assumption | with_reducible exact id | with_reducible apply keeps_respond
    | with_reducible apply keeps_setChan | with_reducible apply keeps_dropChan
    | with_reducible refine keepsF_upd rfl rfl ?_ ?_ ?_ ?_ ?_ ?_ ?_ ?_ ?_ ?_ | with_reducible exact twf_tput _ _ _ _
    | with_reducible exact fun q => memWf_storeBytes _ _ _ q | with_reducible exact fun _ q => q
    | with_reducible refine Keeps.foldl _ ?_ (fun _ _ _ => ?_) | with_reducible apply lanesOk_getCal | split

theorem keeps_putBack {s0 s : State} (h : Keeps s0 s) (i : Item) : Keeps s0 (putBack s i) := by
  unfold putBack
  refine Keeps.foldl _ h fun u e hu => ?_
  dsimp only
  split
  · exact hu
  · split
    · exact hu
    · simp only [keeps_mk]
      exact keepsF_upd rfl rfl id id id id id id (fun q => memWf_storeBytes _ _ _ q) id id (keeps_setSlot hu _ _)

theorem keeps_finishItem {s0 s : State} (h : Keeps s0 s) (i : Item) (status : Nat) : Keeps s0 (finishItem s i status)
    := by
  unfold finishItem
  dsimp only
  repeat' first
    | with_reducible assumption | with_reducible exact id | with_reducible apply keeps_putBack
    | with_reducible apply keeps_owePost | with_reducible apply keeps_semAdd | with_reducible apply keeps_endChunk
    | with_reducible apply keeps_leaveWindow | with_reducible apply keeps_resolveChDestroy
    | with_reducible apply keeps_resolveForce | with_reducible refine keepsF_upd rfl rfl ?_ ?_ ?_ ?_ ?_ ?_ ?_ ?_ ?_ ?_
    | with_reducible refine Keeps.foldl _ ?_ (fun _ _ _ => ?_) | split | simp only [keeps_mk]

theorem keeps_cancelQueued {s0 s : State} (h : Keeps s0 s) (p : Item → Bool) (status : Nat) : Keeps s0
    (cancelQueued s p status) := by
  unfold cancelQueued
  repeat' first
    | with_reducible assumption | with_reducible apply keeps_finishItem
    | with_reducible refine Keeps.foldl _ ?_ (fun _ _ _ => ?_)

theorem keeps_settle {s0 s : State} (h : Keeps s0 s) (x : Nat) : Keeps s0 (settle s x) := by
  unfold settle
  repeat' first
    | with_reducible exact h | with_reducible apply keeps_finishItem | split

theorem keeps_haltIssue {s0 s : State} (h : Keeps s0 s) (x : Nat) (ofs : Nat) (slot : Nat) (reason : Nat) (detail : Word)
    : Keeps s0 (haltIssue s x ofs slot reason detail) := by
  unfold haltIssue
  repeat' first
    | with_reducible exact h | with_reducible apply keeps_settle | with_reducible apply keeps_muteMoves
    | with_reducible apply keeps_haltCtx

theorem keeps_stopAttempt {s0 s : State} (h : Keeps s0 s) (i : Item) : Keeps s0 (stopAttempt s i) := by
  unfold stopAttempt
  repeat' first
    | with_reducible exact h | with_reducible apply keeps_setItem | with_reducible apply keeps_muteMoves
    | with_reducible apply keeps_updCtx

theorem keeps_readLine {s0 s : State} (h : Keeps s0 s) (c : Nat) (img : BitVec 16) (line : Nat) : Keeps s0 (readLine s
    c img line) := by
  unfold readLine
  repeat' first
    | with_reducible assumption | with_reducible exact id | with_reducible apply keeps_addJob
    | with_reducible refine keepsF_upd rfl rfl ?_ ?_ ?_ ?_ ?_ ?_ ?_ ?_ ?_ ?_ | split

theorem keeps_askLine {s0 s : State} (h : Keeps s0 s) (c : Nat) (img : BitVec 16) (line : Nat) :
    Keeps s0 (askLine s c img line) := by
  unfold askLine
  dsimp only
  repeat' first
    | with_reducible assumption | with_reducible exact id | with_reducible apply keeps_setCal
    | with_reducible apply keeps_readLine | with_reducible refine keepsF_upd rfl rfl ?_ ?_ ?_ ?_ ?_ ?_ ?_ ?_ ?_ ?_
    | with_reducible exact twf_tput _ _ _ _ | with_reducible exact fun q => memWf_storeBytes _ _ _ q
    | with_reducible exact fun _ q => q | with_reducible refine Keeps.foldl _ ?_ (fun _ _ _ => ?_)
    | with_reducible apply lanesOk_getCal | split

theorem keeps_dropFetch {s0 s : State} (h : Keeps s0 s) (c : Nat) (img : BitVec 16) (line : Nat) : Keeps s0 (dropFetch
    s c img line) := by
  unfold dropFetch
  repeat' first
    | with_reducible assumption | with_reducible exact id | with_reducible apply keeps_dropJob
    | with_reducible apply keeps_updCal | with_reducible refine keepsF_upd rfl rfl ?_ ?_ ?_ ?_ ?_ ?_ ?_ ?_ ?_ ?_
    | with_reducible exact fun _ q => q

theorem keeps_touchLines {s0 s : State} (h : Keeps s0 s) (c : Nat) (img : BitVec 16) (ofs : Nat) (n : Nat) : Keeps s0
    (touchLines s c img ofs n) := by
  unfold touchLines
  repeat' first
    | with_reducible exact h | with_reducible apply keeps_updCal | with_reducible exact fun _ q => q

theorem keeps_turnIn {s0 s t : State} (h : Keeps s0 s) {b : Bun} (ht : turnState (turnIn s b) = some t) :
    Keeps s0 t := by
  unfold turnIn at ht
  split at ht <;> (cases ht; exact h)

theorem keeps_enterBundle {s0 s t : State} (h : Keeps s0 s) {x pc : Nat} {img : BitVec 16} {n : Nat}
    (ht : turnState (enterBundle s x pc img n) = some t) : Keeps s0 t := by
  unfold enterBundle at ht
  dsimp only at ht
  repeat' split at ht
  all_goals first
    | (cases ht; exact h)
    | cases ht
    | (refine keeps_turnIn ?_ ht
       first
         | exact keeps_askLine (keeps_touchLines (keeps_setCtx h _ _) _ _ _ _) _ _ _
         | exact keeps_touchLines (keeps_setCtx h _ _) _ _ _ _)

theorem keeps_turn {s0 s t : State} (h : Keeps s0 s) {x : Nat} (ht : turnState (nextTurn s x) = some t) :
    Keeps s0 t := by
  unfold nextTurn at ht
  dsimp only at ht
  split at ht
  · cases ht
  · split at ht
    · cases ht
    · split at ht
      · exact keeps_turnIn h ht
      · split at ht
        · cases ht
        · split at ht
          · split at ht
            · rename_i q hq
              unfold overBundle at hq
              repeat' split at hq
              all_goals cases hq
              all_goals cases ht
              all_goals exact h
            · exact keeps_enterBundle h ht
          · exact keeps_enterBundle h ht

theorem keeps_nextTurn {s0 s t : State} (h : Keeps s0 s) {x : Nat} {k : SlotK} {w ofs : Nat}
    (ht : nextTurn s x = .slot t k w ofs) : Keeps s0 t := keeps_turn h (x := x) (by rw [ht]; rfl)

theorem keeps_endBundle {s0 s : State} (h : Keeps s0 s) (x : Nat) (b : Bun) : Keeps s0 (endBundle s x b) := by
  unfold endBundle
  dsimp only
  repeat' first
    | with_reducible assumption | with_reducible exact id | with_reducible apply keeps_setCtx
    | with_reducible apply keeps_dropPre | with_reducible apply keeps_setItem
    | with_reducible refine keepsF_upd rfl rfl ?_ ?_ ?_ ?_ ?_ ?_ ?_ ?_ ?_ ?_ | split

theorem keeps_endSlot {s0 s : State} (h : Keeps s0 s) (x : Nat) : Keeps s0 (endSlot s x) := by
  unfold endSlot
  dsimp only
  repeat' first
    | with_reducible exact h | with_reducible apply keeps_endBundle | with_reducible apply keeps_setCtx | split

theorem keeps_waitSlot {s0 s : State} (h : Keeps s0 s) (x : Nat) (cause : Nat) : Keeps s0 (waitSlot s x cause) := by
  unfold waitSlot
  repeat' first
    | with_reducible exact h | with_reducible apply keeps_updCtx

theorem keeps_putC {s0 s : State} (h : Keeps s0 s) (x : Nat) (n : Nat) (v : Word) : Keeps s0 (putC s x n v) := by
  unfold putC
  repeat' first
    | with_reducible exact h | with_reducible apply keeps_updCtx

theorem keeps_putK {s0 s : State} (h : Keeps s0 s) (x : Nat) (n : Nat) (v : Bool) : Keeps s0 (putK s x n v) := by
  unfold putK
  repeat' first
    | with_reducible exact h | with_reducible apply keeps_updCtx

theorem keeps_noteParity {s0 s : State} (h : Keeps s0 s) (x : Nat) (f32 : Bool) (ns : List Nat) (rows : List Nat) :
    Keeps s0 (noteParity s x f32 ns rows) := by
  unfold noteParity
  repeat' first
    | with_reducible assumption | with_reducible exact id | with_reducible apply keeps_updCal
    | with_reducible refine keepsF_upd rfl rfl ?_ ?_ ?_ ?_ ?_ ?_ ?_ ?_ ?_ ?_ | with_reducible exact twf_tput _ _ _ _
    | with_reducible exact fun q => memWf_storeBytes _ _ _ q | with_reducible exact fun _ q => q

theorem keeps_occupy {s0 s : State} (h : Keeps s0 s) (x : Nat) (u : Path) (n : Nat) : Keeps s0 (occupy s x u n) := by
  unfold occupy
  repeat' first
    | with_reducible assumption | with_reducible exact id | with_reducible apply keeps_updCal
    | with_reducible refine keepsF_upd rfl rfl ?_ ?_ ?_ ?_ ?_ ?_ ?_ ?_ ?_ ?_ | with_reducible exact fun _ q => q

/-- Slots that change format leave the lanes. -/
theorem lanes_addFmts (f : Bool) (l : List (Nat × Bool)) (k : Cal) :
    (l.foldl (fun k q => setFmt k f q.1) k).lanes = k.lanes := lanes_foldl _ _ _ fun _ _ => rfl

theorem keeps_raiseFrom {s0 s : State} (h : Keeps s0 s) (x : Nat) (img : BitVec 16) (ofs : Nat) (sl : Nat) (f : Fl) :
    Keeps s0 (raiseFrom s x img ofs sl f) := by
  unfold raiseFrom
  dsimp only
  repeat' first
    | with_reducible assumption | with_reducible exact id | with_reducible apply keeps_raiseFlags
    | with_reducible apply keeps_muteMoves | with_reducible refine keepsF_upd rfl rfl ?_ ?_ ?_ ?_ ?_ ?_ ?_ ?_ ?_ ?_
    | with_reducible exact twf_tput _ _ _ _ | with_reducible exact fun q => memWf_storeBytes _ _ _ q
    | with_reducible exact fun _ q => q | with_reducible refine Keeps.foldl _ ?_ (fun _ _ _ => ?_)
    | with_reducible apply lanesOk_getCal | split

theorem keeps_raiseAt {s0 s : State} (h : Keeps s0 s) (x : Nat) (ofs : Nat) (sl : Nat) (f : Fl) :
    Keeps s0 (raiseAt s x ofs sl f) := by
  unfold raiseAt
  repeat' first
    | with_reducible assumption | with_reducible exact id | with_reducible apply keeps_raiseFrom

theorem keeps_addBus {s0 s : State} (h : Keeps s0 s) (x n : Nat) (o : Op) (e : BusEff) :
    Keeps s0 (addBus s x n o e) := by
  unfold addBus
  refine keeps_occupy (keeps_updCal (s := { s with nid := s.nid + 1 }) h _ _ fun k hk => ?_) _ _ _
  rw [lanes_addFmts]
  exact hk

theorem keeps_addOp {s0 s : State} (h : Keeps s0 s) (x n : Nat) (o : Op) : Keeps s0 (addOp s x n o) := by
  unfold addOp
  repeat' first
    | with_reducible assumption | with_reducible exact id | with_reducible apply keeps_occupy
    | with_reducible apply keeps_updCal | with_reducible refine keepsF_upd rfl rfl ?_ ?_ ?_ ?_ ?_ ?_ ?_ ?_ ?_ ?_
    | with_reducible exact fun _ q => q

theorem keeps_macEffect {s0 s : State} (h : Keeps s0 s) (x : Nat) (r : Run) : Keeps s0 (macEffect x s r) := by
  unfold macEffect
  refine keeps_occupy (keeps_updCal (s := { s with nid := s.nid + 1 }) h _ _ fun k hk => ?_) _ _ _
  exact hk

theorem keeps_promoteRun {s0 s : State} (h : Keeps s0 s) (c : Nat) (r : Run) (ups : List Upset) :
    Keeps s0 (promoteRun s c r ups) := by
  have e : LanesOk s0 (sumGroup (getCal s c) r ups).lanes := by
    rw [lanes_sumGroup]
    exact lanesOk_getCal h c
  unfold promoteRun
  generalize sumGroup (getCal s c) r ups = k at e ⊢
  exact keeps_settle (keeps_raiseFrom (keeps_setCal h _ _ (lanesOk_promoted e _ _ _ _ _ _)) _ _ _ _ _) _

theorem keeps_zeroEffect {s0 s : State} (h : Keeps s0 s) (x ofs : Nat) (a : Bool × List Nat × Nat) : Keeps s0
    (zeroEffect x s ofs a) := by
  unfold zeroEffect
  repeat' first
    | with_reducible assumption | with_reducible apply keeps_addBus

theorem keeps_biasEffect {s0 s : State} (h : Keeps s0 s) (x ofs : Nat) (a : Bool × List Nat × Nat × Nat) : Keeps s0
    (biasEffect x s ofs a) := by
  unfold biasEffect
  dsimp only
  repeat' first
    | with_reducible assumption | with_reducible apply keeps_addBus

theorem keeps_planeEffect {s0 s : State} (h : Keeps s0 s) (x ofs : Nat) (a : Bool × Bool × List Nat × Desc × List Nat) :
    Keeps s0 (planeEffect x s ofs a) := by
  unfold planeEffect
  extract_lets k f32 ns val n hs q b v fl
  have hp := keeps_noteParity h x f32 ns allRows
  have hb : LanesOk s0 b.lanes := lanesOk_getCal hp _
  clear_value b q hs v fl n
  have hk := lanesOk_getCal h (ctxCal x)
  change LanesOk s0 k.lanes at hk
  clear_value k
  split
  · refine keeps_raiseAt (keeps_addOp (keeps_setCal hp _ _ ?_) _ _ _) _ _ _ _
    exact hb
  · refine keeps_raiseAt (keeps_addOp (keeps_setCal h _ _ ?_) _ _ _) _ _ _ _
    refine LanesOk.foldl _ hk fun k e hk => ?_
    rw [lanes_setSlotPlane]
    exact hk

theorem keeps_scaleEffect {s0 s : State} (h : Keeps s0 s) (x w ofs : Nat) (a : Nat × Bool × List Nat) : Keeps s0
    (scaleEffect x w ofs s a) := by
  unfold scaleEffect
  dsimp only
  repeat' first
    | with_reducible assumption | with_reducible exact id | with_reducible apply keeps_addBus

theorem keeps_decayEffect {s0 s : State} (h : Keeps s0 s) (x ofs : Nat) (t : Desc × List Nat) : Keeps s0 (decayEffect
    x ofs s t) := by
  unfold decayEffect
  repeat' first
    | with_reducible assumption | with_reducible exact id | with_reducible apply keeps_addOp
    | with_reducible apply keeps_updCal | with_reducible refine keepsF_upd rfl rfl ?_ ?_ ?_ ?_ ?_ ?_ ?_ ?_ ?_ ?_
    | with_reducible exact fun _ q => q

theorem keeps_drainEffect {s0 s : State} (h : Keeps s0 s) (x ofs : Nat) (a : DrainArgs) :
    Keeps s0 (drainEffect x ofs s a) := by
  unfold drainEffect
  exact keeps_addOp (keeps_updCal (keeps_noteParity h _ _ _ _) _ _ fun k hk =>
    LanesOk.foldl _ hk fun _ _ hu => lanesOk_drainRow hu _ _ _) _ _ _

theorem keeps_recircEffect {s0 s : State} (h : Keeps s0 s) (x ofs : Nat) (a : RecircArgs) : Keeps s0 (recircEffect x
    ofs s a) := by
  unfold recircEffect
  dsimp only
  repeat' first
    | with_reducible assumption | with_reducible exact id | with_reducible apply keeps_updCal
    | with_reducible apply keeps_noteParity | with_reducible apply keeps_raiseAt | with_reducible apply keeps_addOp
    | with_reducible refine keepsF_upd rfl rfl ?_ ?_ ?_ ?_ ?_ ?_ ?_ ?_ ?_ ?_ | with_reducible exact fun _ q => q

theorem keeps_gaccEffect {s0 s : State} (h : Keeps s0 s) (x ofs : Nat) (a : Bool × Nat × Nat) : Keeps s0 (gaccEffect x
    ofs s a) := by
  unfold gaccEffect
  dsimp only
  repeat' first
    | with_reducible assumption | with_reducible exact id | with_reducible apply keeps_raiseAt
    | with_reducible apply keeps_addOp | with_reducible apply keeps_updCal | with_reducible apply keeps_noteParity
    | with_reducible refine keepsF_upd rfl rfl ?_ ?_ ?_ ?_ ?_ ?_ ?_ ?_ ?_ ?_ | with_reducible exact fun _ q => q

theorem keeps_placeResult {s0 s : State} (h : Keeps s0 s) (c : Nat) (o : Op) : Keeps s0 (placeResult s c o) := by
  unfold placeResult
  extract_lets k ops q bad
  have hq : q.1.lanes = k.lanes := by
    dsimp only [q]
    split
    · rfl
    · exact lanes_busEffect _ _
  clear_value q ops bad
  refine keeps_settle (keeps_raiseFrom (keeps_setCal h _ _ ?_) _ _ _ _ _) _
  rw [show LanesOk s0 q.1.lanes = LanesOk s0 k.lanes by rw [hq]]
  exact lanesOk_getCal h c

theorem keeps_laneEffect {s0 s : State} (h : Keeps s0 s) (u : Path) (sl x ofs : Nat) (i : Item) (w : Nat) (o : VecOp)
    (ho : WorkOk o) : Keeps s0 (laneEffect u sl x ofs i s w o) :=
  keeps_raiseAt (keeps_addOp (keeps_updCtx (keeps_setCal h _ _ (lanesOk_vecWork h x ho _)) _ _) _ _ _) _ _ _ _

theorem keeps_vecEffect {s0 s : State} (h : Keeps s0 s) (x ofs : Nat) (i : Item) (w : Nat) (o : VecOp) (ho : WorkOk o) :
    Keeps s0 (vecEffect x ofs i s w o) := keeps_laneEffect h _ _ _ _ _ _ _ ho

theorem keeps_sfuEffect {s0 s : State} (h : Keeps s0 s) (x ofs : Nat) (i : Item) (w : Nat) (o : VecOp) (ho : WorkOk o) :
    Keeps s0 (sfuEffect x ofs i s w o) := keeps_laneEffect h _ _ _ _ _ _ _ ho

theorem keeps_processNext {s0 s : State} (h : Keeps s0 s) (o : Op) (r : LaneRest) (i : Item) (v : VecOp) (hv : WorkOk v) :
    Keeps s0 (processNext s o r i v) := by
  unfold processNext
  extract_lets c q o'
  have hq : LanesOk s0 q.1.lanes := hv _ _ _ _ (lanesOk_getCal h _)
  clear_value o'
  generalize q = p at hq ⊢
  have hp : LanesOk s0 (replaceOp p.1 o (some o')).lanes := hq
  exact keeps_raiseFrom (keeps_updCtx (keeps_setCal h _ _ hp) _ _) _ _ _ _ _

theorem keeps_semRelease {s0 s : State} (h : Keeps s0 s) (i : Item) (k : Nat) (n : Nat) (shared : Bool) : Keeps s0
    (semRelease s i k n shared) := by
  unfold semRelease
  repeat' first
    | with_reducible exact h | with_reducible apply keeps_setItem | with_reducible apply keeps_semAdd | split

theorem keeps_acqEffect {s0 s : State} (h : Keeps s0 s) (i : Item) (a : Nat × Bool × Nat) : Keeps s0
    (acqEffect i s a) := by
  unfold acqEffect
  repeat' first
    | with_reducible exact h | with_reducible apply keeps_setItem | with_reducible apply keeps_updSem | split

theorem keeps_waitingAcq {s0 s t : State} (h : Keeps s0 s) {x : Nat} {a : Nat × Nat}
    (ht : waitingAcq s x = some (t, a)) : Keeps s0 t := by
  unfold waitingAcq at ht
  split at ht
  · rename_i hn _
    split at ht
    · split at ht
      · split at ht
        · cases ht
        · cases ht
          exact keeps_nextTurn h hn
      · cases ht
    · cases ht
  · cases ht

theorem keeps_grantAcqs {s0 s : State} (h : Keeps s0 s) (k : Nat) (l : List Nat) : Keeps s0 (grantAcqs k s l) := by
  induction l generalizing s with
  | nil => exact h
  | cons x r ih =>
    unfold grantAcqs
    split
    · split
      · exact ih h
      · split
        · exact h
        · exact ih (keeps_settle (keeps_endSlot (keeps_updSem (keeps_waitingAcq h ‹_›) _ _) _) _)
    · exact ih h

theorem keeps_feedEffect {s0 s : State} (h : Keeps s0 s) (x : Nat) (a : FeedArgs) : Keeps s0 (feedEffect x s a) := by
  unfold feedEffect
  repeat' first
    | with_reducible exact h | with_reducible apply keeps_updCal | with_reducible exact fun _ q => q

theorem keeps_peerRead {s0 s : State} (h : Keeps s0 s) (q : Nat) (u : User) (a n o : Nat) :
    Keeps s0 (peerRead s q u a n o).1 := by
  unfold peerRead
  dsimp only
  exact Keeps.foldl _ h fun _ _ hu => keeps_sendRequest hu _ _ _ _ _

theorem keeps_sendElem {s0 s : State} (h : Keeps s0 s) (t : Xfer) (a : Nat) (bs : List Byte) (last : Bool) : Keeps s0
    (sendElem s t a bs last) := by
  unfold sendElem
  repeat' first
    | with_reducible exact h | with_reducible apply keeps_sendRequest | split

theorem keeps_foldPair {s0 : State} {α β : Type} (f : State × β → α → State × β) (l : List α) (q : State × β)
    (h : Keeps s0 q.1) (hf : ∀ q a, Keeps s0 q.1 → Keeps s0 (f q a).1) : Keeps s0 (l.foldl f q).1 := by
  induction l generalizing q with
  | nil => exact h
  | cons a r ih => exact ih _ (hf q a h)

theorem keeps_updAdds {s0 s : State} (h : Keeps s0 s) (n : Nat) (f : List AtomOp → List AtomOp) : Keeps s0 (updAdds s
    n f) := by
  unfold updAdds
  dsimp only
  repeat' first
    | with_reducible assumption | with_reducible exact id | with_reducible apply keeps_setMemCh

theorem keeps_arriveAdd {s0 s : State} (h : Keeps s0 s) (u : User) (a fmt : Nat) (v : List Byte) : Keeps s0 (arriveAdd
    s u a fmt v) := by
  unfold arriveAdd
  repeat' first
    | with_reducible assumption | with_reducible exact id | with_reducible apply keeps_updAdds
    | with_reducible refine keepsF_upd rfl rfl ?_ ?_ ?_ ?_ ?_ ?_ ?_ ?_ ?_ ?_ | simp only [keeps_mk]

theorem keeps_startAdd {s0 s : State} (h : Keeps s0 s) (n : Nat) (o : AtomOp) : Keeps s0 (startAdd s n o) := by
  unfold startAdd
  repeat' first
    | with_reducible assumption | with_reducible exact id | with_reducible apply keeps_addJob
    | with_reducible apply keeps_updAdds

theorem keeps_startAdds {s0 s : State} (h : Keeps s0 s) : Keeps s0 (startAdds s) := by
  unfold startAdds
  repeat' first
    | with_reducible assumption | with_reducible apply keeps_startAdd
    | with_reducible refine Keeps.foldl _ ?_ (fun _ _ _ => ?_)

theorem keeps_noteAdd {s0 s : State} (h : Keeps s0 s) (t : Xfer) : Keeps s0 (noteAdd s t) := by
  unfold noteAdd
  repeat' first
    | with_reducible exact h | with_reducible apply keeps_setItem | split

theorem keeps_creditAdd {s0 s : State} (h : Keeps s0 s) (o : AtomOp) (bad : Bool) : Keeps s0 (creditAdd s o bad) := by
  unfold creditAdd
  dsimp only
  repeat' first
    | with_reducible assumption | with_reducible exact id | with_reducible apply keeps_updXfer
    | with_reducible apply keeps_noteAdd
    | with_reducible refine keepsF_upd rfl rfl ?_ ?_ ?_ ?_ ?_ ?_ ?_ ?_ ?_ ?_ | split | simp only [keeps_mk]

theorem keeps_goAdd {s0 s : State} (h : Keeps s0 s) (n : Nat) (o : AtomOp) : Keeps s0 (goAdd s n o) := by
  unfold goAdd
  dsimp only
  repeat' first
    | with_reducible assumption | with_reducible exact id | with_reducible apply keeps_addJob
    | with_reducible apply keeps_updAdds | with_reducible apply keeps_dropJob | with_reducible apply keeps_creditAdd
    | with_reducible refine keepsF_upd rfl rfl ?_ ?_ ?_ ?_ ?_ ?_ ?_ ?_ ?_ ?_ | split

theorem keeps_goAdds {s0 s : State} (h : Keeps s0 s) : Keeps s0 (goAdds s) := by
  unfold goAdds
  repeat' first
    | with_reducible assumption | with_reducible apply keeps_startAdds | with_reducible apply keeps_goAdd
    | with_reducible refine Keeps.foldl _ ?_ (fun _ _ _ => ?_)

theorem keeps_setHead {s0 s : State} (h : Keeps s0 s) (e : Nat) (t : Xfer) : Keeps s0 (setHead s e t) := by
  unfold setHead
  repeat' first
    | with_reducible exact h | with_reducible apply keeps_setEng

theorem keeps_notePorts {s0 s : State} (h : Keeps s0 s) (t : Xfer) (ns : List Nat) : Keeps s0 (notePorts s t ns) := by
  unfold notePorts
  repeat' first
    | with_reducible assumption | with_reducible exact id | with_reducible apply keeps_setItem
    | with_reducible refine keepsF_upd rfl rfl ?_ ?_ ?_ ?_ ?_ ?_ ?_ ?_ ?_ ?_ | split

theorem keeps_writeXfer {s0 s : State} (h : Keeps s0 s) (e : Nat) (t0 : Xfer) :
    Keeps s0 (writeXfer s e t0) := by
  unfold writeXfer
  dsimp only
  repeat' first
    | with_reducible assumption | with_reducible exact id | with_reducible apply keeps_setHead
    | with_reducible apply keeps_sendElem | with_reducible apply keeps_noteAdd | with_reducible apply keeps_notePorts
    | with_reducible apply keeps_addJob | with_reducible apply keeps_dropJob
    | with_reducible refine keepsF_upd rfl rfl ?_ ?_ ?_ ?_ ?_ ?_ ?_ ?_ ?_ ?_ | with_reducible exact twf_tput _ _ _ _
    | with_reducible exact fun q => memWf_storeBytes _ _ _ q | with_reducible exact fun _ q => q
    | with_reducible refine Keeps.foldl _ ?_ (fun _ _ _ => ?_) | with_reducible apply lanesOk_getCal | split

theorem keeps_goXfer {s0 s : State} (h : Keeps s0 s) (e : Nat) : Keeps s0 (goXfer s e) := by
  unfold goXfer
  repeat' first
    | with_reducible assumption | with_reducible exact id | with_reducible apply keeps_writeXfer
    | with_reducible refine keepsF_upd rfl rfl ?_ ?_ ?_ ?_ ?_ ?_ ?_ ?_ ?_ ?_ | split

theorem keeps_goXfers {s0 s : State} (h : Keeps s0 s) : Keeps s0 (goXfers s) := by
  unfold goXfers
  repeat' first
    | with_reducible assumption | with_reducible apply keeps_goXfer
    | with_reducible refine Keeps.foldl _ ?_ (fun _ _ _ => ?_)

theorem keeps_readPeer {s0 s : State} (h : Keeps s0 s) (t : Xfer) : Keeps s0 (readPeer s t).1 :=
  keeps_foldPair _ _ _ h fun _ _ hq => keeps_peerRead hq _ _ _ _ _

theorem keeps_startXfer {s0 s : State} (h : Keeps s0 s) (e : Nat) (t : Xfer) :
    Keeps s0 (startXfer s e t) := by
  unfold startXfer
  dsimp only
  repeat' first
    | with_reducible assumption | with_reducible exact id | with_reducible apply keeps_setHead
    | with_reducible apply keeps_addJob | with_reducible apply keeps_readPeer | with_reducible apply keeps_goXfer
    | with_reducible refine keepsF_upd rfl rfl ?_ ?_ ?_ ?_ ?_ ?_ ?_ ?_ ?_ ?_ | with_reducible exact twf_tput _ _ _ _
    | with_reducible exact fun q => memWf_storeBytes _ _ _ q | with_reducible exact fun _ q => q
    | with_reducible refine Keeps.foldl _ ?_ (fun _ _ _ => ?_) | with_reducible apply lanesOk_getCal | split

theorem keeps_startHead {s0 s : State} (h : Keeps s0 s) (e : Nat) : Keeps s0 (startHead s e) := by
  unfold startHead
  repeat' first
    | with_reducible exact h | with_reducible apply keeps_startXfer | split

theorem keeps_reserveSem {s0 s : State} (h : Keeps s0 s) (x : Nat) (sem : Option Nat) : Keeps s0
    (reserveSem s x sem) := by
  unfold reserveSem
  repeat' first
    | with_reducible exact h | with_reducible apply keeps_setItem | split

theorem keeps_enterEng {s0 s : State} (h : Keeps s0 s) (e : Nat) (t : Xfer) :
    Keeps s0 (enterEng s e t) := by
  unfold enterEng
  dsimp only
  repeat' first
    | with_reducible assumption | with_reducible exact id | with_reducible apply keeps_setEng
    | with_reducible apply keeps_startHead | with_reducible refine keepsF_upd rfl rfl ?_ ?_ ?_ ?_ ?_ ?_ ?_ ?_ ?_ ?_
    | with_reducible exact twf_tput _ _ _ _ | with_reducible exact fun q => memWf_storeBytes _ _ _ q
    | with_reducible exact fun _ q => q | with_reducible refine Keeps.foldl _ ?_ (fun _ _ _ => ?_)
    | with_reducible apply lanesOk_getCal | split | simp only [keeps_mk]

theorem keeps_issueVent {s0 s : State} (h : Keeps s0 s) (x : Nat) (t : Xfer) :
    Keeps s0 (issueVent x s t) := by
  unfold issueVent
  dsimp only
  repeat' first
    | with_reducible assumption | with_reducible exact id | with_reducible apply keeps_reserveSem
    | with_reducible refine keepsF_upd rfl rfl ?_ ?_ ?_ ?_ ?_ ?_ ?_ ?_ ?_ ?_ | with_reducible exact twf_tput _ _ _ _
    | with_reducible exact fun q => memWf_storeBytes _ _ _ q | with_reducible exact fun _ q => q
    | with_reducible refine Keeps.foldl _ ?_ (fun _ _ _ => ?_) | with_reducible apply lanesOk_getCal | split
    | simp only [keeps_mk]

theorem keeps_ventEffect {s0 s : State} (h : Keeps s0 s) (x : Nat) (a : Nat × Xfer) :
    Keeps s0 (ventEffect x s a) := by
  unfold ventEffect
  repeat' first
    | with_reducible assumption | with_reducible exact id | with_reducible apply keeps_enterEng
    | with_reducible apply keeps_issueVent

theorem keeps_reachPrefetch {s0 s : State} (h : Keeps s0 s) (x : Nat) (ofs : Nat) : Keeps s0 (reachPrefetch s x ofs) := by
  unfold reachPrefetch
  repeat' first
    | with_reducible assumption | with_reducible apply keeps_updCtx | with_reducible apply keeps_setEng
    | with_reducible apply keeps_updCal | with_reducible refine Keeps.foldl _ ?_ (fun _ _ _ => ?_)
    | with_reducible exact fun _ q => q

theorem keeps_moveElems {s0 s : State} (h : Keeps s0 s) (t : Xfer) :
    Keeps s0 (moveElems s t) := by
  unfold moveElems
  repeat' first
    | with_reducible assumption | with_reducible exact id | with_reducible apply keeps_updCal
    | with_reducible refine keepsF_upd rfl rfl ?_ ?_ ?_ ?_ ?_ ?_ ?_ ?_ ?_ ?_ | with_reducible exact twf_tput _ _ _ _
    | with_reducible exact fun q => memWf_storeBytes _ _ _ q | with_reducible exact fun _ q => q
    | with_reducible refine Keeps.foldl _ ?_ (fun _ _ _ => ?_)

theorem keeps_popXfer {s0 s : State} (h : Keeps s0 s) (e : Nat) (t : Xfer) : Keeps s0 (popXfer s e t) := by
  unfold popXfer
  repeat' first
    | with_reducible exact h | with_reducible apply keeps_startHead | with_reducible apply keeps_setEng
    | with_reducible apply keeps_dropJob

theorem keeps_signal {s0 s : State} (h : Keeps s0 s) (x : Nat) (sem : Option Nat) : Keeps s0 (signal s x sem) := by
  unfold signal
  dsimp only
  repeat' first
    | with_reducible exact h | with_reducible apply keeps_semAdd | with_reducible apply keeps_setItem | split

theorem keeps_moveHalt {s0 s : State} (h : Keeps s0 s) (x : Nat) (img : BitVec 16) (ofs : Nat) (mute : Bool) (q : Stop) :
    Keeps s0 (moveHalt s x img ofs mute q) := by
  unfold moveHalt
  repeat' first
    | with_reducible assumption | with_reducible exact id | with_reducible apply keeps_muteMoves
    | with_reducible apply keeps_haltFrom | with_reducible refine keepsF_upd rfl rfl ?_ ?_ ?_ ?_ ?_ ?_ ?_ ?_ ?_ ?_
    | with_reducible exact twf_tput _ _ _ _ | with_reducible exact fun q => memWf_storeBytes _ _ _ q
    | with_reducible exact fun _ q => q | with_reducible refine Keeps.foldl _ ?_ (fun _ _ _ => ?_)
    | with_reducible apply lanesOk_getCal | split

theorem keeps_failedXfer {s0 s : State} (h : Keeps s0 s) (t : Xfer) :
    Keeps s0 (failedXfer s t) := by
  unfold failedXfer
  repeat' first
    | with_reducible assumption | with_reducible exact id | with_reducible apply keeps_moveHalt
    | with_reducible refine keepsF_upd rfl rfl ?_ ?_ ?_ ?_ ?_ ?_ ?_ ?_ ?_ ?_ | with_reducible exact twf_tput _ _ _ _
    | with_reducible exact fun q => memWf_storeBytes _ _ _ q | with_reducible exact fun _ q => q
    | with_reducible refine Keeps.foldl _ ?_ (fun _ _ _ => ?_) | with_reducible apply lanesOk_getCal | split

theorem keeps_lateFlags {s0 s : State} (h : Keeps s0 s) (t : Xfer) : Keeps s0 (lateFlags s t) := by
  unfold lateFlags
  repeat' first
    | with_reducible assumption | with_reducible exact id | with_reducible apply keeps_updCtx
    | with_reducible refine keepsF_upd rfl rfl ?_ ?_ ?_ ?_ ?_ ?_ ?_ ?_ ?_ ?_ | split

theorem keeps_enterAhead {s0 s : State} (h : Keeps s0 s) (e : Nat) :
    Keeps s0 (enterAhead s e) := by
  unfold enterAhead
  repeat' first
    | with_reducible assumption | with_reducible exact id | with_reducible apply keeps_enterEng
    | with_reducible apply keeps_updCal | with_reducible refine keepsF_upd rfl rfl ?_ ?_ ?_ ?_ ?_ ?_ ?_ ?_ ?_ ?_
    | with_reducible exact twf_tput _ _ _ _ | with_reducible exact fun q => memWf_storeBytes _ _ _ q
    | with_reducible exact fun _ q => q | with_reducible refine Keeps.foldl _ ?_ (fun _ _ _ => ?_)
    | with_reducible apply lanesOk_getCal | split

theorem keeps_completeXfer {s0 s : State} (h : Keeps s0 s) (e : Nat) (t : Xfer) :
    Keeps s0 (completeXfer s e t) := by
  unfold completeXfer
  dsimp only
  repeat' first
    | with_reducible assumption | with_reducible exact id | with_reducible apply keeps_enterAhead
    | with_reducible apply keeps_startHead | with_reducible apply keeps_failedXfer | with_reducible apply keeps_popXfer
    | with_reducible apply keeps_moveElems | with_reducible apply keeps_moveHalt | with_reducible apply keeps_lateFlags
    | with_reducible apply keeps_raiseFrom | with_reducible apply keeps_signal
    | with_reducible refine keepsF_upd rfl rfl ?_ ?_ ?_ ?_ ?_ ?_ ?_ ?_ ?_ ?_ | with_reducible exact twf_tput _ _ _ _
    | with_reducible exact fun q => memWf_storeBytes _ _ _ q | with_reducible exact fun _ q => q
    | with_reducible refine Keeps.foldl _ ?_ (fun _ _ _ => ?_) | with_reducible apply lanesOk_getCal | split

theorem keeps_addAt {s0 s : State} (h : Keeps s0 s) (e : Nat) (t : Xfer) (p : Nat × Nat) : Keeps s0 (addAt s e t p) :=
    by
  unfold addAt
  dsimp only
  repeat' first
    | with_reducible assumption | with_reducible exact id | with_reducible apply keeps_setHead
    | with_reducible apply keeps_updCal | with_reducible apply keeps_arriveAdd | with_reducible apply keeps_noteAdd
    | with_reducible refine keepsF_upd rfl rfl ?_ ?_ ?_ ?_ ?_ ?_ ?_ ?_ ?_ ?_ | with_reducible exact fun _ q => q
    | split

theorem keeps_addNext {s0 s : State} (h : Keeps s0 s) (e : Nat) (t : Xfer) :
    Keeps s0 (addNext s e t) := by
  unfold addNext
  dsimp only
  repeat' first
    | with_reducible assumption | with_reducible exact id | with_reducible apply keeps_moveHalt
    | with_reducible apply keeps_setHead | with_reducible apply keeps_goXfer | with_reducible apply keeps_goAdds
    | with_reducible apply keeps_addAt | with_reducible refine keepsF_upd rfl rfl ?_ ?_ ?_ ?_ ?_ ?_ ?_ ?_ ?_ ?_
    | with_reducible exact twf_tput _ _ _ _ | with_reducible exact fun q => memWf_storeBytes _ _ _ q
    | with_reducible exact fun _ q => q | with_reducible refine Keeps.foldl _ ?_ (fun _ _ _ => ?_)
    | with_reducible apply lanesOk_getCal | split

theorem keeps_readRows {s0 s : State} (h : Keeps s0 s) (l : Lookup) : Keeps s0 (readRows s l).1 := by
  unfold readRows
  dsimp only
  split
  · exact h
  · split
    · exact keeps_foldPair _ _ _ h fun _ _ hq => keeps_peerRead hq _ _ _ _ _
    · exact keeps_addJob (keeps_dropJob h _) _ _

theorem keeps_gatherEffect {s0 s : State} (h : Keeps s0 s) (x : Nat) (l : Lookup) :
    Keeps s0 (gatherEffect x s l) := by
  unfold gatherEffect
  dsimp only
  refine keeps_updCal (keeps_readRows ?_ _) _ _ fun _ hk => hk
  simp only [keeps_mk]
  exact keepsF_upd rfl rfl id id id id id id id id id (keeps_reserveSem h _ _)

theorem keeps_touchSector {s0 s : State} (h : Keeps s0 s) (table : Nat) (gen : Nat) (row : Nat) (k : Nat) (b : List Byte)
    : Keeps s0 (touchSector s table gen row k b) := by
  unfold touchSector
  repeat' first
    | with_reducible exact h | with_reducible exact id
    | with_reducible refine keepsF_upd rfl rfl ?_ ?_ ?_ ?_ ?_ ?_ ?_ ?_ ?_ ?_ | simp only [keeps_mk]

theorem keeps_putRow {s0 s : State} (h : Keeps s0 s) (l : Lookup) (m : Nat) (bs : List Byte) :
    Keeps s0 (putRow s l m bs) := keeps_updCal h _ _ fun _ hk => hk

theorem keeps_landRow {s0 s : State} (h : Keeps s0 s) (l : Lookup) (e : Nat × Nat × List Byte) :
    Keeps s0 (landRow l s e) := by
  unfold landRow
  dsimp only
  split
  · exact keeps_putRow h _ _ _
  · exact Keeps.foldl _ (keeps_putRow h _ _ _) fun _ _ hu => keeps_touchSector hu _ _ _ _ _

theorem keeps_lookRows {s0 s : State} (h : Keeps s0 s) (l : Lookup) : Keeps s0 (lookRows s l).1 :=
  Keeps.foldl _ h fun _ _ hu => keeps_landRow hu _ _

theorem keeps_popLook {s0 s : State} (h : Keeps s0 s) (c : Nat) (l : Lookup) :
    Keeps s0 (popLook s c l) := by
  unfold popLook
  repeat' first
    | with_reducible assumption | with_reducible exact id | with_reducible apply keeps_dropJob
    | with_reducible apply keeps_updCal | with_reducible refine keepsF_upd rfl rfl ?_ ?_ ?_ ?_ ?_ ?_ ?_ ?_ ?_ ?_
    | with_reducible exact twf_tput _ _ _ _ | with_reducible exact fun q => memWf_storeBytes _ _ _ q
    | with_reducible exact fun _ q => q

theorem keeps_completeLook {s0 s : State} (h : Keeps s0 s) (c : Nat) (l : Lookup) :
    Keeps s0 (completeLook s c l) := by
  unfold completeLook
  dsimp only
  split
  · exact keeps_popLook h _ _
  · repeat' first
      | with_reducible apply keeps_moveHalt | with_reducible apply keeps_signal | with_reducible apply keeps_popLook
      | exact keeps_lookRows h l | split

theorem keeps_issueAhead {s0 s : State} (h : Keeps s0 s) (x : Nat) (a : Nat × Xfer) :
    Keeps s0 (issueAhead x s a) := by
  unfold issueAhead
  dsimp only
  repeat' first
    | with_reducible assumption | with_reducible exact id | with_reducible apply keeps_issueVent
    | with_reducible apply keeps_updCal | with_reducible apply keeps_enterEng
    | with_reducible refine keepsF_upd rfl rfl ?_ ?_ ?_ ?_ ?_ ?_ ?_ ?_ ?_ ?_ | with_reducible exact twf_tput _ _ _ _
    | with_reducible exact fun q => memWf_storeBytes _ _ _ q | with_reducible exact fun _ q => q
    | with_reducible refine Keeps.foldl _ ?_ (fun _ _ _ => ?_) | with_reducible apply lanesOk_getCal | split

theorem keeps_prefetchSlot {s0 s : State} (h : Keeps s0 s) (x : Nat) (i : Item) (p : Walk) (no : Nat) (w : Nat) :
    Keeps s0 (prefetchSlot s x i p no w) := by
  unfold prefetchSlot
  dsimp only
  repeat' first
    | with_reducible assumption | with_reducible exact id | with_reducible apply keeps_updCtx
    | with_reducible apply keeps_issueAhead | with_reducible apply keeps_gatherEffect
    | with_reducible refine keepsF_upd rfl rfl ?_ ?_ ?_ ?_ ?_ ?_ ?_ ?_ ?_ ?_ | with_reducible exact twf_tput _ _ _ _
    | with_reducible exact fun q => memWf_storeBytes _ _ _ q | with_reducible exact fun _ q => q
    | with_reducible refine Keeps.foldl _ ?_ (fun _ _ _ => ?_) | with_reducible apply lanesOk_getCal | split

theorem keeps_publish {s0 s : State} (h : Keeps s0 s) {p : Nat} {r : BitVec 16} {ofs n : Nat} {bytes : Mem}
    {q : State × BitVec 16} (hq : publish s p r ofs n bytes = .ok q) : Keeps s0 q.1 := by
  unfold publish at hq
  dsimp only at hq
  repeat' split at hq
  all_goals first
    | (cases hq; exact keeps_setImage h _ _)
    | cases hq

theorem keeps_capture {s0 s : State} (h : Keeps s0 s) (level : Nat) (target : Nat) (trigger : Nat) (ctx : Option Nat)
    : Keeps s0 (capture s level target trigger ctx) := by
  unfold capture
  repeat' first
    | with_reducible exact h | with_reducible exact id
    | with_reducible refine keepsF_upd rfl rfl ?_ ?_ ?_ ?_ ?_ ?_ ?_ ?_ ?_ ?_ | split | simp only [keeps_mk]

theorem keeps_startStep {s0 s : State} (h : Keeps s0 s) (level : Nat) (target : Nat) (trigger : Nat) (ctx : Option Nat) (mbs : List Nat) :
    Keeps s0 (startStep s level target trigger ctx mbs) := by
  unfold startStep
  dsimp only
  repeat' first
    | with_reducible assumption | with_reducible exact id | with_reducible apply keeps_setLastStep
    | with_reducible apply keeps_raiseFatal | with_reducible apply keeps_capture
    | with_reducible refine keepsF_upd rfl rfl ?_ ?_ ?_ ?_ ?_ ?_ ?_ ?_ ?_ ?_ | with_reducible exact twf_tput _ _ _ _
    | with_reducible exact fun q => memWf_storeBytes _ _ _ q | with_reducible exact fun _ q => q
    | with_reducible refine Keeps.foldl _ ?_ (fun _ _ _ => ?_) | with_reducible apply lanesOk_getCal | split
    | simp only [keeps_mk]

theorem keeps_endStep {s0 s : State} (h : Keeps s0 s) (q : LStep) : Keeps s0 (endStep s q) := by
  unfold endStep
  repeat' first
    | with_reducible assumption | with_reducible exact id | with_reducible apply keeps_respond
    | with_reducible refine keepsF_upd rfl rfl ?_ ?_ ?_ ?_ ?_ ?_ ?_ ?_ ?_ ?_
    | with_reducible refine Keeps.foldl _ ?_ (fun _ _ _ => ?_) | split | simp only [keeps_mk]

theorem keeps_purgeCtx {s0 s : State} (h : Keeps s0 s) (x : Nat) : Keeps s0 (purgeCtx s x) := by
  unfold purgeCtx
  dsimp only
  repeat' first
    | with_reducible assumption | with_reducible exact id | with_reducible apply keeps_updCal
    | with_reducible apply keeps_muteMoves | with_reducible apply keeps_startHead
    | with_reducible refine keepsF_upd rfl rfl ?_ ?_ ?_ ?_ ?_ ?_ ?_ ?_ ?_ ?_ | with_reducible exact fun _ q => q
    | with_reducible refine Keeps.foldl _ ?_ (fun _ _ _ => ?_)

theorem keeps_dropXfers {s0 s : State} (h : Keeps s0 s) (p : Xfer → Bool) : Keeps s0 (dropXfers s p) := by
  unfold dropXfers
  dsimp only
  repeat' first
    | with_reducible assumption | with_reducible apply keeps_setEng | with_reducible apply keeps_startHead
    | with_reducible apply keeps_dropJob | with_reducible refine Keeps.foldl _ ?_ (fun _ _ _ => ?_) | split

theorem keeps_dropLooks {s0 s : State} (h : Keeps s0 s) (c : Nat) : Keeps s0 (dropLooks s c) := by
  unfold dropLooks
  repeat' first
    | with_reducible assumption | with_reducible exact id | with_reducible apply keeps_dropJob
    | with_reducible apply keeps_updCal | with_reducible refine keepsF_upd rfl rfl ?_ ?_ ?_ ?_ ?_ ?_ ?_ ?_ ?_ ?_
    | with_reducible exact fun _ q => q | with_reducible refine Keeps.foldl _ ?_ (fun _ _ _ => ?_)

theorem keeps_abortItem {s0 s : State} (h : Keeps s0 s) (i : Item) : Keeps s0 (abortItem s i) := by
  unfold abortItem
  repeat' first
    | with_reducible exact h | with_reducible apply keeps_finishItem | with_reducible apply keeps_setItem
    | with_reducible apply keeps_setCtx

theorem keeps_ctxReset {s0 s : State} (h : Keeps s0 s) (x : Nat) : Keeps s0 (ctxReset s x) := by
  unfold ctxReset
  repeat' first
    | with_reducible exact h | with_reducible apply keeps_abortItem | with_reducible apply keeps_updCtx
    | with_reducible apply keeps_purgeCtx | split

theorem keeps_evictCal {s0 s : State} (h : Keeps s0 s) (c : Nat) : Keeps s0 (evictCal s c) := by
  unfold evictCal
  repeat' first
    | with_reducible exact h | with_reducible exact id
    | with_reducible refine keepsF_upd rfl rfl ?_ ?_ ?_ ?_ ?_ ?_ ?_ ?_ ?_ ?_
    | with_reducible exact fun _ => twf_tmap _ _ _ | simp only [keeps_mk]

theorem keeps_engReset {s0 s : State} (h : Keeps s0 s) (c : Nat) : Keeps s0 (engReset s c) := by
  unfold engReset
  exact keeps_evictCal (keeps_updCal (Keeps.foldl _ (Keeps.foldl _ (Keeps.foldl _ h fun _ _ hu => keeps_ctxReset hu _)
    fun _ _ hu => keeps_dropJob hu _) fun _ _ hu => keeps_dropJob hu _) _ _ fun _ _ => lanesOk_nil _) _

theorem keeps_dropObjects {s0 s : State} (h : Keeps s0 s) (p : Nat) :
    Keeps s0 (dropObjects s p) := by
  unfold dropObjects
  dsimp only
  repeat' first
    | with_reducible assumption | with_reducible exact id | with_reducible apply keeps_dropUsers
    | with_reducible refine keepsF_upd rfl rfl ?_ ?_ ?_ ?_ ?_ ?_ ?_ ?_ ?_ ?_ | with_reducible exact twf_tput _ _ _ _
    | with_reducible exact fun _ => twf_tmap _ _ _ | with_reducible exact fun q => memWf_storeBytes _ _ _ q
    | with_reducible exact fun _ q => q | with_reducible refine Keeps.foldl _ ?_ (fun _ _ _ => ?_)
    | with_reducible apply lanesOk_getCal | split | simp only [keeps_mk]

theorem keeps_dropStreams {s0 s : State} (h : Keeps s0 s) (p : Nat) : Keeps s0 (dropStreams s p) := by
  unfold dropStreams
  dsimp only
  simp only [keeps_mk]
  exact keepsF_upd rfl rfl id id id (fun _ => twf_tmap _ _ _) id id
    (fun q => memWf_foldl _ _ _ q fun _ _ hu => memWf_clearRange _ _ _ hu) id id h

theorem keeps_partReset {s0 s : State} (h : Keeps s0 s) (p : Nat) (keep : List Nat) : Keeps s0 (partReset s p keep) :=
    by
  unfold partReset
  dsimp only
  repeat' first
    | with_reducible assumption | with_reducible exact id | with_reducible apply keeps_dropXfers
    | with_reducible apply keeps_engReset | with_reducible apply keeps_dropLooks | with_reducible apply keeps_updCal
    | with_reducible apply keeps_setCtx | with_reducible apply keeps_dropStreams
    | with_reducible apply keeps_dropObjects | with_reducible apply keeps_updPart | with_reducible apply keeps_setMb
    | with_reducible refine keepsF_upd rfl rfl ?_ ?_ ?_ ?_ ?_ ?_ ?_ ?_ ?_ ?_ | with_reducible exact fun _ q => q
    | with_reducible refine Keeps.foldl _ ?_ (fun _ _ _ => ?_) | simp only [keeps_mk]

theorem keeps_wiped {s0 s : State} (h : Keeps s0 s) (b : Bool) : Keeps s0 (wiped s b) := by
  unfold wiped
  simp only [keeps_mk]
  refine ⟨h.1, fun h0 => ⟨⟨(h.2 h0).1.1, (h.2 h0).1.2.1, rfl⟩, rfl, rfl, rfl, rfl, rfl, rfl, rfl, fun _ => rfl⟩⟩

theorem keeps_holdEnd {s0 s : State} (h : Keeps s0 s)  : Keeps s0 (holdEnd s) := by
  unfold holdEnd
  repeat' first
    | with_reducible exact h | with_reducible exact id
    | with_reducible refine keepsF_upd rfl rfl ?_ ?_ ?_ ?_ ?_ ?_ ?_ ?_ ?_ ?_ | simp only [keeps_mk]

theorem keeps_samplePhase {s0 s : State} (h : Keeps s0 s)  : Keeps s0 (samplePhase s) := by
  unfold samplePhase
  repeat' first
    | with_reducible exact h | with_reducible exact id | with_reducible apply keeps_holdEnd
    | with_reducible refine keepsF_upd rfl rfl ?_ ?_ ?_ ?_ ?_ ?_ ?_ ?_ ?_ ?_ | split | simp only [keeps_mk]

theorem keeps_blockWipe {s0 s : State} (h : Keeps s0 s)  :
    Keeps s0 (blockWipe s) := by
  unfold blockWipe
  repeat' first
    | with_reducible assumption | with_reducible exact id | with_reducible apply keeps_holdEnd
    | with_reducible apply keeps_wiped | with_reducible apply keeps_samplePhase
    | with_reducible refine keepsF_upd rfl rfl ?_ ?_ ?_ ?_ ?_ ?_ ?_ ?_ ?_ ?_ | with_reducible exact twf_tput _ _ _ _
    | with_reducible exact fun q => memWf_storeBytes _ _ _ q | with_reducible exact fun _ q => q
    | with_reducible refine Keeps.foldl _ ?_ (fun _ _ _ => ?_) | with_reducible apply lanesOk_getCal | split

theorem keeps_secureWipeTo {s0 s : State} (h : Keeps s0 s) (lv : Option Machine.Level) : Keeps s0
    (secureWipeTo s lv) := by
  unfold secureWipeTo
  repeat' first
    | with_reducible exact h | with_reducible exact id | with_reducible apply keeps_wiped
    | with_reducible apply keeps_samplePhase
    | with_reducible refine keepsF_upd rfl rfl ?_ ?_ ?_ ?_ ?_ ?_ ?_ ?_ ?_ ?_ | split | simp only [keeps_mk]

theorem keeps_setLayout {s0 s : State} (h : Keeps s0 s) (cm : Nat) (mm : Nat) : Keeps s0 (setLayout s cm mm) := by
  unfold setLayout
  repeat' first
    | with_reducible assumption | with_reducible apply keeps_updPart | with_reducible apply keeps_updCal
    | with_reducible apply keeps_updMb | with_reducible refine Keeps.foldl _ ?_ (fun _ _ _ => ?_)
    | with_reducible exact fun _ q => q | split

theorem keeps_enterRetain {s0 s : State} (h : Keeps s0 s)  : Keeps s0 (enterRetain s) := by
  unfold enterRetain
  repeat' first
    | with_reducible assumption | with_reducible exact id | with_reducible apply keeps_evictCal
    | with_reducible refine keepsF_upd rfl rfl ?_ ?_ ?_ ?_ ?_ ?_ ?_ ?_ ?_ ?_
    | with_reducible exact fun _ => twf_tmap _ _ _ | with_reducible refine Keeps.foldl _ ?_ (fun _ _ _ => ?_)
    | simp only [keeps_mk]

theorem keeps_abortAll {s0 s : State} (h : Keeps s0 s)  : Keeps s0 (abortAll s) := by
  unfold abortAll
  repeat' first
    | with_reducible assumption | with_reducible apply keeps_abortItem
    | with_reducible refine Keeps.foldl _ ?_ (fun _ _ _ => ?_)

theorem keeps_useNonce {s0 s : State} (h : Keeps s0 s) (l : Nat) : Keeps s0 (useNonce s l) := by
  unfold useNonce
  repeat' first
    | with_reducible exact h | with_reducible exact id
    | with_reducible refine keepsF_upd rfl rfl ?_ ?_ ?_ ?_ ?_ ?_ ?_ ?_ ?_ ?_ | split | simp only [keeps_mk]

theorem keeps_wipeTable {s0 s : State} (h : Keeps s0 s) (x : Nat) : Keeps s0 (wipeTable s x) := by
  unfold wipeTable
  repeat' first
    | with_reducible exact h | with_reducible apply keeps_updCal | with_reducible exact fun _ q => q

theorem keeps_newCtx {s0 s : State} (h : Keeps s0 s) (x : Nat) : Keeps s0 (newCtx s x) := by
  unfold newCtx
  repeat' first
    | with_reducible exact h | with_reducible apply keeps_wipeTable | with_reducible apply keeps_setCtx

theorem keeps_ctxWrite {s0 s : State} (h : Keeps s0 s) (x : Nat) (w : DefWrite) : Keeps s0 (ctxWrite s x w) := by
  unfold ctxWrite
  repeat' first
    | with_reducible exact h | with_reducible apply keeps_updCtx | with_reducible apply keeps_applyDefer | split

theorem keeps_askHalt {s0 s : State} (h : Keeps s0 s) (x : Nat) : Keeps s0 (askHalt s x) := by
  unfold askHalt
  repeat' first
    | with_reducible exact h | with_reducible apply keeps_updCtx | split

theorem keeps_dropImage {s0 s : State} (h : Keeps s0 s) (zh : BitVec 16) : Keeps s0 (dropImage s zh) := by
  unfold dropImage
  dsimp only
  repeat' first
    | with_reducible assumption | with_reducible exact id | with_reducible apply keeps_setImage
    | with_reducible apply keeps_dropFetch | with_reducible apply keeps_updCal
    | with_reducible refine keepsF_upd rfl rfl ?_ ?_ ?_ ?_ ?_ ?_ ?_ ?_ ?_ ?_ | with_reducible exact fun _ q => q
    | with_reducible refine Keeps.foldl _ ?_ (fun _ _ _ => ?_) | simp only [keeps_mk]

theorem keeps_renameImage {s0 s : State} (h : Keeps s0 s) (old : BitVec 16) (new : BitVec 16) : Keeps s0
    (renameImage s old new) := by
  unfold renameImage
  repeat' first
    | with_reducible exact h | with_reducible exact id
    | with_reducible refine keepsF_upd rfl rfl ?_ ?_ ?_ ?_ ?_ ?_ ?_ ?_ ?_ ?_
    | with_reducible exact fun _ => twf_tmap _ _ _ | simp only [keeps_mk]

theorem keeps_placeChan {s0 s : State} (h : Keeps s0 s) (i : Nat) (lay : List Nat × Option Nat) (b : Nat) (cost : Nat)
    (a : Ask) : Keeps s0 (placeChan s i lay b cost a) := by
  unfold placeChan
  repeat' first
    | with_reducible exact h | with_reducible apply keeps_updPart | with_reducible apply keeps_setChan

theorem keeps_startExport {s0 s : State} (h : Keeps s0 s) (m : Nat) (i : Nat) (kind : Nat) (z4 : BitVec 16) (ofs : Nat)
    : Keeps s0 (startExport s m i kind z4 ofs) := by
  unfold startExport
  repeat' first
    | with_reducible exact h | with_reducible apply keeps_startPeerExport
    | with_reducible apply keeps_startRegionExport | split

theorem keeps_importInto {s0 s : State} (h : Keeps s0 s) (i p : Nat) (hd b : List Byte) :
    Keeps s0 (importInto s i p hd b) := by
  unfold importInto
  dsimp only
  simp only [keeps_mk]
  exact keepsF_upd rfl rfl id id id id id id (memWf_storeBytes _ _ _) id id (keeps_setSlot (keeps_newStream h _ _ _ _) _ _)

theorem keeps_dropArrival {s0 s : State} (h : Keeps s0 s) (a : Arrival) (status : Nat) : Keeps s0
    (dropArrival s a status) := by
  unfold dropArrival
  repeat' first
    | with_reducible exact h | with_reducible exact id | with_reducible apply keeps_updSlot
    | with_reducible apply keeps_sendResponse
    | with_reducible refine keepsF_upd rfl rfl ?_ ?_ ?_ ?_ ?_ ?_ ?_ ?_ ?_ ?_
    | with_reducible exact fun q => memWf_clearRange _ _ _ q | simp only [keeps_mk]

theorem keeps_acceptArrival {s0 s : State} (h : Keeps s0 s) (a : Arrival) (i : Nat) (p : Nat) (body : List Byte)
    : Keeps s0 (acceptArrival s a i p body) := by
  unfold acceptArrival
  repeat' first
    | with_reducible exact h | with_reducible exact id | with_reducible apply keeps_updSlot
    | with_reducible apply keeps_importInto | with_reducible apply keeps_setPeer
    | with_reducible apply keeps_sendResponse
    | with_reducible refine keepsF_upd rfl rfl ?_ ?_ ?_ ?_ ?_ ?_ ?_ ?_ ?_ ?_
    | with_reducible exact fun q => memWf_clearRange _ _ _ q | simp only [keeps_mk]

theorem keeps_freeChan {s0 s : State} (h : Keeps s0 s) (i : Nat) :
    Keeps s0 (freeChan s i) := by
  unfold freeChan
  repeat' first
    | with_reducible assumption | with_reducible exact id | with_reducible apply keeps_setChan
    | with_reducible apply keeps_dropChan

theorem keeps_retireOld {s0 s : State} (h : Keeps s0 s) (t : Nat) : Keeps s0 (retireOld s t) := by
  unfold retireOld
  repeat' first
    | with_reducible exact h | with_reducible exact id | with_reducible apply keeps_postEvent
    | with_reducible refine keepsF_upd rfl rfl ?_ ?_ ?_ ?_ ?_ ?_ ?_ ?_ ?_ ?_ | split | simp only [keeps_mk]

theorem keeps_reloadNow {s0 s : State} (h : Keeps s0 s) (t : Nat) (l : Loc) : Keeps s0 (reloadNow s t l) := by
  unfold reloadNow
  repeat' first
    | with_reducible exact h | with_reducible apply keeps_retireOld | with_reducible apply keeps_setTable

theorem keeps_zeroFrames {s0 s : State} (h : Keeps s0 s) (p : Nat) (frames : BitVec 32) : Keeps s0
    (zeroFrames s p frames) := by
  unfold zeroFrames
  repeat' first
    | with_reducible assumption | with_reducible apply keeps_updCal
    | with_reducible refine Keeps.foldl _ ?_ (fun _ _ _ => ?_) | with_reducible exact fun _ q => q

theorem keeps_recEvent {s0 s : State} (h : Keeps s0 s) (i : Option Item) (f : FRec) (count : Nat) : Keeps s0
    (recEvent s i f count) := by
  unfold recEvent
  repeat' first
    | with_reducible exact h | with_reducible apply keeps_postEvent | with_reducible apply keeps_postBlockEvent
    | split

theorem keeps_report {s0 s : State} (h : Keeps s0 s) (i : Option Item) (unit : BitVec 8) (outcome : Nat)
    (cal : Option Nat) (ctx : Option Nat) (loc : Word) : Keeps s0 (report s i unit outcome cal ctx loc) := by
  unfold report
  repeat' first
    | with_reducible exact h | with_reducible exact id | with_reducible apply keeps_raiseInt
    | with_reducible apply keeps_recEvent | with_reducible refine keepsF_upd rfl rfl ?_ ?_ ?_ ?_ ?_ ?_ ?_ ?_ ?_ ?_
    | split | simp only [keeps_mk]

theorem keeps_logFault {s0 s : State} (h : Keeps s0 s) (k : List Nat) (f : FRec) : Keeps s0 (logFault s k f) := by
  unfold logFault
  repeat' first
    | with_reducible exact h | with_reducible exact id
    | with_reducible refine keepsF_upd rfl rfl ?_ ?_ ?_ ?_ ?_ ?_ ?_ ?_ ?_ ?_ | simp only [keeps_mk]

theorem keeps_faultItem {s0 s : State} (h : Keeps s0 s) (i : Item) (fencing : Bool) : Keeps s0
    (faultItem s i fencing) := by
  unfold faultItem
  repeat' first
    | with_reducible exact h | with_reducible apply keeps_settle | with_reducible apply keeps_stopAttempt | split

theorem keeps_startFence {s0 s : State} (h : Keeps s0 s) (c : Nat) : Keeps s0 (startFence s c) := by
  unfold startFence
  dsimp only
  repeat' first
    | with_reducible exact h | with_reducible apply keeps_updCal | with_reducible apply keeps_faultItem
    | with_reducible exact fun _ q => q | split

theorem keeps_saveResident {s0 s : State} (h : Keeps s0 s) (i : Nat) (slots : List Nat) (bad : Bool) :
    Keeps s0 (saveResident s i slots bad) := by
  unfold saveResident
  dsimp only
  split
  · refine keeps_faultStream ?_ _ _
    simp only [keeps_mk]
    exact keepsF_upd rfl rfl id id id id id id (fun q => memWf_saveRow _ _ _ _ _ _ _ q) id id h
  · simp only [keeps_mk]
    exact keepsF_upd rfl rfl id id id id id id (fun q => memWf_saveRow _ _ _ _ _ _ _ q) id id (keeps_setSlot h _ _)

theorem keeps_poison {s0 s : State} (h : Keeps s0 s) (i : Nat) : Keeps s0 (poison s i) := by
  unfold poison
  repeat' first
    | with_reducible assumption | with_reducible exact id
    | with_reducible refine keepsF_upd rfl rfl ?_ ?_ ?_ ?_ ?_ ?_ ?_ ?_ ?_ ?_ | split | simp only [keeps_mk]

theorem keeps_cancelMove {s0 s : State} (h : Keeps s0 s) (e : Export) :
    Keeps s0 (cancelMove s e) := by
  unfold cancelMove
  repeat' first
    | with_reducible assumption | with_reducible exact id | with_reducible apply keeps_sendRequest
    | with_reducible apply keeps_dropState | with_reducible refine keepsF_upd rfl rfl ?_ ?_ ?_ ?_ ?_ ?_ ?_ ?_ ?_ ?_
    | with_reducible exact twf_tput _ _ _ _ | with_reducible exact fun q => memWf_storeBytes _ _ _ q
    | with_reducible exact fun _ q => q | with_reducible refine Keeps.foldl _ ?_ (fun _ _ _ => ?_)
    | with_reducible apply lanesOk_getCal | split

theorem keeps_exportLost {s0 s : State} (h : Keeps s0 s) (e : Export) :
    Keeps s0 (exportLost s e) := by
  unfold exportLost
  repeat' first
    | with_reducible assumption | with_reducible exact id | with_reducible apply keeps_cancelMove
    | with_reducible apply keeps_exportFail | with_reducible apply keeps_poison

theorem keeps_movingDamaged {s0 s : State} (h : Keeps s0 s) (i b : Nat) : Keeps s0 (movingDamaged s i b) := by
  unfold movingDamaged
  repeat' first
    | with_reducible assumption | with_reducible exact id | with_reducible apply keeps_exportLost
    | with_reducible apply keeps_poison | with_reducible refine keepsF_upd rfl rfl ?_ ?_ ?_ ?_ ?_ ?_ ?_ ?_ ?_ ?_
    | split

theorem keeps_dropRows {s0 s : State} (h : Keeps s0 s) (p : Item → Bool) (v : Nat) : Keeps s0 (dropRows s p v) := by
  unfold dropRows
  repeat' first
    | with_reducible exact h | with_reducible exact id
    | with_reducible refine keepsF_upd rfl rfl ?_ ?_ ?_ ?_ ?_ ?_ ?_ ?_ ?_ ?_ | simp only [keeps_mk]

theorem keeps_copyDamaged {s0 s : State} (h : Keeps s0 s) (i b : Nat) (bad : Bool) : Keeps s0 (copyDamaged s i b bad)
    := by
  unfold copyDamaged
  dsimp only
  repeat' first
    | with_reducible assumption | with_reducible exact id | with_reducible apply keeps_faultStream
    | with_reducible apply keeps_saveResident | with_reducible apply keeps_dropRows
    | with_reducible apply keeps_setSlot | with_reducible apply keeps_movingDamaged
    | with_reducible refine keepsF_upd rfl rfl ?_ ?_ ?_ ?_ ?_ ?_ ?_ ?_ ?_ ?_ | split

theorem keeps_retireSlot {s0 s : State} (h : Keeps s0 s) (i : Nat) (b : Nat) :
    Keeps s0 (retireSlot s i b) := by
  unfold retireSlot
  dsimp only
  repeat' first
    | with_reducible assumption | with_reducible exact id | with_reducible apply keeps_updSlot
    | with_reducible apply keeps_movingDamaged | with_reducible apply keeps_poison
    | with_reducible apply keeps_faultStream | with_reducible refine keepsF_upd rfl rfl ?_ ?_ ?_ ?_ ?_ ?_ ?_ ?_ ?_ ?_
    | with_reducible exact twf_tput _ _ _ _ | with_reducible exact fun q => memWf_storeBytes _ _ _ q
    | with_reducible exact fun _ q => q | with_reducible refine Keeps.foldl _ ?_ (fun _ _ _ => ?_)
    | with_reducible apply lanesOk_getCal | split

theorem keeps_dropSector {s0 s : State} (h : Keeps s0 s) (st : Nat) (w : Nat) : Keeps s0 (dropSector s st w) := by
  unfold dropSector
  repeat' first
    | with_reducible exact h | with_reducible exact id
    | with_reducible refine keepsF_upd rfl rfl ?_ ?_ ?_ ?_ ?_ ?_ ?_ ?_ ?_ ?_ | split | simp only [keeps_mk]

theorem keeps_corruptFrame {s0 s : State} (h : Keeps s0 s) (c : Nat) (f : Nat) : Keeps s0 (corruptFrame s c f) := by
  unfold corruptFrame
  dsimp only
  repeat' first
    | with_reducible assumption | with_reducible apply keeps_postEvent | with_reducible apply keeps_setGset
    | with_reducible refine Keeps.foldl _ ?_ (fun _ _ _ => ?_) | split

theorem keeps_markErr {s0 s : State} (h : Keeps s0 s) (u : User) : Keeps s0 (markErr s u) := by
  unfold markErr
  repeat' first
    | with_reducible assumption | with_reducible exact id | with_reducible apply keeps_updMove

theorem keeps_portFault {s0 s : State} (h : Keeps s0 s) (u : User) (unit : BitVec 8) (loc : Word) (halt : Bool) (detail : Word) :
    Keeps s0 (portFault s u unit loc halt detail) := by
  unfold portFault
  dsimp only
  repeat' first
    | with_reducible assumption | with_reducible exact id | with_reducible apply keeps_report
    | with_reducible apply keeps_markErr | with_reducible apply keeps_moveHalt | with_reducible apply keeps_faultItem
    | with_reducible refine keepsF_upd rfl rfl ?_ ?_ ?_ ?_ ?_ ?_ ?_ ?_ ?_ ?_ | with_reducible exact twf_tput _ _ _ _
    | with_reducible exact fun q => memWf_storeBytes _ _ _ q | with_reducible exact fun _ q => q
    | with_reducible refine Keeps.foldl _ ?_ (fun _ _ _ => ?_) | with_reducible apply lanesOk_getCal | split

theorem keeps_haltWaiting {s0 s : State} (h : Keeps s0 s) (xs : List Nat) (reason : Nat) : Keeps s0
    (haltWaiting s xs reason) := by
  unfold haltWaiting
  repeat' first
    | with_reducible assumption | with_reducible apply keeps_haltIssue
    | with_reducible refine Keeps.foldl _ ?_ (fun _ _ _ => ?_)

theorem keeps_dropFetches {s0 s : State} (h : Keeps s0 s) (img : BitVec 16) (line : Nat) : Keeps s0 (dropFetches s img
    line) := by
  unfold dropFetches
  repeat' first
    | with_reducible assumption | with_reducible apply keeps_dropFetch
    | with_reducible refine Keeps.foldl _ ?_ (fun _ _ _ => ?_)

theorem keeps_failLine {s0 s : State} (h : Keeps s0 s) (img : BitVec 16) (line : Nat) : Keeps s0 (failLine s img line)
    := by
  unfold failLine
  repeat' first
    | with_reducible assumption | with_reducible apply keeps_haltWaiting | with_reducible apply keeps_dropFetches

theorem keeps_damageImage {s0 s : State} (h : Keeps s0 s) (img : BitVec 16) : Keeps s0 (damageImage s img) := by
  unfold damageImage
  dsimp only
  repeat' first
    | with_reducible exact h | with_reducible apply keeps_postEvent | with_reducible apply keeps_setImage
    | with_reducible apply keeps_cancelQueued | split

theorem keeps_fillLine {s0 s : State} (h : Keeps s0 s) (c : Nat) (l : CLine) : Keeps s0 (fillLine s c l) := by
  unfold fillLine
  repeat' first
    | with_reducible exact h | with_reducible exact id | with_reducible apply keeps_updCal
    | with_reducible refine keepsF_upd rfl rfl ?_ ?_ ?_ ?_ ?_ ?_ ?_ ?_ ?_ ?_ | with_reducible exact fun _ q => q
    | simp only [keeps_mk]

theorem keeps_retireWay {s0 s : State} (h : Keeps s0 s) (c : Nat) (lvl : Nat) (st : Nat) :
    Keeps s0 (retireWay s c lvl st) := by
  unfold retireWay
  repeat' first
    | with_reducible assumption | with_reducible exact id | with_reducible apply keeps_updCal
    | with_reducible refine keepsF_upd rfl rfl ?_ ?_ ?_ ?_ ?_ ?_ ?_ ?_ ?_ ?_ | with_reducible exact twf_tput _ _ _ _
    | with_reducible exact fun q => memWf_storeBytes _ _ _ q | with_reducible exact fun _ q => q
    | with_reducible refine Keeps.foldl _ ?_ (fun _ _ _ => ?_) | with_reducible apply lanesOk_getCal | split
    | simp only [keeps_mk]

theorem keeps_badFill {s0 s : State} (h : Keeps s0 s) (c : Nat) (l2 : Bool) (f : Fetch) (x : Nat) :
    Keeps s0 (badFill s c l2 f x) := by
  unfold badFill
  dsimp only
  repeat' first
    | with_reducible assumption | with_reducible exact id | with_reducible apply keeps_report
    | with_reducible apply keeps_logFault | with_reducible apply keeps_retireWay
    | with_reducible refine keepsF_upd rfl rfl ?_ ?_ ?_ ?_ ?_ ?_ ?_ ?_ ?_ ?_ | with_reducible exact twf_tput _ _ _ _
    | with_reducible exact fun q => memWf_storeBytes _ _ _ q | with_reducible exact fun _ q => q
    | with_reducible refine Keeps.foldl _ ?_ (fun _ _ _ => ?_) | with_reducible apply lanesOk_getCal | split

theorem keeps_checkLine {s0 s : State} (h : Keeps s0 s) (c : Nat) (l2 : Bool) (f : Fetch) (d : List Byte) :
    Keeps s0 (checkLine s c l2 f d) := by
  unfold checkLine
  dsimp only
  repeat' first
    | with_reducible assumption | with_reducible exact id | with_reducible apply keeps_fillLine
    | with_reducible apply keeps_dropFetch | with_reducible apply keeps_badFill | with_reducible apply keeps_readLine
    | with_reducible apply keeps_updCal | with_reducible apply keeps_dropJob | with_reducible apply keeps_damageImage
    | with_reducible apply keeps_haltWaiting | with_reducible apply keeps_dropFetches
    | with_reducible refine keepsF_upd rfl rfl ?_ ?_ ?_ ?_ ?_ ?_ ?_ ?_ ?_ ?_ | with_reducible exact twf_tput _ _ _ _
    | with_reducible exact fun q => memWf_storeBytes _ _ _ q | with_reducible exact fun _ q => q
    | with_reducible refine Keeps.foldl _ ?_ (fun _ _ _ => ?_) | with_reducible apply lanesOk_getCal | split

theorem keeps_fillFault {s0 s : State} (h : Keeps s0 s) (host : Bool) (loc : Word) (img : BitVec 16) (line : Nat) :
    Keeps s0 (fillFault s host loc img line) := by
  unfold fillFault
  repeat' first
    | with_reducible assumption | with_reducible exact id | with_reducible apply keeps_dropFetches
    | with_reducible apply keeps_failLine | with_reducible apply keeps_report
    | with_reducible refine keepsF_upd rfl rfl ?_ ?_ ?_ ?_ ?_ ?_ ?_ ?_ ?_ ?_ | with_reducible exact twf_tput _ _ _ _
    | with_reducible exact fun q => memWf_storeBytes _ _ _ q | with_reducible exact fun _ q => q
    | with_reducible refine Keeps.foldl _ ?_ (fun _ _ _ => ?_) | with_reducible apply lanesOk_getCal | split

theorem keeps_arriveLine {s0 s : State} (h : Keeps s0 s) (c : Nat) (f : Fetch) (ok : Bool) :
    Keeps s0 (arriveLine s c f ok) := by
  unfold arriveLine
  dsimp only
  repeat' first
    | with_reducible assumption | with_reducible exact id | with_reducible apply keeps_checkLine
    | with_reducible apply keeps_failLine | with_reducible apply keeps_readLine | with_reducible apply keeps_fillFault
    | with_reducible refine keepsF_upd rfl rfl ?_ ?_ ?_ ?_ ?_ ?_ ?_ ?_ ?_ ?_ | with_reducible exact twf_tput _ _ _ _
    | with_reducible exact fun q => memWf_storeBytes _ _ _ q | with_reducible exact fun _ q => q
    | with_reducible refine Keeps.foldl _ ?_ (fun _ _ _ => ?_) | with_reducible apply lanesOk_getCal | split

theorem keeps_reportFault {s0 s : State} (h : Keeps s0 s) (f : FaultRep) (i : Option Item) (outcome : Nat) : Keeps s0
    (reportFault s f i outcome) := by
  unfold reportFault
  repeat' first
    | with_reducible exact h | with_reducible apply keeps_report

theorem keeps_reportLog {s0 s : State} (h : Keeps s0 s) (f : FaultRep) (k : List Nat) (i : Option Item) (outcome : Nat)
    : Keeps s0 (reportLog s f k i outcome) := by
  unfold reportLog
  repeat' first
    | with_reducible exact h | with_reducible apply keeps_logFault | with_reducible apply keeps_reportFault

theorem keeps_attemptFault {s0 s : State} (h : Keeps s0 s) (f : FaultRep) (k : List Nat) (i : Item) : Keeps s0
    (attemptFault s f k i) := by
  unfold attemptFault
  dsimp only
  repeat' first
    | with_reducible exact h | with_reducible apply keeps_startFence | with_reducible apply keeps_reportLog
    | with_reducible apply keeps_faultItem | split

theorem keeps_calFault {s0 s : State} (h : Keeps s0 s) (f : FaultRep) (k : List Nat) : Keeps s0 (calFault s f k) := by
  unfold calFault
  repeat' first
    | with_reducible exact h | with_reducible apply keeps_attemptFault | with_reducible apply keeps_reportLog
    | with_reducible apply keeps_startFence | with_reducible apply keeps_startStep | split

theorem keeps_slotDamage {s0 s : State} (h : Keeps s0 s) (f : FaultRep) (perm : Bool) :
    Keeps s0 (slotDamage s f perm) := by
  unfold slotDamage
  dsimp only
  repeat' first
    | with_reducible assumption | with_reducible exact id | with_reducible apply keeps_retireSlot
    | with_reducible apply keeps_copyDamaged | with_reducible refine keepsF_upd rfl rfl ?_ ?_ ?_ ?_ ?_ ?_ ?_ ?_ ?_ ?_
    | with_reducible exact twf_tput _ _ _ _ | with_reducible exact fun q => memWf_storeBytes _ _ _ q
    | with_reducible exact fun _ q => q | with_reducible refine Keeps.foldl _ ?_ (fun _ _ _ => ?_)
    | with_reducible apply lanesOk_getCal | split

theorem keeps_sinterFault {s0 s : State} (h : Keeps s0 s) (f : FaultRep) (k : List Nat) :
    Keeps s0 (sinterFault s f k) := by
  unfold sinterFault
  dsimp only
  repeat' first
    | with_reducible assumption | with_reducible exact id | with_reducible apply keeps_slotDamage
    | with_reducible apply keeps_reportLog | with_reducible apply keeps_faultItem
    | with_reducible refine keepsF_upd rfl rfl ?_ ?_ ?_ ?_ ?_ ?_ ?_ ?_ ?_ ?_ | with_reducible exact twf_tput _ _ _ _
    | with_reducible exact fun q => memWf_storeBytes _ _ _ q | with_reducible exact fun _ q => q
    | with_reducible refine Keeps.foldl _ ?_ (fun _ _ _ => ?_) | with_reducible apply lanesOk_getCal | split

theorem keeps_tephraFault {s0 s : State} (h : Keeps s0 s) (f : FaultRep) (k : List Nat) : Keeps s0
    (tephraFault s f k) := by
  unfold tephraFault
  repeat' first
    | with_reducible exact h | with_reducible exact id | with_reducible apply keeps_dropSector
    | with_reducible apply keeps_reportLog | with_reducible refine keepsF_upd rfl rfl ?_ ?_ ?_ ?_ ?_ ?_ ?_ ?_ ?_ ?_
    | split | simp only [keeps_mk]

theorem keeps_lineFault {s0 s : State} (h : Keeps s0 s) (f : FaultRep) (k : List Nat) :
    Keeps s0 (lineFault s f k) := by
  unfold lineFault
  dsimp only
  repeat' first
    | with_reducible assumption | with_reducible exact id | with_reducible apply keeps_reportLog
    | with_reducible apply keeps_updCal | with_reducible apply keeps_retireWay
    | with_reducible refine keepsF_upd rfl rfl ?_ ?_ ?_ ?_ ?_ ?_ ?_ ?_ ?_ ?_ | with_reducible exact twf_tput _ _ _ _
    | with_reducible exact fun q => memWf_storeBytes _ _ _ q | with_reducible exact fun _ q => q
    | with_reducible refine Keeps.foldl _ ?_ (fun _ _ _ => ?_) | with_reducible apply lanesOk_getCal | split
    | simp only [keeps_mk]

theorem keeps_cpMemFault {s0 s : State} (h : Keeps s0 s) (f : FaultRep) : Keeps s0 (cpMemFault s f) := by
  unfold cpMemFault
  repeat' first
    | with_reducible exact h | with_reducible apply keeps_startStep | with_reducible apply keeps_raiseFatal
    | with_reducible apply keeps_reportFault

theorem keeps_foldFault {s0 s : State} (h : Keeps s0 s) (f : FaultRep) (k : List Nat) : Keeps s0 (foldFault s f k) := by
  unfold foldFault
  dsimp only
  repeat' first
    | with_reducible exact h | with_reducible apply keeps_reportLog | with_reducible apply keeps_corruptFrame
    | with_reducible apply keeps_startFence | split

theorem keeps_semaphoreFault {s0 s : State} (h : Keeps s0 s) (f : FaultRep) : Keeps s0 (semaphoreFault s f) := by
  unfold semaphoreFault
  dsimp only
  repeat' first
    | with_reducible exact h | with_reducible apply keeps_reportFault | with_reducible apply keeps_startStep | split

theorem keeps_unitPortFault {s0 s : State} (h : Keeps s0 s) (f : FaultRep) : Keeps s0 (unitPortFault s f) := by
  unfold unitPortFault
  repeat' first
    | with_reducible exact h | with_reducible apply keeps_reportFault | with_reducible apply keeps_faultItem | split

theorem keeps_fabricFault {s0 s : State} (h : Keeps s0 s) (f : FaultRep) (k : List Nat) : Keeps s0
    (fabricFault s f k) := by
  unfold fabricFault
  repeat' first
    | with_reducible exact h | with_reducible apply keeps_startStep | with_reducible apply keeps_reportLog
    | with_reducible apply keeps_faultItem | split

theorem keeps_detected {s0 s : State} (h : Keeps s0 s) (f : FaultRep) : Keeps s0 (detected s f) := by
  unfold detected
  repeat' first
    | with_reducible exact h | with_reducible apply keeps_reportFault | with_reducible apply keeps_calFault
    | with_reducible apply keeps_foldFault | with_reducible apply keeps_sinterFault
    | with_reducible apply keeps_tephraFault | with_reducible apply keeps_cpMemFault
    | with_reducible apply keeps_lineFault | with_reducible apply keeps_fabricFault
    | with_reducible apply keeps_startStep | with_reducible apply keeps_semaphoreFault
    | with_reducible apply keeps_unitPortFault | split

theorem keeps_dropFound {s0 s : State} (h : Keeps s0 s) (f : FaultRep) : Keeps s0 (dropFound s f) := by
  unfold dropFound
  repeat' first
    | with_reducible assumption | with_reducible exact id | with_reducible apply keeps_updCal
    | with_reducible refine keepsF_upd rfl rfl ?_ ?_ ?_ ?_ ?_ ?_ ?_ ?_ ?_ ?_ | with_reducible exact fun _ q => q
    | split

theorem keeps_scrubWrite {s0 s : State} (h : Keeps s0 s) (f : FaultRep) (c : Nat) : Keeps s0 (scrubWrite s f c) := by
  unfold scrubWrite
  repeat' first
    | with_reducible exact h | with_reducible exact id | with_reducible apply keeps_updCal
    | with_reducible apply keeps_corruptFrame
    | with_reducible refine keepsF_upd rfl rfl ?_ ?_ ?_ ?_ ?_ ?_ ?_ ?_ ?_ ?_ | with_reducible exact fun _ q => q
    | split | simp only [keeps_mk]

theorem keeps_scrubCal {s0 s : State} (h : Keeps s0 s) (f : FaultRep) (k : List Nat) : Keeps s0 (scrubCal s f k) := by
  unfold scrubCal
  repeat' first
    | with_reducible exact h | with_reducible apply keeps_attemptFault | with_reducible apply keeps_startFence
    | with_reducible apply keeps_scrubWrite | with_reducible apply keeps_reportLog | split

theorem keeps_scrubbed {s0 s : State} (h : Keeps s0 s) (g : FaultRep) : Keeps s0 (scrubbed s g) := by
  unfold scrubbed
  dsimp only
  repeat' first
    | with_reducible exact h | with_reducible apply keeps_reportFault | with_reducible apply keeps_sinterFault
    | with_reducible apply keeps_tephraFault | with_reducible apply keeps_cpMemFault
    | with_reducible apply keeps_scrubCal | split

theorem keeps_compareGroup {s0 s : State} (h : Keeps s0 s) (c : Nat) (zh : Handed) : Keeps s0 (compareGroup s c zh) :=
    by
  unfold compareGroup
  repeat' first
    | with_reducible assumption | with_reducible exact id | with_reducible apply keeps_detected
    | with_reducible apply keeps_updCal | with_reducible refine keepsF_upd rfl rfl ?_ ?_ ?_ ?_ ?_ ?_ ?_ ?_ ?_ ?_
    | with_reducible exact fun _ q => q | split

theorem keeps_requeue {s0 s : State} (h : Keeps s0 s) (i : Item) (all : Bool) : Keeps s0 (requeue s i all) := by
  unfold requeue
  dsimp only
  repeat' first
    | with_reducible assumption | with_reducible exact id | with_reducible apply keeps_semAdd
    | with_reducible apply keeps_setItem | with_reducible apply keeps_putBack | with_reducible apply keeps_updSlot
    | with_reducible apply keeps_leaveWindow | with_reducible refine keepsF_upd rfl rfl ?_ ?_ ?_ ?_ ?_ ?_ ?_ ?_ ?_ ?_
    | with_reducible refine Keeps.foldl _ ?_ (fun _ _ _ => ?_) | split

theorem keeps_faultDamaged {s0 s : State} (h : Keeps s0 s) (i : Item) :
    Keeps s0 (faultDamaged s i) := by
  unfold faultDamaged
  dsimp only
  repeat' first
    | with_reducible assumption | with_reducible exact id | with_reducible apply keeps_faultStream
    | with_reducible apply keeps_setItem | with_reducible refine keepsF_upd rfl rfl ?_ ?_ ?_ ?_ ?_ ?_ ?_ ?_ ?_ ?_
    | with_reducible exact twf_tput _ _ _ _ | with_reducible exact fun q => memWf_storeBytes _ _ _ q
    | with_reducible exact fun _ q => q | with_reducible refine Keeps.foldl _ ?_ (fun _ _ _ => ?_)
    | with_reducible apply lanesOk_getCal | split

theorem keeps_requeueWaiting {s0 s : State} (h : Keeps s0 s) (i0 : Item) :
    Keeps s0 (requeueWaiting s i0) := by
  unfold requeueWaiting
  dsimp only
  repeat' first
    | with_reducible assumption | with_reducible exact id | with_reducible apply keeps_faultDamaged
    | with_reducible apply keeps_requeue | with_reducible refine keepsF_upd rfl rfl ?_ ?_ ?_ ?_ ?_ ?_ ?_ ?_ ?_ ?_
    | with_reducible exact twf_tput _ _ _ _ | with_reducible exact fun q => memWf_storeBytes _ _ _ q
    | with_reducible exact fun _ q => q | with_reducible refine Keeps.foldl _ ?_ (fun _ _ _ => ?_)
    | with_reducible apply lanesOk_getCal | split

theorem keeps_requeueExec {s0 s : State} (h : Keeps s0 s) (c : Nat) :
    Keeps s0 (requeueExec s c) := by
  unfold requeueExec
  dsimp only
  repeat' first
    | with_reducible assumption | with_reducible exact id | with_reducible apply keeps_requeueWaiting
    | with_reducible apply keeps_faultDamaged | with_reducible apply keeps_requeue
    | with_reducible refine keepsF_upd rfl rfl ?_ ?_ ?_ ?_ ?_ ?_ ?_ ?_ ?_ ?_ | with_reducible exact twf_tput _ _ _ _
    | with_reducible exact fun q => memWf_storeBytes _ _ _ q | with_reducible exact fun _ q => q
    | with_reducible refine Keeps.foldl _ ?_ (fun _ _ _ => ?_) | with_reducible apply lanesOk_getCal | split

theorem keeps_requeueStaged {s0 s : State} (h : Keeps s0 s) (c : Nat) :
    Keeps s0 (requeueStaged s c) := by
  unfold requeueStaged
  repeat' first
    | with_reducible assumption | with_reducible exact id | with_reducible apply keeps_requeueWaiting
    | with_reducible refine keepsF_upd rfl rfl ?_ ?_ ?_ ?_ ?_ ?_ ?_ ?_ ?_ ?_ | with_reducible exact twf_tput _ _ _ _
    | with_reducible exact fun q => memWf_storeBytes _ _ _ q | with_reducible exact fun _ q => q
    | with_reducible refine Keeps.foldl _ ?_ (fun _ _ _ => ?_) | with_reducible apply lanesOk_getCal | split

theorem keeps_retestChan {s0 s : State} (h : Keeps s0 s) (p : Nat) (i : Nat) : Keeps s0 (retestChan p s i) := by
  unfold retestChan
  dsimp only
  repeat' first
    | with_reducible exact h | with_reducible apply keeps_updChan | split

theorem keeps_degrade {s0 s : State} (h : Keeps s0 s) (c : Nat) : Keeps s0 (degrade s c) := by
  unfold degrade
  dsimp only
  repeat' first
    | with_reducible assumption | with_reducible apply keeps_setPart | with_reducible apply keeps_retestChan
    | with_reducible refine Keeps.foldl _ ?_ (fun _ _ _ => ?_) | split

theorem keeps_allFenced {s0 s : State} (h : Keeps s0 s) (p : Nat) : Keeps s0 (allFenced s p) := by
  unfold allFenced
  repeat' first
    | with_reducible exact h | with_reducible apply keeps_cancelQueued | split

theorem keeps_finishFence {s0 s : State} (h : Keeps s0 s) (c : Nat) : Keeps s0 (finishFence s c) := by
  unfold finishFence
  repeat' first
    | with_reducible exact h | with_reducible apply keeps_startStep | with_reducible apply keeps_requeueExec
    | with_reducible apply keeps_requeueStaged | with_reducible apply keeps_endStep
    | with_reducible apply keeps_engReset | with_reducible apply keeps_degrade | with_reducible apply keeps_evictCal
    | with_reducible apply keeps_postEvent | with_reducible apply keeps_allFenced | with_reducible apply keeps_updCal
    | with_reducible exact fun _ q => q | split

/-- The state that a read of the firmware leaves while it waits. -/
def gotState : Got → Option State
  | .wait s => some s
  | _ => none

theorem keeps_fwRead {s0 s t : State} (h : Keeps s0 s) {u : User} {host : Bool} {rs : List (Nat × Nat)}
    (ht : gotState (fwRead s u host rs) = some t) : Keeps s0 t := by
  unfold fwRead at ht
  repeat' split at ht
  all_goals first
    | (cases ht; exact keeps_addJob h _ _)
    | (cases ht; exact h)
    | cases ht

/-- The state that a step of an item's loading leaves. -/
def loadedState : Loaded → Option State
  | .wait s => some s
  | .done s => some s
  | .stop _ => none

theorem keeps_loadDescs {s0 s t : State} (h : Keeps s0 s) {i : Item} (ht : loadedState (loadDescs s i) = some t) :
    Keeps s0 t := by
  unfold loadDescs at ht
  dsimp only at ht
  have hu : ∀ (u : State) (f : Cal → Mem), Keeps s0 u → Keeps s0 (updCal u (ctxCal i.ctx) fun k => { k with spad := f k }) :=
    fun _ _ hu => keeps_updCal hu _ _ fun _ hk => hk
  repeat' split at ht
  all_goals first
    | (cases ht; exact hu _ _ h)
    | (cases ht; exact keeps_setItem h _)
    | (cases ht; exact keeps_fwRead h (by rw [‹fwRead _ _ _ _ = _›]; rfl))
    | cases ht

theorem keeps_putMask {s0 s : State} (h : Keeps s0 s) (i : Item) (bs : List Byte) :
    Keeps s0 (putMask s i bs) := by
  unfold putMask
  repeat' first
    | with_reducible assumption | with_reducible exact id | with_reducible apply keeps_keepBytes
    | with_reducible apply keeps_setItem

theorem keeps_loadMask {s0 s t : State} (h : Keeps s0 s) {i : Item} (ht : loadedState (loadMask s i) = some t) :
    Keeps s0 t := by
  unfold loadMask at ht
  repeat' split at ht
  all_goals first
    | (cases ht; exact h)
    | (cases ht; exact keeps_putMask h _ _)
    | (cases ht; exact keeps_fwRead h (by rw [‹fwRead _ _ _ _ = _›]; rfl))
    | cases ht

theorem keeps_evictFor {s0 s : State} (h : Keeps s0 s) (i : Item) : Keeps s0 (evictFor s i) := by
  unfold evictFor
  repeat' first
    | with_reducible assumption | with_reducible apply keeps_evict
    | with_reducible refine Keeps.foldl _ ?_ (fun _ _ _ => ?_)

theorem keeps_pinRows {s0 s : State} (h : Keeps s0 s) (i : Item) : Keeps s0 (pinRows s i) := by
  unfold pinRows
  repeat' first
    | with_reducible assumption | with_reducible apply keeps_updSlot
    | with_reducible refine Keeps.foldl _ ?_ (fun _ _ _ => ?_)

theorem keeps_startCopies {s0 s : State} (h : Keeps s0 s) (i : Item) : Keeps s0 (startCopies s i) := by
  unfold startCopies
  repeat' first
    | with_reducible assumption | with_reducible exact id | with_reducible apply keeps_keepBytes
    | with_reducible refine keepsF_upd rfl rfl ?_ ?_ ?_ ?_ ?_ ?_ ?_ ?_ ?_ ?_
    | with_reducible refine Keeps.foldl _ ?_ (fun _ _ _ => ?_) | split

theorem keeps_restoreRows {s0 s : State} (h : Keeps s0 s) (i : Item) (want : Nat × Nat → Bool) :
    Keeps s0 (restoreRows s i want) := by
  unfold restoreRows
  dsimp only
  refine Keeps.foldl _ h fun u e hu => ?_
  split
  · exact keeps_updCal hu _ _ fun k hk => by
      rw [lanes_foldl _ _ _ fun _ _ => lanes_setSlotRow _ _ _ _ _]; exact hk
  · split
    · exact keeps_updCal hu _ _ fun k hk => by rw [lanes_restoreRow]; exact hk
    · exact hu

theorem keeps_startAttempt {s0 s : State} (h : Keeps s0 s) (i : Item) (sr : Word) (again : Bool) :
    Keeps s0 (startAttempt s i sr again) := by
  unfold startAttempt
  dsimp only
  refine keeps_updCal (keeps_emptyHalves (keeps_setCtx h _ _) _ _) _ _ fun k hk => ?_
  exact LanesOk.foldl _ hk fun _ _ hu => by rw [lanes_setSlotPlane]; exact hu

theorem keeps_enterRows {s0 s : State} (h : Keeps s0 s) (i : Item) : Keeps s0 (enterRows s i) := by
  unfold enterRows
  repeat' first
    | with_reducible exact h | with_reducible apply keeps_pinRows | with_reducible apply keeps_evictFor
    | with_reducible apply keeps_setItem

theorem keeps_beginRest {s0 s : State} (h : Keeps s0 s) (i : Item) :
    Keeps s0 (beginRest s i) := by
  unfold beginRest
  dsimp only
  repeat' first
    | with_reducible assumption | with_reducible exact id | with_reducible apply keeps_updCal
    | with_reducible apply keeps_dropRest | with_reducible refine keepsF_upd rfl rfl ?_ ?_ ?_ ?_ ?_ ?_ ?_ ?_ ?_ ?_
    | with_reducible exact twf_tput _ _ _ _ | with_reducible exact fun q => memWf_storeBytes _ _ _ q
    | with_reducible exact fun _ q => q

theorem keeps_firstRestore {s0 s : State} (h : Keeps s0 s) (i : Item) :
    Keeps s0 (firstRestore s i) := by
  unfold firstRestore
  dsimp only
  repeat' first
    | with_reducible assumption | with_reducible exact id | with_reducible apply keeps_startCopies
    | with_reducible apply keeps_updSlot | with_reducible apply keeps_restoreRows | with_reducible apply keeps_setItem
    | with_reducible apply keeps_beginRest | with_reducible refine keepsF_upd rfl rfl ?_ ?_ ?_ ?_ ?_ ?_ ?_ ?_ ?_ ?_
    | with_reducible exact twf_tput _ _ _ _ | with_reducible exact fun q => memWf_storeBytes _ _ _ q
    | with_reducible exact fun _ q => q | with_reducible refine Keeps.foldl _ ?_ (fun _ _ _ => ?_)
    | with_reducible apply lanesOk_getCal | split

theorem keeps_loadStop {s0 s : State} (h : Keeps s0 s) (i : Item) (e : Stop) :
    Keeps s0 (loadStop s i e) := by
  unfold loadStop
  repeat' first
    | with_reducible assumption | with_reducible exact id | with_reducible apply keeps_haltIssue
    | with_reducible apply keeps_setItem

theorem keeps_loadLast {s0 s : State} (h : Keeps s0 s) (x : Nat) : Keeps s0 (loadLast s x) := by
  unfold loadLast
  split
  · exact h
  · split
    · exact keeps_loadMask h (by rw [‹loadMask _ _ = _›]; rfl)
    · exact keeps_loadStop h _ _
    · rename_i t e
      have ht : Keeps s0 t := keeps_loadMask h (by rw [e]; rfl)
      cases winItemOf t x with
      | none => exact ht
      | some j => exact keeps_firstRestore ht _

theorem keeps_loadLists {s0 s : State} (h : Keeps s0 s) (i : Item) : Keeps s0 (loadLists s i) := by
  unfold loadLists
  split
  · exact keeps_loadLast h _
  · split
    · exact keeps_loadDescs h (by rw [‹loadDescs _ _ = _›]; rfl)
    · exact keeps_loadStop h _ _
    · rename_i t e
      have ht : Keeps s0 t := keeps_loadDescs h (by rw [e]; rfl)
      cases winItemOf t i.ctx with
      | none => exact ht
      | some j => exact keeps_loadLast (keeps_setItem ht _) _

theorem keeps_placeItem {s0 s : State} (h : Keeps s0 s) (c : Nat) (g : Grant) (i : Item) :
    Keeps s0 (placeItem s c g i) := by
  unfold placeItem
  extract_lets b j s1 s2 s3 s4
  have h1 : Keeps s0 s1 := by
    subst s1
    clear_value j
    exact Keeps.foldl _ (keeps_setItem h j) fun u e hu => keeps_updSem hu _ _
  clear_value s1 j
  have h2 : Keeps s0 s2 := by
    subst s2
    apply keeps_enterRows
    apply keeps_updCal
    · exact h1
    · exact fun k hk => hk
  clear_value s2
  have h3 : Keeps s0 s3 := keeps_startAttempt h2 _ _ _
  clear_value s3
  have h4 : Keeps s0 s4 := keeps_updCtx h3 _ _
  clear_value s4
  cases winItemOf s4 j.ctx with
  | none => exact h4
  | some u => exact keeps_loadLists h4 _

theorem keeps_saveRows {s0 s : State} (h : Keeps s0 s) (i : Item) : Keeps s0 (saveRows s i) := by
  unfold saveRows
  simp only [keeps_mk]
  exact keepsF_upd rfl rfl id id id id id id
    (fun q => memWf_foldl _ _ _ q fun _ _ hu => memWf_saveRow _ _ _ _ _ _ _ hu) id id h

theorem keeps_endForward {s0 s : State} (h : Keeps s0 s) (i : Item) :
    Keeps s0 (endForward s i) := by
  unfold endForward
  dsimp only
  repeat' first
    | with_reducible assumption | with_reducible exact id | with_reducible apply keeps_restoreRows
    | with_reducible apply keeps_saveRows | with_reducible apply keeps_setItem | with_reducible apply keeps_beginRest
    | with_reducible apply keeps_updCtx | with_reducible refine keepsF_upd rfl rfl ?_ ?_ ?_ ?_ ?_ ?_ ?_ ?_ ?_ ?_
    | with_reducible exact twf_tput _ _ _ _ | with_reducible exact fun q => memWf_storeBytes _ _ _ q
    | with_reducible exact fun _ q => q | with_reducible refine Keeps.foldl _ ?_ (fun _ _ _ => ?_)
    | with_reducible apply lanesOk_getCal | split

theorem keeps_endRestore {s0 s : State} (h : Keeps s0 s) (i : Item) :
    Keeps s0 (endRestore s i) := by
  unfold endRestore
  dsimp only
  repeat' first
    | with_reducible assumption | with_reducible exact id | with_reducible apply keeps_restoreRows
    | with_reducible apply keeps_setItem | with_reducible apply keeps_dropRest | with_reducible apply keeps_updCtx

theorem keeps_startReplay {s0 s : State} (h : Keeps s0 s) (i0 : Item) :
    Keeps s0 (startReplay s i0) := by
  unfold startReplay
  dsimp only
  repeat' first
    | with_reducible assumption | with_reducible exact id | with_reducible apply keeps_faultDamaged
    | with_reducible apply keeps_updSem | with_reducible apply keeps_setItem | with_reducible apply keeps_startAttempt
    | with_reducible apply keeps_restoreRows | with_reducible apply keeps_beginRest
    | with_reducible refine keepsF_upd rfl rfl ?_ ?_ ?_ ?_ ?_ ?_ ?_ ?_ ?_ ?_ | with_reducible exact twf_tput _ _ _ _
    | with_reducible exact fun q => memWf_storeBytes _ _ _ q | with_reducible exact fun _ q => q
    | with_reducible refine Keeps.foldl _ ?_ (fun _ _ _ => ?_) | with_reducible apply lanesOk_getCal | split

theorem keeps_foldAll {s0 s : State} (h : Keeps s0 s) (i : Item) : Keeps s0 (foldAll s i) := by
  unfold foldAll
  repeat' first
    | with_reducible exact h | with_reducible apply keeps_updCtx | with_reducible apply keeps_setCal
    | with_reducible apply lanesOk_getCal | split

theorem keeps_commitItem {s0 s : State} (h : Keeps s0 s) (i : Item) (bad : List (Fin 256)) : Keeps s0
    (commitItem s i bad) := by
  unfold commitItem
  repeat' first
    | with_reducible assumption | with_reducible exact id | with_reducible apply keeps_foldAll
    | with_reducible apply keeps_saveRows | with_reducible apply keeps_updSlot
    | with_reducible apply keeps_faultStream | with_reducible apply keeps_semAdd | with_reducible apply keeps_owePost
    | with_reducible apply keeps_endChunk | with_reducible apply keeps_resolveChDestroy
    | with_reducible apply keeps_resolveForce | with_reducible apply keeps_leaveWindow
    | with_reducible refine keepsF_upd rfl rfl ?_ ?_ ?_ ?_ ?_ ?_ ?_ ?_ ?_ ?_
    | with_reducible refine Keeps.foldl _ ?_ (fun _ _ _ => ?_) | split | simp only [keeps_mk]

theorem keeps_mbRing {s0 s : State} (h : Keeps s0 s) (m : Nat) : Keeps s0 (mbRing m s) := by
  unfold mbRing
  repeat' first
    | with_reducible exact h | with_reducible exact id | with_reducible apply keeps_setMb
    | with_reducible refine keepsF_upd rfl rfl ?_ ?_ ?_ ?_ ?_ ?_ ?_ ?_ ?_ ?_ | split | simp only [keeps_mk]

theorem keeps_mbRelease {s0 s : State} (h : Keeps s0 s) (m : Nat) : Keeps s0 (mbRelease m s) := by
  unfold mbRelease
  dsimp only
  repeat' first
    | with_reducible exact h | with_reducible apply keeps_setMb | split

theorem keeps_mbOverrunClear {s0 s : State} (h : Keeps s0 s) (m : Nat) : Keeps s0 (mbOverrunClear m s) := by
  unfold mbOverrunClear
  repeat' first
    | with_reducible exact h | with_reducible apply keeps_updMb

theorem keeps_forceEsc {s0 s : State} (h : Keeps s0 s) (level : Nat) (w : Word) : Keeps s0 (forceEsc level w s) := by
  unfold forceEsc
  repeat' first
    | with_reducible exact h | with_reducible apply keeps_startStep | split

theorem keeps_sqDoorbell {s0 s : State} (h : Keeps s0 s) (i : Nat) (prod : BitVec 16) : Keeps s0
    (sqDoorbell i prod s) := by
  unfold sqDoorbell
  dsimp only
  repeat' first
    | with_reducible exact h | with_reducible apply keeps_setChan | with_reducible apply keeps_postEvent | split

theorem keeps_cqDoorbell {s0 s : State} (h : Keeps s0 s) (i : Nat) (w : Word) : Keeps s0 (cqDoorbell i w s) := by
  unfold cqDoorbell
  repeat' first
    | with_reducible exact h | with_reducible apply keeps_updChan

theorem keeps_eqDoorbell {s0 s : State} (h : Keeps s0 s) (p : Nat) (w : Word) : Keeps s0 (eqDoorbell p w s) := by
  unfold eqDoorbell
  repeat' first
    | with_reducible exact h | with_reducible apply keeps_updPart

theorem keeps_intWrite {s0 s : State} (h : Keeps s0 s) (w : Word) : Keeps s0 (intWrite w s) := by
  unfold intWrite
  repeat' first
    | with_reducible exact h | with_reducible exact id
    | with_reducible refine keepsF_upd rfl rfl ?_ ?_ ?_ ?_ ?_ ?_ ?_ ?_ ?_ ?_ | simp only [keeps_mk]

theorem keeps_fatalWrite {s0 s : State} (h : Keeps s0 s) (w : Word) : Keeps s0 (fatalWrite w s) := by
  unfold fatalWrite
  repeat' first
    | with_reducible exact h | with_reducible exact id
    | with_reducible refine keepsF_upd rfl rfl ?_ ?_ ?_ ?_ ?_ ?_ ?_ ?_ ?_ ?_ | simp only [keeps_mk]

theorem keeps_readTimeLo {s0 s : State} (h : Keeps s0 s)  : Keeps s0 (readTimeLo s) := by
  unfold readTimeLo
  repeat' first
    | with_reducible exact h | with_reducible exact id
    | with_reducible refine keepsF_upd rfl rfl ?_ ?_ ?_ ?_ ?_ ?_ ?_ ?_ ?_ ?_ | simp only [keeps_mk]

theorem keeps_mbCtrlWrite {s0 s : State} (h : Keeps s0 s) (m : Nat) (w : Nat) : Keeps s0 (mbCtrlWrite m w s) := by
  unfold mbCtrlWrite
  repeat' first
    | with_reducible exact h | with_reducible apply keeps_mbOverrunClear | with_reducible apply keeps_mbRelease
    | with_reducible apply keeps_mbRing | split

theorem keeps_wordWrite {s0 s : State} (h : Keeps s0 s) (a : Nat) (w : Word) : Keeps s0 (wordWrite a w s) := by
  unfold wordWrite
  repeat' first
    | with_reducible exact h | with_reducible exact id | with_reducible apply keeps_fatalWrite
    | with_reducible apply keeps_forceEsc | with_reducible apply keeps_intWrite
    | with_reducible apply keeps_mbCtrlWrite | with_reducible apply keeps_sqDoorbell
    | with_reducible apply keeps_cqDoorbell | with_reducible apply keeps_eqDoorbell
    | with_reducible refine keepsF_upd rfl rfl ?_ ?_ ?_ ?_ ?_ ?_ ?_ ?_ ?_ ?_ | split | simp only [keeps_mk]

theorem keeps_windowWrite {s0 s : State} (h : Keeps s0 s) (a : Nat) (n : Nat) (data : BitVec 512) (be : BitVec 64) :
    Keeps s0 (windowWrite a n data be s) := by
  unfold windowWrite
  repeat' first
    | with_reducible assumption | with_reducible exact id | with_reducible apply keeps_updMb
    | with_reducible apply keeps_wordWrite | with_reducible refine keepsF_upd rfl rfl ?_ ?_ ?_ ?_ ?_ ?_ ?_ ?_ ?_ ?_
    | with_reducible exact twf_tput _ _ _ _ | with_reducible exact fun q => memWf_storeBytes _ _ _ q
    | with_reducible exact fun _ q => q | with_reducible refine Keeps.foldl _ ?_ (fun _ _ _ => ?_)
    | with_reducible apply lanesOk_getCal | split

theorem keeps_advance {s0 s : State} (h : Keeps s0 s) (i : Nat) :
    Keeps s0 (advance s i) := by
  unfold advance
  dsimp only
  repeat' first
    | with_reducible assumption | with_reducible exact id | with_reducible apply keeps_dropUsers
    | with_reducible apply keeps_updPart | with_reducible apply keeps_setChan

theorem keeps_number {s0 s : State} (h : Keeps s0 s) (i : Nat) : Keeps s0 (number s i) := by
  unfold number
  repeat' first
    | with_reducible exact h | with_reducible apply keeps_updChan

theorem keeps_refuseEntry {s0 s : State} (h : Keeps s0 s) (i : Nat) (status : Nat) (b : List Byte) : Keeps s0
    (refuseEntry s i status b) := by
  unfold refuseEntry
  repeat' first
    | with_reducible exact h | with_reducible exact id | with_reducible apply keeps_number
    | with_reducible refine keepsF_upd rfl rfl ?_ ?_ ?_ ?_ ?_ ?_ ?_ ?_ ?_ ?_ | simp only [keeps_mk]

theorem keeps_acceptEntry {s0 s : State} (h : Keeps s0 s) (i : Nat) (b : List Byte) (hs : List Word) (w : Slotting) :
    Keeps s0 (acceptEntry s i b hs w) := by
  unfold acceptEntry
  dsimp only
  repeat' first
    | with_reducible assumption | with_reducible exact id | with_reducible apply keeps_updSlot
    | with_reducible apply keeps_updChan | with_reducible apply keeps_number | with_reducible apply keeps_finishItem
    | with_reducible apply keeps_allFenced | with_reducible refine keepsF_upd rfl rfl ?_ ?_ ?_ ?_ ?_ ?_ ?_ ?_ ?_ ?_
    | with_reducible exact twf_tput _ _ _ _ | with_reducible exact fun q => memWf_storeBytes _ _ _ q
    | with_reducible exact fun _ q => q | with_reducible refine Keeps.foldl _ ?_ (fun _ _ _ => ?_)
    | with_reducible apply lanesOk_getCal | split | simp only [keeps_mk]

theorem keeps_runListed {s0 s : State} (h : Keeps s0 s) (i : Nat) (b : List Byte) (hs : List Word) :
    Keeps s0 (runListed s i b hs) := by
  unfold runListed
  repeat' first
    | with_reducible assumption | with_reducible exact id | with_reducible apply keeps_refuseEntry
    | with_reducible apply keeps_advance | with_reducible apply keeps_acceptEntry
    | with_reducible refine keepsF_upd rfl rfl ?_ ?_ ?_ ?_ ?_ ?_ ?_ ?_ ?_ ?_ | with_reducible exact twf_tput _ _ _ _
    | with_reducible exact fun q => memWf_storeBytes _ _ _ q | with_reducible exact fun _ q => q
    | with_reducible refine Keeps.foldl _ ?_ (fun _ _ _ => ?_) | with_reducible apply lanesOk_getCal | split

theorem keeps_runEntry {s0 s : State} (h : Keeps s0 s) (i : Nat) (b : List Byte) : Keeps s0 (runEntry s i b) := by
  unfold runEntry
  split
  · exact keeps_refuseEntry (keeps_advance h _) _ _ _
  · split
    · exact keeps_runListed h _ _ _
    · split
      · exact keeps_fwRead h (by rw [‹fwRead _ _ _ _ = _›]; rfl)
      · exact keeps_refuseEntry (keeps_advance h _) _ _ _
      · exact keeps_runListed h _ _ _

theorem keeps_confirm {s0 s : State} (h : Keeps s0 s) (i : Nat) :
    Keeps s0 (confirm s i) := by
  unfold confirm
  dsimp only
  repeat' first
    | with_reducible assumption | with_reducible exact id | with_reducible apply keeps_dropJob
    | with_reducible apply keeps_setChan | with_reducible apply keeps_resolveChDestroy
    | with_reducible apply keeps_raiseInt | with_reducible refine keepsF_upd rfl rfl ?_ ?_ ?_ ?_ ?_ ?_ ?_ ?_ ?_ ?_
    | with_reducible exact twf_tput _ _ _ _ | with_reducible exact fun q => memWf_storeBytes _ _ _ q
    | with_reducible exact fun _ q => q | with_reducible refine Keeps.foldl _ ?_ (fun _ _ _ => ?_)
    | with_reducible apply lanesOk_getCal | split | simp only [keeps_mk]

theorem keeps_loseChan {s0 s : State} (h : Keeps s0 s) (i : Nat) :
    Keeps s0 (loseChan s i) := by
  unfold loseChan
  dsimp only
  repeat' first
    | with_reducible assumption | with_reducible exact id | with_reducible apply keeps_confirm
    | with_reducible apply keeps_dropChan | with_reducible apply keeps_setChan | with_reducible apply keeps_postEvent
    | with_reducible apply keeps_cancelQueued | with_reducible apply keeps_resolveChDestroy
    | with_reducible refine keepsF_upd rfl rfl ?_ ?_ ?_ ?_ ?_ ?_ ?_ ?_ ?_ ?_ | with_reducible exact twf_tput _ _ _ _
    | with_reducible exact fun q => memWf_storeBytes _ _ _ q | with_reducible exact fun _ q => q
    | with_reducible refine Keeps.foldl _ ?_ (fun _ _ _ => ?_) | with_reducible apply lanesOk_getCal | split
    | simp only [keeps_mk]

theorem keeps_nextPost {s0 s : State} (h : Keeps s0 s) (i : Nat) (n : Nat) :
    Keeps s0 (nextPost s i n) := by
  unfold nextPost
  repeat' first
    | with_reducible assumption | with_reducible exact id
    | with_reducible refine keepsF_upd rfl rfl ?_ ?_ ?_ ?_ ?_ ?_ ?_ ?_ ?_ ?_ | with_reducible exact twf_tput _ _ _ _
    | with_reducible exact fun q => memWf_storeBytes _ _ _ q | with_reducible exact fun _ q => q
    | with_reducible refine Keeps.foldl _ ?_ (fun _ _ _ => ?_) | with_reducible apply lanesOk_getCal | split
    | simp only [keeps_mk]

theorem keeps_moreJob {s0 s : State} (h : Keeps s0 s) (u : User) (bs : List Burst) :
    Keeps s0 (moreJob s u bs) := by
  unfold moreJob
  repeat' first
    | with_reducible assumption | with_reducible exact id | with_reducible apply keeps_addJob
    | with_reducible apply keeps_pump | with_reducible refine keepsF_upd rfl rfl ?_ ?_ ?_ ?_ ?_ ?_ ?_ ?_ ?_ ?_
    | with_reducible exact twf_tput _ _ _ _ | with_reducible exact fun q => memWf_storeBytes _ _ _ q
    | with_reducible exact fun _ q => q | with_reducible refine Keeps.foldl _ ?_ (fun _ _ _ => ?_)
    | with_reducible apply lanesOk_getCal | split | simp only [keeps_mk]

theorem keeps_writeRecord {s0 s : State} (h : Keeps s0 s) (i : Nat) (o : Post) :
    Keeps s0 (writeRecord s i o) := by
  unfold writeRecord
  dsimp only
  repeat' first
    | with_reducible assumption | with_reducible exact id | with_reducible apply keeps_moreJob
    | with_reducible apply keeps_dropJob | with_reducible apply keeps_nextPost | with_reducible apply keeps_postEvent
    | with_reducible refine keepsF_upd rfl rfl ?_ ?_ ?_ ?_ ?_ ?_ ?_ ?_ ?_ ?_ | with_reducible exact twf_tput _ _ _ _
    | with_reducible exact fun q => memWf_storeBytes _ _ _ q | with_reducible exact fun _ q => q
    | with_reducible refine Keeps.foldl _ ?_ (fun _ _ _ => ?_) | with_reducible apply lanesOk_getCal | split

theorem keeps_unconfirmed {s0 s : State} (h : Keeps s0 s) (i : Nat) :
    Keeps s0 (unconfirmed s i) := by
  unfold unconfirmed
  repeat' first
    | with_reducible assumption | with_reducible exact id | with_reducible apply keeps_dropJob
    | with_reducible refine keepsF_upd rfl rfl ?_ ?_ ?_ ?_ ?_ ?_ ?_ ?_ ?_ ?_ | with_reducible exact twf_tput _ _ _ _
    | with_reducible exact fun q => memWf_storeBytes _ _ _ q | with_reducible exact fun _ q => q
    | with_reducible refine Keeps.foldl _ ?_ (fun _ _ _ => ?_) | with_reducible apply lanesOk_getCal | split
    | simp only [keeps_mk]

theorem keeps_tickCtx {s0 s : State} (h : Keeps s0 s) (x : Nat) : Keeps s0 (tickCtx s x) := by
  unfold tickCtx
  repeat' first
    | with_reducible exact h | with_reducible apply keeps_updCtx | split

theorem keeps_portCycle {s0 s : State} (h : Keeps s0 s) (q : Nat) :
    Keeps s0 (portCycle s q) := by
  unfold portCycle
  dsimp only
  repeat' first
    | with_reducible assumption | with_reducible exact id | with_reducible apply keeps_updCal
    | with_reducible refine keepsF_upd rfl rfl ?_ ?_ ?_ ?_ ?_ ?_ ?_ ?_ ?_ ?_ | with_reducible exact twf_tput _ _ _ _
    | with_reducible exact fun q => memWf_storeBytes _ _ _ q | with_reducible exact fun _ q => q
    | with_reducible refine Keeps.foldl _ ?_ (fun _ _ _ => ?_) | with_reducible apply lanesOk_getCal | split
    | simp only [keeps_mk]

theorem keeps_putImg {s0 s : State} (h : Keeps s0 s) (i : Item) (u : RowImg) (bs : List Byte) :
    Keeps s0 (putImg s i u bs) :=
  keeps_updCal h _ _ fun _ hk => by rw [lanes_restoreRow]; exact hk

theorem keeps_slotWrite {s0 s : State} (h : Keeps s0 s) (c : Nat) : Keeps s0 (slotWrite s c) := by
  have hw : ∀ (u : RowImg) (t : State) (b : Item → List Byte), Keeps s0 t →
      Keeps s0 ((winItemOf s u.ctx).elim t fun i => putImg t i u (b i)) := fun u t b ht => by
    cases winItemOf s u.ctx with
    | none => exact ht
    | some i => exact keeps_putImg ht _ _ _
  have hc : ∀ f : Cal → Cal, (∀ k, (f k).lanes = k.lanes) → Keeps s0 (updCal s c f) := fun f hf =>
    keeps_updCal h _ _ fun k hk => by rw [hf]; exact hk
  unfold slotWrite
  dsimp only
  split
  · exact hw _ _ _ (hc _ fun _ => rfl)
  · exact hw _ _ _ (hc _ fun _ => rfl)
  · exact h

theorem keeps_restCycle {s0 s : State} (h : Keeps s0 s)  :
    Keeps s0 (restCycle s) := by
  unfold restCycle
  dsimp only
  repeat' first
    | with_reducible assumption | with_reducible exact id | with_reducible apply keeps_slotWrite
    | with_reducible apply keeps_portCycle | with_reducible refine keepsF_upd rfl rfl ?_ ?_ ?_ ?_ ?_ ?_ ?_ ?_ ?_ ?_
    | with_reducible exact twf_tput _ _ _ _ | with_reducible exact fun q => memWf_storeBytes _ _ _ q
    | with_reducible exact fun _ q => q | with_reducible refine Keeps.foldl _ ?_ (fun _ _ _ => ?_)
    | with_reducible apply lanesOk_getCal | split

theorem keeps_tick {s0 s : State} (h : Keeps s0 s)  :
    Keeps s0 (tick s) := by
  unfold tick
  dsimp only
  repeat' first
    | with_reducible assumption | with_reducible exact id | with_reducible apply keeps_restCycle
    | with_reducible apply keeps_tickCtx | with_reducible refine keepsF_upd rfl rfl ?_ ?_ ?_ ?_ ?_ ?_ ?_ ?_ ?_ ?_
    | with_reducible exact twf_tput _ _ _ _ | with_reducible exact fun q => memWf_storeBytes _ _ _ q
    | with_reducible exact fun _ q => q | with_reducible refine Keeps.foldl _ ?_ (fun _ _ _ => ?_)
    | with_reducible apply lanesOk_getCal | split | simp only [keeps_mk]

theorem keeps_sampleLock {s0 s : State} (h : Keeps s0 s) (v : Nat) : Keeps s0 (sampleLock s v) := by
  unfold sampleLock
  dsimp only
  repeat' first
    | with_reducible assumption | with_reducible exact id | with_reducible apply keeps_postBlockEvent
    | with_reducible refine keepsF_upd rfl rfl ?_ ?_ ?_ ?_ ?_ ?_ ?_ ?_ ?_ ?_ | split | simp only [keeps_mk]

theorem keeps_timeFault {s0 s : State} (h : Keeps s0 s)  : Keeps s0 (timeFault s) := by
  unfold timeFault
  repeat' first
    | with_reducible exact h | with_reducible exact id | with_reducible apply keeps_raiseInt
    | with_reducible apply keeps_postBlockEvent
    | with_reducible refine keepsF_upd rfl rfl ?_ ?_ ?_ ?_ ?_ ?_ ?_ ?_ ?_ ?_ | split | simp only [keeps_mk]

theorem keeps_backStep {s0 s : State} (h : Keeps s0 s)  : Keeps s0 (backStep s) := by
  unfold backStep
  repeat' first
    | with_reducible exact h | with_reducible exact id | with_reducible apply keeps_timeFault
    | with_reducible refine keepsF_upd rfl rfl ?_ ?_ ?_ ?_ ?_ ?_ ?_ ?_ ?_ ?_ | split | simp only [keeps_mk]

theorem keeps_checkSample {s0 s : State} (h : Keeps s0 s) (v : Nat) : Keeps s0 (checkSample s v) := by
  unfold checkSample
  dsimp only
  repeat' first
    | with_reducible assumption | with_reducible apply keeps_sampleLock | with_reducible apply keeps_postBlockEvent
    | with_reducible apply keeps_backStep | split

theorem keeps_ringBells {s0 s : State} (h : Keeps s0 s)  : Keeps s0 (ringBells s) := by
  unfold ringBells
  repeat' first
    | with_reducible assumption | with_reducible exact id | with_reducible apply keeps_sendResponse
    | with_reducible apply keeps_sqDoorbell | with_reducible refine keepsF_upd rfl rfl ?_ ?_ ?_ ?_ ?_ ?_ ?_ ?_ ?_ ?_
    | with_reducible refine Keeps.foldl _ ?_ (fun _ _ _ => ?_) | simp only [keeps_mk]

theorem keeps_answered1 {s0 s : State} (h : Keeps s0 s) (id : Nat) : Keeps s0 (answered1 s id) := by
  unfold answered1
  exact keeps_ringBells h

theorem keeps_finishRemote {s0 s : State} (h : Keeps s0 s) (r : Remote) : Keeps s0 (finishRemote s r) := by
  unfold finishRemote
  repeat' first
    | with_reducible exact h | with_reducible exact id | with_reducible apply keeps_answered1
    | with_reducible apply keeps_dropJob | with_reducible apply keeps_sendResponse
    | with_reducible refine keepsF_upd rfl rfl ?_ ?_ ?_ ?_ ?_ ?_ ?_ ?_ ?_ ?_ | split

theorem keeps_settleRemotes {s0 s : State} (h : Keeps s0 s)  : Keeps s0 (settleRemotes s) := by
  unfold settleRemotes
  repeat' first
    | with_reducible assumption | with_reducible apply keeps_finishRemote
    | with_reducible refine Keeps.foldl _ ?_ (fun _ _ _ => ?_)

theorem keeps_startRemote {s0 s : State} (h : Keeps s0 s) (r : Remote) (stages : List (List Burst)) : Keeps s0
    (startRemote s r stages) := by
  unfold startRemote
  repeat' first
    | with_reducible exact h | with_reducible exact id | with_reducible apply keeps_settleRemotes
    | with_reducible apply keeps_addJob | with_reducible refine keepsF_upd rfl rfl ?_ ?_ ?_ ?_ ?_ ?_ ?_ ?_ ?_ ?_
    | simp only [keeps_mk]

theorem keeps_doWrite {s0 s : State} (h : Keeps s0 s) (f : Frame) (q : Nat) : Keeps s0 (doWrite f s q) := by
  unfold doWrite
  dsimp only
  repeat' first
    | with_reducible exact h | with_reducible apply keeps_sendResponse | with_reducible apply keeps_setPeer
    | with_reducible apply keeps_startRemote | with_reducible apply keeps_updCal | with_reducible exact fun _ q => q
    | split

theorem keeps_doRead {s0 s : State} (h : Keeps s0 s) (f : Frame) (q : Nat) : Keeps s0 (doRead f s q) := by
  unfold doRead
  dsimp only
  repeat' first
    | with_reducible exact h | with_reducible apply keeps_sendResponse | with_reducible apply keeps_startRemote
    | split

theorem keeps_doAdd {s0 s : State} (h : Keeps s0 s) (f : Frame) (q : Nat) : Keeps s0 (doAdd f s q) := by
  unfold doAdd
  dsimp only
  repeat' first
    | with_reducible assumption | with_reducible exact id | with_reducible apply keeps_sendResponse
    | with_reducible apply keeps_updCal | with_reducible apply keeps_settleRemotes | with_reducible apply keeps_goAdds
    | with_reducible apply keeps_arriveAdd | with_reducible refine keepsF_upd rfl rfl ?_ ?_ ?_ ?_ ?_ ?_ ?_ ?_ ?_ ?_
    | with_reducible exact fun _ q => q | with_reducible refine Keeps.foldl _ ?_ (fun _ _ _ => ?_) | split
    | simp only [keeps_mk]

theorem keeps_doBell {s0 s : State} (h : Keeps s0 s) (f : Frame) (q : Nat) : Keeps s0 (doBell f s q) := by
  unfold doBell
  repeat' first
    | with_reducible exact h | with_reducible exact id | with_reducible apply keeps_sendResponse
    | with_reducible apply keeps_ringBells | with_reducible refine keepsF_upd rfl rfl ?_ ?_ ?_ ?_ ?_ ?_ ?_ ?_ ?_ ?_
    | split | simp only [keeps_mk]

theorem keeps_putSegment {s0 s : State} (h : Keeps s0 s) (a : Arrival) (f : Frame) : Keeps s0 (putSegment s a f) := by
  unfold putSegment
  repeat' first
    | with_reducible exact h | with_reducible exact id | with_reducible apply keeps_postEvent
    | with_reducible refine keepsF_upd rfl rfl ?_ ?_ ?_ ?_ ?_ ?_ ?_ ?_ ?_ ?_
    | with_reducible exact fun q => memWf_storeBytes _ _ _ q | split | simp only [keeps_mk]

theorem keeps_firstSegment {s0 s : State} (h : Keeps s0 s) (q : Nat) (f : Frame) : Keeps s0 (firstSegment s q f) := by
  unfold firstSegment
  repeat' first
    | with_reducible exact h | with_reducible exact id | with_reducible apply keeps_putSegment
    | with_reducible apply keeps_updSlot | with_reducible apply keeps_sendResponse
    | with_reducible refine keepsF_upd rfl rfl ?_ ?_ ?_ ?_ ?_ ?_ ?_ ?_ ?_ ?_ | split | simp only [keeps_mk]

theorem keeps_doState {s0 s : State} (h : Keeps s0 s) (f : Frame) (q : Nat) : Keeps s0 (doState f s q) := by
  unfold doState
  repeat' first
    | with_reducible exact h | with_reducible apply keeps_firstSegment | with_reducible apply keeps_putSegment | split

theorem keeps_doCancel {s0 s : State} (h : Keeps s0 s) (f : Frame) (q : Nat) : Keeps s0 (doCancel f s q) := by
  unfold doCancel
  repeat' first
    | with_reducible exact h | with_reducible apply keeps_dropArrival | with_reducible apply keeps_sendResponse
    | split

theorem keeps_moveBack {s0 s : State} (h : Keeps s0 s) (q : Nat) : Keeps s0 (moveBack s q) := by
  unfold moveBack
  dsimp only
  repeat' first
    | with_reducible apply keeps_askAgain
    | with_reducible exact h | with_reducible apply keeps_setPeer | split

theorem keeps_exportsSent {s0 s : State} (h : Keeps s0 s) (q : Nat) : Keeps s0 (exportsSent s q) := by
  unfold exportsSent
  repeat' first
    | with_reducible assumption | with_reducible apply keeps_updSlot
    | with_reducible refine Keeps.foldl _ ?_ (fun _ _ _ => ?_)

theorem keeps_acked {s0 s : State} (h : Keeps s0 s) (q : Nat) (f : Frame) : Keeps s0 (acked s q f) := by
  unfold acked
  repeat' first
    | with_reducible exact h | with_reducible apply keeps_setPeer | with_reducible apply keeps_presentPeer
    | with_reducible apply keeps_moveBack | with_reducible apply keeps_exportsSent

theorem keeps_failExports {s0 s : State} (h : Keeps s0 s) (q : Nat) : Keeps s0 (failExports s q) := by
  unfold failExports
  repeat' first
    | with_reducible assumption | with_reducible apply keeps_exportFail | with_reducible apply keeps_dropState
    | with_reducible refine Keeps.foldl _ ?_ (fun _ _ _ => ?_)

theorem keeps_stopExport {s0 s : State} (h : Keeps s0 s) (v : Nat) :
    Keeps s0 (stopExport s v) := by
  unfold stopExport
  repeat' first
    | with_reducible assumption | with_reducible exact id | with_reducible apply keeps_cancelMove
    | with_reducible apply keeps_exportFail | with_reducible refine keepsF_upd rfl rfl ?_ ?_ ?_ ?_ ?_ ?_ ?_ ?_ ?_ ?_
    | with_reducible exact twf_tput _ _ _ _ | with_reducible exact fun q => memWf_storeBytes _ _ _ q
    | with_reducible exact fun _ q => q | with_reducible refine Keeps.foldl _ ?_ (fun _ _ _ => ?_)
    | with_reducible apply lanesOk_getCal | split

theorem keeps_failImports {s0 s : State} (h : Keeps s0 s) (q : Nat) :
    Keeps s0 (failImports s q) := by
  unfold failImports
  dsimp only
  repeat' first
    | with_reducible assumption | with_reducible exact id | with_reducible apply keeps_faultStream
    | with_reducible apply keeps_stopExport | with_reducible apply keeps_setPeer
    | with_reducible refine keepsF_upd rfl rfl ?_ ?_ ?_ ?_ ?_ ?_ ?_ ?_ ?_ ?_ | with_reducible exact twf_tput _ _ _ _
    | with_reducible exact fun q => memWf_storeBytes _ _ _ q | with_reducible exact fun _ q => q
    | with_reducible refine Keeps.foldl _ ?_ (fun _ _ _ => ?_) | with_reducible apply lanesOk_getCal | split

theorem keeps_dropIncomplete {s0 s : State} (h : Keeps s0 s) (q : Nat) : Keeps s0 (dropIncomplete s q) := by
  unfold dropIncomplete
  repeat' first
    | with_reducible assumption | with_reducible exact id | with_reducible apply keeps_updSlot
    | with_reducible refine keepsF_upd rfl rfl ?_ ?_ ?_ ?_ ?_ ?_ ?_ ?_ ?_ ?_
    | with_reducible refine Keeps.foldl _ ?_ (fun _ _ _ => ?_) | simp only [keeps_mk]
    | exact fun q => memWf_clearRange _ _ _ q

theorem keeps_declareLost {s0 s : State} (h : Keeps s0 s) (q : Nat) :
    Keeps s0 (declareLost s q) := by
  unfold declareLost
  dsimp only
  repeat' first
    | with_reducible assumption | with_reducible exact id | with_reducible apply keeps_failExports
    | with_reducible apply keeps_failImports | with_reducible apply keeps_setPeer
    | with_reducible apply keeps_postBlockEvent | with_reducible apply keeps_report
    | with_reducible apply keeps_portFault | with_reducible apply keeps_dropIncomplete
    | with_reducible refine keepsF_upd rfl rfl ?_ ?_ ?_ ?_ ?_ ?_ ?_ ?_ ?_ ?_ | with_reducible exact twf_tput _ _ _ _
    | with_reducible exact fun q => memWf_storeBytes _ _ _ q | with_reducible exact fun _ q => q
    | with_reducible refine Keeps.foldl _ ?_ (fun _ _ _ => ?_) | with_reducible apply lanesOk_getCal | split
    | simp only [keeps_mk]

theorem keeps_losePeer {s0 s : State} (h : Keeps s0 s) (q : Nat) :
    Keeps s0 (losePeer s q) := by
  unfold losePeer
  repeat' first
    | with_reducible assumption | with_reducible exact id | with_reducible apply keeps_sendCtl
    | with_reducible apply keeps_declareLost

theorem keeps_endLost {s0 s : State} (h : Keeps s0 s) (q : Nat) :
    Keeps s0 (endLost s q) := by
  unfold endLost
  repeat' first
    | with_reducible assumption | with_reducible exact id | with_reducible apply keeps_dropIncomplete
    | with_reducible apply keeps_failExports | with_reducible apply keeps_failImports

theorem keeps_meet {s0 s : State} (h : Keeps s0 s) (f : Frame) :
    Keeps s0 (meet s f) := by
  unfold meet
  dsimp only
  repeat' first
    | with_reducible assumption | with_reducible exact id | with_reducible apply keeps_setPeer
    | with_reducible apply keeps_endLost | with_reducible apply keeps_declareLost | with_reducible apply keeps_sendCtl
    | with_reducible refine keepsF_upd rfl rfl ?_ ?_ ?_ ?_ ?_ ?_ ?_ ?_ ?_ ?_ | with_reducible exact twf_tput _ _ _ _
    | with_reducible exact fun q => memWf_storeBytes _ _ _ q | with_reducible exact fun _ q => q
    | with_reducible refine Keeps.foldl _ ?_ (fun _ _ _ => ?_) | with_reducible apply lanesOk_getCal | split

theorem keeps_takeBack {s0 s : State} (h : Keeps s0 s) : Keeps s0 (takeBack s) := by
  unfold takeBack
  repeat' first
    | with_reducible assumption | with_reducible exact id
    | with_reducible refine keepsF_upd rfl rfl ?_ ?_ ?_ ?_ ?_ ?_ ?_ ?_ ?_ ?_
    | with_reducible exact fun _ => twf_tmap _ _ _ | split | simp only [keeps_mk]

theorem keeps_took {s0 s : State} (h : Keeps s0 s) (q : Nat) (rsp : Bool) (f : Frame) : Keeps s0 (took s q rsp f) :=
    by
  unfold took
  dsimp only
  repeat' first
    | with_reducible assumption | with_reducible exact id | with_reducible apply keeps_takeBack
    | with_reducible apply keeps_setPeer

theorem keeps_nakOnce {s0 s : State} (h : Keeps s0 s) (q : Nat) (rsp : Bool) : Keeps s0 (nakOnce s q rsp) := by
  unfold nakOnce
  dsimp only
  repeat' first
    | with_reducible assumption | with_reducible exact id | with_reducible apply keeps_ctlOver
    | with_reducible apply keeps_setPeer | with_reducible refine keepsF_upd rfl rfl ?_ ?_ ?_ ?_ ?_ ?_ ?_ ?_ ?_ ?_
    | split

theorem keeps_refuseMove {s0 s : State} (h : Keeps s0 s) (u : User) (addr : Nat) :
    Keeps s0 (refuseMove s u addr) := by
  unfold refuseMove
  dsimp only
  repeat' first
    | with_reducible assumption | with_reducible exact id | with_reducible apply keeps_markErr
    | with_reducible apply keeps_settle | with_reducible apply keeps_moveHalt
    | with_reducible refine keepsF_upd rfl rfl ?_ ?_ ?_ ?_ ?_ ?_ ?_ ?_ ?_ ?_ | with_reducible exact twf_tput _ _ _ _
    | with_reducible exact fun q => memWf_storeBytes _ _ _ q | with_reducible exact fun _ q => q
    | with_reducible refine Keeps.foldl _ ?_ (fun _ _ _ => ?_) | with_reducible apply lanesOk_getCal | split

theorem keeps_answer {s0 s : State} (h : Keeps s0 s) (p : Nat) (f : Frame) (g : Xfer → Nat → Xfer) (zh : Lookup → Nat
    → Lookup) (q : Nat) : Keeps s0 (answer p f g zh s q) := by
  unfold answer
  dsimp only
  repeat' first
    | with_reducible assumption | with_reducible exact id | with_reducible apply keeps_goXfers
    | with_reducible apply keeps_updMove | with_reducible apply keeps_portFault
    | with_reducible apply keeps_refuseMove | with_reducible apply keeps_presentPeer
    | with_reducible refine keepsF_upd rfl rfl ?_ ?_ ?_ ?_ ?_ ?_ ?_ ?_ ?_ ?_ | split | simp only [keeps_mk]

theorem keeps_doSresult {s0 s : State} (h : Keeps s0 s) (f : Frame) (q : Nat) : Keeps s0 (doSresult f s q) := by
  unfold doSresult
  repeat' first
    | with_reducible assumption | with_reducible exact id | with_reducible apply keeps_presentPeer
    | with_reducible apply keeps_exportDone | with_reducible apply keeps_exportFail
    | with_reducible refine keepsF_upd rfl rfl ?_ ?_ ?_ ?_ ?_ ?_ ?_ ?_ ?_ ?_ | split | simp only [keeps_mk]

theorem keeps_resendTo {s0 s : State} (h : Keeps s0 s) (q : Nat) (rsp : Bool) (from_ : Word) : Keeps s0 (resendTo s q
    rsp from_) := by
  unfold resendTo
  dsimp only
  repeat' first
    | with_reducible assumption | with_reducible apply keeps_setPeer

theorem keeps_probed {s0 s : State} (h : Keeps s0 s) (p : Nat) (q : Nat) : Keeps s0 (probed p s q) := by
  unfold probed
  repeat' first
    | with_reducible exact h | with_reducible apply keeps_setPeer | with_reducible apply keeps_presentPeer
    | with_reducible apply keeps_moveBack

theorem keeps_resendPeer {s0 s : State} (h : Keeps s0 s) (q : Nat) (count : PClass → Nat) :
    Keeps s0 (resendPeer s q count) := by
  unfold resendPeer
  dsimp only
  repeat' first
    | with_reducible assumption | with_reducible exact id | with_reducible apply keeps_setPeer
    | with_reducible refine keepsF_upd rfl rfl ?_ ?_ ?_ ?_ ?_ ?_ ?_ ?_ ?_ ?_ | with_reducible exact twf_tput _ _ _ _
    | with_reducible exact fun q => memWf_storeBytes _ _ _ q | with_reducible exact fun _ q => q
    | with_reducible refine Keeps.foldl _ ?_ (fun _ _ _ => ?_) | with_reducible apply lanesOk_getCal | split

theorem keeps_movePair {s0 s : State} (h : Keeps s0 s) (q : Nat) :
    Keeps s0 (movePair s q) := by
  unfold movePair
  dsimp only
  repeat' first
    | with_reducible assumption | with_reducible exact id | with_reducible apply keeps_resendPeer
    | with_reducible apply keeps_askAgain | with_reducible apply keeps_setPeer | with_reducible apply keeps_probed
    | with_reducible apply keeps_ctlOver | with_reducible refine keepsF_upd rfl rfl ?_ ?_ ?_ ?_ ?_ ?_ ?_ ?_ ?_ ?_
    | with_reducible exact twf_tput _ _ _ _ | with_reducible exact fun q => memWf_storeBytes _ _ _ q
    | with_reducible exact fun _ q => q | with_reducible refine Keeps.foldl _ ?_ (fun _ _ _ => ?_)
    | with_reducible apply lanesOk_getCal | split

theorem keeps_switchPort {s0 s : State} (h : Keeps s0 s) (q : Nat) :
    Keeps s0 (switchPort s q) := by
  unfold switchPort
  repeat' first
    | with_reducible assumption | with_reducible exact id | with_reducible apply keeps_presentPeer
    | with_reducible apply keeps_movePair

theorem keeps_setPort {s0 s : State} (h : Keeps s0 s) (p : Nat) (up : Bool) : Keeps s0 (setPort s p up) := by
  unfold setPort
  repeat' first
    | with_reducible exact h | with_reducible exact id
    | with_reducible refine keepsF_upd rfl rfl ?_ ?_ ?_ ?_ ?_ ?_ ?_ ?_ ?_ ?_ | simp only [keeps_mk]

theorem keeps_portRisen {s0 s : State} (h : Keeps s0 s) (p : Nat) (q : Nat) :
    Keeps s0 (portRisen p s q) := by
  unfold portRisen
  dsimp only
  repeat' first
    | with_reducible assumption | with_reducible exact id | with_reducible apply keeps_movePair
    | with_reducible apply keeps_ctlOver | with_reducible refine keepsF_upd rfl rfl ?_ ?_ ?_ ?_ ?_ ?_ ?_ ?_ ?_ ?_
    | with_reducible exact twf_tput _ _ _ _ | with_reducible exact fun q => memWf_storeBytes _ _ _ q
    | with_reducible exact fun _ q => q | with_reducible refine Keeps.foldl _ ?_ (fun _ _ _ => ?_)
    | with_reducible apply lanesOk_getCal | split

theorem keeps_markExports {s0 s : State} (h : Keeps s0 s)  : Keeps s0 (markExports s) := by
  unfold markExports
  repeat' first
    | with_reducible assumption | with_reducible apply keeps_updSlot
    | with_reducible refine Keeps.foldl _ ?_ (fun _ _ _ => ?_) | split

theorem keeps_goOn {s0 s : State} (h : Keeps s0 s) : Keeps s0 (goOn s) := by
  unfold goOn
  repeat' first
    | with_reducible assumption | with_reducible apply keeps_goXfers | with_reducible apply keeps_settleRemotes
    | with_reducible apply keeps_goAdds | with_reducible apply keeps_markExports | with_reducible apply keeps_pump

theorem keeps_reqFault {s0 s : State} (h : Keeps s0 s) (u : User) (unit : BitVec 8) (loc : Word) (halt : Bool) (addr : Nat) (status : Nat) :
    Keeps s0 (reqFault s u unit loc halt addr status) := by
  unfold reqFault
  dsimp only
  repeat' first
    | with_reducible assumption | with_reducible exact id | with_reducible apply keeps_exportFail
    | with_reducible apply keeps_report | with_reducible apply keeps_fillFault | with_reducible apply keeps_portFault
    | with_reducible apply keeps_loseChan | with_reducible refine keepsF_upd rfl rfl ?_ ?_ ?_ ?_ ?_ ?_ ?_ ?_ ?_ ?_
    | with_reducible exact twf_tput _ _ _ _ | with_reducible exact fun q => memWf_storeBytes _ _ _ q
    | with_reducible exact fun _ q => q | with_reducible refine Keeps.foldl _ ?_ (fun _ _ _ => ?_)
    | with_reducible apply lanesOk_getCal | split

theorem keeps_finishReq {s0 s : State} (h : Keeps s0 s) (r : Req) (ok last : Bool) : Keeps s0 (finishReq s r ok last)
    := by
  unfold finishReq
  dsimp only
  repeat' first
    | with_reducible assumption | with_reducible apply keeps_endReq | with_reducible apply keeps_goOn
    | with_reducible apply keeps_reqFault | split

theorem keeps_failHeld {s0 s : State} (h : Keeps s0 s)  : Keeps s0 (failHeld s) := by
  unfold failHeld
  repeat' first
    | with_reducible assumption | with_reducible apply keeps_reqFault | with_reducible apply keeps_failJob
    | with_reducible refine Keeps.foldl _ ?_ (fun _ _ _ => ?_)

theorem keeps_failHostExports {s0 s : State} (h : Keeps s0 s)  : Keeps s0 (failHostExports s) := by
  unfold failHostExports
  repeat' first
    | with_reducible assumption | with_reducible apply keeps_exportFail
    | with_reducible refine Keeps.foldl _ ?_ (fun _ _ _ => ?_)

theorem keeps_loseHostChans {s0 s : State} (h : Keeps s0 s)  : Keeps s0 (loseHostChans s) := by
  unfold loseHostChans
  repeat' first
    | with_reducible assumption | with_reducible apply keeps_loseChan
    | with_reducible refine Keeps.foldl _ ?_ (fun _ _ _ => ?_)

theorem keeps_hostLoss {s0 s : State} (h : Keeps s0 s) (code : Nat) : Keeps s0 (hostLoss s code) := by
  unfold hostLoss
  repeat' first
    | with_reducible exact h | with_reducible apply keeps_failHeld | with_reducible apply keeps_failHostExports
    | with_reducible apply keeps_loseHostChans | with_reducible apply keeps_postBlockEvent

theorem keeps_invalidateHost {s0 s : State} (h : Keeps s0 s)  : Keeps s0 (invalidateHost s) := by
  unfold invalidateHost
  repeat' first
    | with_reducible exact h | with_reducible exact id
    | with_reducible refine keepsF_upd rfl rfl ?_ ?_ ?_ ?_ ?_ ?_ ?_ ?_ ?_ ?_ | simp only [keeps_mk]

theorem keeps_setLink {s0 s : State} (h : Keeps s0 s) (up : Bool) (retrain : Bool) : Keeps s0
    (setLink s up retrain) := by
  unfold setLink
  repeat' first
    | with_reducible exact h | with_reducible exact id
    | with_reducible refine keepsF_upd rfl rfl ?_ ?_ ?_ ?_ ?_ ?_ ?_ ?_ ?_ ?_ | simp only [keeps_mk]

theorem keeps_wipeToOff {s0 s : State} (h : Keeps s0 s)  : Keeps s0 (wipeToOff s) := by
  unfold wipeToOff
  repeat' first
    | with_reducible exact h | with_reducible exact id | with_reducible apply keeps_wiped
    | with_reducible refine keepsF_upd rfl rfl ?_ ?_ ?_ ?_ ?_ ?_ ?_ ?_ ?_ ?_ | simp only [keeps_mk]

theorem keeps_dueWipe {s0 s t : State} (h : Keeps s0 s) (ht : dueWipe s = some t) : Keeps s0 t := by
  obtain ⟨lv, -, rfl⟩ := Option.map_eq_some_iff.mp ht
  split
  · exact keeps_wipeToOff h
  · exact keeps_secureWipeTo h _

theorem keeps_blockReset {s0 s : State} (h : Keeps s0 s) : Keeps s0 (blockReset s) := by
  unfold blockReset
  cases e : dueWipe s with
  | none => exact keeps_blockWipe h
  | some t => exact keeps_dueWipe h e

theorem keeps_blockStep {s0 s : State} (h : Keeps s0 s)  :
    Keeps s0 (blockStep s) := by
  unfold blockStep
  dsimp only
  repeat' first
    | with_reducible assumption | with_reducible exact id | with_reducible apply keeps_blockReset
    | with_reducible apply keeps_wiped | with_reducible refine keepsF_upd rfl rfl ?_ ?_ ?_ ?_ ?_ ?_ ?_ ?_ ?_ ?_
    | with_reducible exact twf_tput _ _ _ _ | with_reducible exact fun q => memWf_storeBytes _ _ _ q
    | with_reducible exact fun _ q => q | with_reducible refine Keeps.foldl _ ?_ (fun _ _ _ => ?_)
    | with_reducible apply lanesOk_getCal | split | simp only [keeps_mk]

theorem keeps_holdAll {s0 s : State} (h : Keeps s0 s)  : Keeps s0 (holdAll s) := by
  unfold holdAll
  repeat' first
    | with_reducible assumption | with_reducible apply keeps_updCal | with_reducible apply keeps_engReset
    | with_reducible refine Keeps.foldl _ ?_ (fun _ _ _ => ?_) | with_reducible exact fun _ q => q

theorem keeps_powerOff {s0 s : State} (h : Keeps s0 s) : Keeps s0 (powerOff s) := by
  unfold powerOff
  simp only [keeps_mk]
  refine ⟨h.1, fun h0 => ⟨⟨(h.2 h0).1.1, (h.2 h0).1.2.1, rfl⟩, rfl, rfl, rfl, rfl, rfl, rfl, rfl, fun _ => rfl⟩⟩

theorem keeps_powerOn {s0 s : State} (h : Keeps s0 s)  : Keeps s0 (powerOn s) := by
  unfold powerOn
  repeat' first
    | with_reducible exact h | with_reducible exact id | with_reducible apply keeps_wiped
    | with_reducible apply keeps_samplePhase
    | with_reducible refine keepsF_upd rfl rfl ?_ ?_ ?_ ?_ ?_ ?_ ?_ ?_ ?_ ?_ | simp only [keeps_mk]

theorem keeps_warm {s0 s : State} (h : Keeps s0 s)  :
    Keeps s0 (warm s) := by
  unfold warm
  repeat' first
    | with_reducible assumption | with_reducible exact id | with_reducible apply keeps_blockReset
    | with_reducible refine keepsF_upd rfl rfl ?_ ?_ ?_ ?_ ?_ ?_ ?_ ?_ ?_ ?_ | with_reducible exact twf_tput _ _ _ _
    | with_reducible exact fun q => memWf_storeBytes _ _ _ q | with_reducible exact fun _ q => q
    | with_reducible refine Keeps.foldl _ ?_ (fun _ _ _ => ?_) | with_reducible apply lanesOk_getCal | split
    | simp only [keeps_mk]

theorem keeps_fwFail {s0 s : State} (h : Keeps s0 s)  : Keeps s0 (fwFail s) := by
  unfold fwFail
  repeat' first
    | with_reducible exact h | with_reducible exact id | with_reducible apply keeps_raiseFatal
    | with_reducible refine keepsF_upd rfl rfl ?_ ?_ ?_ ?_ ?_ ?_ ?_ ?_ ?_ ?_ | simp only [keeps_mk]

theorem keeps_oneLayout {s0 s : State} (h : Keeps s0 s)  : Keeps s0 (oneLayout s) := by
  unfold oneLayout
  repeat' first
    | with_reducible assumption | with_reducible apply keeps_updMb | with_reducible apply keeps_updPart
    | with_reducible refine Keeps.foldl _ ?_ (fun _ _ _ => ?_)

theorem keeps_wakeSlot {s0 s : State} (h : Keeps s0 s) (i : Nat) : Keeps s0 (wakeSlot s i) := by
  unfold wakeSlot
  dsimp only
  split
  · exact h
  · split
    · exact keeps_setSlot h _ _
    · refine keeps_faultStream (keeps_report (keeps_setSlot (keeps_mk.mpr ?_) _ _) _ _ _ _ _ _) _ _
      exact keepsF_upd rfl rfl id id id id id id (memWf_clearRange _ _ _) id id h

theorem keeps_fwStart {s0 s : State} (h : Keeps s0 s)  : Keeps s0 (fwStart s) := by
  unfold fwStart
  repeat' first
    | with_reducible assumption | with_reducible exact id | with_reducible apply keeps_updCal
    | with_reducible apply keeps_wakeSlot | with_reducible apply keeps_oneLayout
    | with_reducible refine keepsF_upd rfl rfl ?_ ?_ ?_ ?_ ?_ ?_ ?_ ?_ ?_ ?_
    | with_reducible refine Keeps.foldl _ ?_ (fun _ _ _ => ?_) | with_reducible exact fun _ q => q | split
    | simp only [keeps_mk]

theorem tmap_lanes (f : Nat → Cal → Cal) (t : Tab Cal) (h : ∀ c k, (f c k).lanes = []) (c : Nat) :
    (tget {} c (tmap {} f t)).lanes = [] := by
  unfold tmap
  have : ∀ (l a : Tab Cal), twf {} a = true → (∀ d, (tget {} d a).lanes = []) →
      twf {} (l.foldl (fun acc e => tput {} e.1 (f e.1 e.2) acc) a) = true ∧
      ∀ d, (tget {} d (l.foldl (fun acc e => tput {} e.1 (f e.1 e.2) acc) a)).lanes = [] := by
    intro l
    induction l with
    | nil => exact fun a hw ha => ⟨hw, ha⟩
    | cons e r ih =>
      intro a hw ha
      refine ih _ (twf_tput _ _ _ _ hw) fun d => ?_
      by_cases hd : d = e.1
      · subst hd
        rw [tget_tput_same _ _ _ _ hw]
        exact h _ _
      · rw [tget_tput_other _ _ _ _ _ hd]
        exact ha d
  exact (this t [] rfl fun _ => rfl).2 c

theorem keeps_wakeUp {s0 s : State} (h : Keeps s0 s) : Keeps s0 (wakeUp s) := by
  unfold wakeUp
  extract_lets w part slot cals mbs
  refine keeps_samplePhase ?_
  have hw : Keeps s0 w := keeps_wiped h false
  simp only [keeps_mk]
  refine ⟨hw.1, fun h0 => ?_⟩
  obtain ⟨⟨a1, a2, -⟩, -, -, b3, b4, -, b6, -, -⟩ := hw.2 h0
  exact ⟨⟨a1, a2, (h.2 h0).1.2.2⟩, twf_tmap _ _ _, twf_tmap _ _ _, b3, b4, twf_tmap _ _ _, b6, twf_tmap _ _ _,
    fun c => by unfold cals; rw [tmap_lanes _ _ (fun _ _ => rfl)]; rfl⟩

theorem keeps_lifeChange {s0 s : State} (h : Keeps s0 s) (granted : Bool) : Keeps s0 (lifeChange s granted) := by
  unfold lifeChange
  repeat' first
    | with_reducible exact h | with_reducible exact id | with_reducible apply keeps_secureWipeTo
    | with_reducible apply keeps_holdEnd | with_reducible apply keeps_wiped
    | with_reducible refine keepsF_upd rfl rfl ?_ ?_ ?_ ?_ ?_ ?_ ?_ ?_ ?_ ?_ | split | simp only [keeps_mk]

theorem keeps_dbgSet {s0 s : State} (h : Keeps s0 s) (n : BitVec 8) (v : Nat) : Keeps s0 (dbgSet s n v) := by
  unfold dbgSet
  repeat' first
    | with_reducible exact h | with_reducible exact id
    | with_reducible refine keepsF_upd rfl rfl ?_ ?_ ?_ ?_ ?_ ?_ ?_ ?_ ?_ ?_ | simp only [keeps_mk]

theorem keeps_dbgNo {s0 s : State} (h : Keeps s0 s)  : Keeps s0 (dbgNo s) := by
  unfold dbgNo
  repeat' first
    | with_reducible exact h | with_reducible apply keeps_dbgSet

theorem keeps_putSpare {s0 s : State} (h : Keeps s0 s) (store : Nat) (unit : Nat) (w : Nat) (v : Nat) :
    Keeps s0 (putSpare s store unit w v) := by
  unfold putSpare
  repeat' first
    | with_reducible assumption | with_reducible exact id
    | with_reducible refine keepsF_upd rfl rfl ?_ ?_ ?_ ?_ ?_ ?_ ?_ ?_ ?_ ?_ | with_reducible exact twf_tput _ _ _ _
    | with_reducible exact fun q => memWf_storeBytes _ _ _ q | with_reducible exact fun _ q => q
    | with_reducible refine Keeps.foldl _ ?_ (fun _ _ _ => ?_) | with_reducible apply lanesOk_getCal | split
    | simp only [keeps_mk]

theorem keeps_putSector {s0 s : State} (h : Keeps s0 s) (w : Nat) (v : Nat) :
    Keeps s0 (putSector s w v) := by
  unfold putSector
  dsimp only
  repeat' first
    | with_reducible assumption | with_reducible exact id | with_reducible apply keeps_putSpare
    | with_reducible refine keepsF_upd rfl rfl ?_ ?_ ?_ ?_ ?_ ?_ ?_ ?_ ?_ ?_ | with_reducible exact twf_tput _ _ _ _
    | with_reducible exact fun q => memWf_storeBytes _ _ _ q | with_reducible exact fun _ q => q
    | with_reducible refine Keeps.foldl _ ?_ (fun _ _ _ => ?_) | with_reducible apply lanesOk_getCal | split
    | simp only [keeps_mk]

theorem keeps_putEntry {s0 s : State} (h : Keeps s0 s) (k : Nat) (v : Nat) :
    Keeps s0 (putEntry s k v) := by
  unfold putEntry
  repeat' first
    | with_reducible assumption | with_reducible exact id | with_reducible apply keeps_setImage
    | with_reducible refine keepsF_upd rfl rfl ?_ ?_ ?_ ?_ ?_ ?_ ?_ ?_ ?_ ?_ | with_reducible exact twf_tput _ _ _ _
    | with_reducible exact fun q => memWf_storeBytes _ _ _ q | with_reducible exact fun _ q => q
    | with_reducible refine Keeps.foldl _ ?_ (fun _ _ _ => ?_) | with_reducible apply lanesOk_getCal | split

theorem keeps_putCode {s0 s : State} (h : Keeps s0 s) (unit : Nat) (w : Nat) (v : Nat) :
    Keeps s0 (putCode s unit w v) := by
  unfold putCode
  dsimp only
  repeat' first
    | with_reducible assumption | with_reducible exact id | with_reducible apply keeps_putEntry
    | with_reducible apply keeps_putSpare | with_reducible apply keeps_updCal
    | with_reducible refine keepsF_upd rfl rfl ?_ ?_ ?_ ?_ ?_ ?_ ?_ ?_ ?_ ?_ | with_reducible exact twf_tput _ _ _ _
    | with_reducible exact fun q => memWf_storeBytes _ _ _ q | with_reducible exact fun _ q => q
    | with_reducible refine Keeps.foldl _ ?_ (fun _ _ _ => ?_) | with_reducible apply lanesOk_getCal | split
    | simp only [keeps_mk]

theorem keeps_putCp {s0 s : State} (h : Keeps s0 s) (w : Nat) (v : Nat) :
    Keeps s0 (putCp s w v) := by
  unfold putCp
  dsimp only
  repeat' first
    | with_reducible assumption | with_reducible exact id | with_reducible apply keeps_updSlot
    | with_reducible refine keepsF_upd rfl rfl ?_ ?_ ?_ ?_ ?_ ?_ ?_ ?_ ?_ ?_ | with_reducible exact twf_tput _ _ _ _
    | with_reducible exact fun q => memWf_storeBytes _ _ _ q | with_reducible exact fun _ q => q
    | with_reducible refine Keeps.foldl _ ?_ (fun _ _ _ => ?_) | with_reducible apply lanesOk_getCal | split
    | simp only [keeps_mk]

theorem keeps_putWord {s0 s : State} (h : Keeps s0 s) (kind : Nat) (unit : Nat) (w : Nat) (v : Nat) :
    Keeps s0 (putWord s kind unit w v) := by
  unfold putWord
  split
  · exact keeps_updCal h _ _ fun _ hk => hk
  · exact keeps_updCal h _ _ fun _ hk => by rw [lanes_putHalf]; exact hk
  · exact keeps_updCal h _ _ fun _ hk => hk
  · exact keeps_updCal h _ _ fun _ hk => hk
  · exact keeps_mk.mpr (keepsF_upd rfl rfl id id id id id id (memWf_storeWord8 _ _ _) id id h)
  · exact keeps_putSector h _ _
  · exact keeps_putCode h _ _ _
  · exact keeps_putCp h _ _
  · exact keeps_updCal h _ _ fun _ hk => lanesOk_putLaneWord hk _ _
  · exact h

theorem keeps_noteSave {s0 s : State} (h : Keeps s0 s) (i : Item) :
    Keeps s0 (noteSave s i) := by
  unfold noteSave
  repeat' first
    | with_reducible assumption | with_reducible exact id | with_reducible apply keeps_noteParity
    | with_reducible refine keepsF_upd rfl rfl ?_ ?_ ?_ ?_ ?_ ?_ ?_ ?_ ?_ ?_ | with_reducible exact twf_tput _ _ _ _
    | with_reducible exact fun q => memWf_storeBytes _ _ _ q | with_reducible exact fun _ q => q
    | with_reducible refine Keeps.foldl _ ?_ (fun _ _ _ => ?_)

theorem keeps_saveChecked {s0 s : State} (h : Keeps s0 s) (i : Item) {f : State → State}
    (hf : ∀ t, Keeps s0 t → Keeps s0 (f t)) : Keeps s0 (saveChecked s i f) := by
  unfold saveChecked
  dsimp only
  split
  · exact keeps_noteSave h _
  · exact hf _ h

theorem keeps_scanLeft {s0 s : State} (h : Keeps s0 s)  :
    Keeps s0 (scanLeft s) := by
  unfold scanLeft
  repeat' first
    | with_reducible assumption | with_reducible exact id | with_reducible apply keeps_powerOn
    | with_reducible apply keeps_powerOff | with_reducible refine keepsF_upd rfl rfl ?_ ?_ ?_ ?_ ?_ ?_ ?_ ?_ ?_ ?_
    | with_reducible exact twf_tput _ _ _ _ | with_reducible exact fun q => memWf_storeBytes _ _ _ q
    | with_reducible exact fun _ q => q | with_reducible refine Keeps.foldl _ ?_ (fun _ _ _ => ?_)
    | with_reducible apply lanesOk_getCal | split

theorem keeps_fwFetch {s0 s : State} (h : Keeps s0 s)  :
    Keeps s0 (fwFetch s) := by
  unfold fwFetch
  dsimp only
  repeat' first
    | with_reducible assumption | with_reducible exact id
    | with_reducible refine keepsF_upd rfl rfl ?_ ?_ ?_ ?_ ?_ ?_ ?_ ?_ ?_ ?_ | with_reducible exact twf_tput _ _ _ _
    | with_reducible exact fun q => memWf_storeBytes _ _ _ q | with_reducible exact fun _ q => q
    | with_reducible refine Keeps.foldl _ ?_ (fun _ _ _ => ?_) | with_reducible apply lanesOk_getCal | split
    | simp only [keeps_mk]

theorem keeps_readAgain {s0 s : State} (h : Keeps s0 s) (c : Nat) (l : Lookup) :
    Keeps s0 (readAgain s c l) := by
  unfold readAgain
  dsimp only
  repeat' first
    | with_reducible assumption | with_reducible exact id | with_reducible apply keeps_moveHalt
    | with_reducible apply keeps_popLook | with_reducible apply keeps_readRows | with_reducible apply keeps_updCal
    | with_reducible refine keepsF_upd rfl rfl ?_ ?_ ?_ ?_ ?_ ?_ ?_ ?_ ?_ ?_ | with_reducible exact twf_tput _ _ _ _
    | with_reducible exact fun q => memWf_storeBytes _ _ _ q | with_reducible exact fun _ q => q
    | with_reducible refine Keeps.foldl _ ?_ (fun _ _ _ => ?_) | with_reducible apply lanesOk_getCal | split

theorem keeps_fenceRecords {s0 s : State} (h : Keeps s0 s) (i : Nat) :
    Keeps s0 (fenceRecords s i) := by
  unfold fenceRecords
  dsimp only
  repeat' first
    | with_reducible assumption | with_reducible exact id | with_reducible apply keeps_addJob
    | with_reducible apply keeps_dropJob | with_reducible refine keepsF_upd rfl rfl ?_ ?_ ?_ ?_ ?_ ?_ ?_ ?_ ?_ ?_
    | with_reducible exact twf_tput _ _ _ _ | with_reducible exact fun q => memWf_storeBytes _ _ _ q
    | with_reducible exact fun _ q => q | with_reducible refine Keeps.foldl _ ?_ (fun _ _ _ => ?_)
    | with_reducible apply lanesOk_getCal | split | simp only [keeps_mk]

theorem keeps_postEnded {s0 s t : State} (h : Keeps s0 s) {i : Nat} (ht : postEnded s i = some t) : Keeps s0 t := by
  unfold postEnded at ht
  split at ht
  · exact Option.some.inj ht ▸ keeps_unconfirmed h i
  · split at ht
    · exact Option.some.inj ht ▸ keeps_confirm h i
    · exact nomatch ht

theorem keeps_postStep {s0 s : State} (h : Keeps s0 s) (i : Nat) (write : Bool) (fence : Bool) :
    Keeps s0 (postStep s i write fence) := by
  unfold postStep
  split
  · exact keeps_postEnded h ‹_›
  · split
    · exact keeps_addJob (keeps_nextPost h _ _) _ _
    · exact keeps_writeRecord h _ _
  · split
    · exact keeps_fenceRecords h _
    · exact h

theorem keeps_eventPosted {s0 s : State} (h : Keeps s0 s) (p : Nat) :
    Keeps s0 (eventPosted s p) := by
  unfold eventPosted
  dsimp only
  repeat' first
    | with_reducible assumption | with_reducible exact id | with_reducible apply keeps_raiseInt
    | with_reducible apply keeps_setPart | with_reducible apply keeps_dropJob

end Sys2Proof.Machine
end

