-- ==== Sys2Proof/Laws/KeepsWays.lean ====
section
/-! SUPPORT. What each way of taking a command keeps: a mailbox command, a slot, a register access, a ring entry and a
Plume frame keep what their own part keeps; every form of a vector operation keeps the lanes' form. -/

namespace Sys2Proof.Machine

/-! ### The ways a command is taken -/

/-- The state that the effect of a slot leaves, if it has one. -/
def resState : Res → Option State
  | .done s => some s
  | .reached s => some s
  | _ => none

/-- What an answer of a mailbox command keeps. -/
def AnsKeeps (s0 : State) : Ans → Prop
  | .done s _ => Keeps s0 s
  | .status s _ _ => Keeps s0 s
  | .wait s _ => Keeps s0 s
  | .silent s => Keeps s0 s

theorem keeps_answered {s0 : State} (m : Nat) {a : Ans} (ha : AnsKeeps s0 a) : Keeps s0 (answered m a) := by
  cases a with
  | done u r => exact keeps_respond ha _ _ _ _
  | status u st r => exact keeps_respond ha _ _ _ _
  | wait u w => exact keeps_waitOn ha _ _
  | silent u => exact ha

theorem keeps_opRes {s0 t : State} {α : Type} {c : Except Stop α} {wt : α → Option Nat} {e : α → State}
    (he : ∀ a, c = .ok a → Keeps s0 (e a)) (ht : resState (opRes c wt e) = some t) : Keeps s0 t := by
  unfold opRes at ht
  split at ht
  · cases ht
  · split at ht
    · cases ht
    · cases ht; exact he _ rfl

section

variable {s0 s t : State} (h : Keeps s0 s)
include h

/-- A mailbox command keeps what its handler keeps. -/
theorem keeps_eci {op : Nat} {m : Fin 16} {g : State → Nat → Nat → Except Refused Ans}
    (hg : ∀ a, g s m.val (partOf s m.val) = .ok a → AnsKeeps s0 a) (ht : eci op m g s = .next t) : Keeps s0 t := by
  unfold eci at ht
  repeat' split at ht
  all_goals
    injection ht with ht
    subst ht
    first
      | with_reducible exact h
      | with_reducible exact keeps_respond h _ _ _ _
      | with_reducible exact keeps_answered _ (hg _ ‹_›)

/-- A slot command keeps what its effect keeps. -/
theorem keeps_issueSlot {x : Nat} {k : SlotK} {mine : Nat → Bool} {f : State → Nat → Nat → Res}
    (hf : ∀ u w ofs v, Keeps s0 u → resState (f u w ofs) = some v → Keeps s0 v) (ht : issueSlot x k mine f s = .next t) :
    Keeps s0 t := by
  unfold issueSlot at ht
  have hu := fun u => keeps_turn h (x := x) (t := u)
  generalize nextTurn s x = q at ht hu
  cases q with
  | idle => cases ht; exact h
  | fetch u l =>
    have hu := hu u rfl
    dsimp only at ht
    generalize itemOf s x = i at ht
    cases i with
    | none => cases ht; exact h
    | some i =>
      injection ht with ht
      rw [← ht]
      exact keeps_waitSlot (Keeps.foldl _ hu fun _ _ hv => keeps_askLine hv _ _ _) _ _
  | halt ofs r =>
    injection ht with ht
    rw [← ht]
    exact keeps_haltIssue h _ _ _ _ _
  | empty u => cases ht; exact h
  | slot u k' w ofs =>
    have hu := hu u rfl
    dsimp only at ht
    split at ht
    · injection ht with ht
      rw [← ht]
      exact keeps_haltIssue hu _ _ _ _ _
    · split at ht
      · cases ht; exact h
      · generalize hr : f u w ofs = r at ht
        cases r with
        | wait c =>
          injection ht with ht
          rw [← ht]
          exact keeps_waitSlot hu _ _
        | halt c d =>
          injection ht with ht
          rw [← ht]
          exact keeps_haltIssue hu _ _ _ _ _
        | done v =>
          injection ht with ht
          rw [← ht]
          exact keeps_settle (keeps_endSlot (hf u w ofs v hu (by rw [hr]; rfl)) _) _
        | reached v =>
          injection ht with ht
          rw [← ht]
          exact keeps_settle (keeps_updCtx (keeps_endSlot (hf u w ofs v hu (by rw [hr]; rfl)) _) _ _) _

theorem keeps_access {g : State → State} (hg : Keeps s0 (g s)) (ht : access g s = .next t) : Keeps s0 t := by
  unfold access at ht
  split at ht <;> cases ht
  · exact hg
  · exact h

theorem keeps_takeEntry {type : Nat} {g : State → Nat → List Byte → State} {i : Nat}
    (hg : ∀ u i b, Keeps s0 u → Keeps s0 (g u i b)) (ht : takeEntry type g i s = .next t) : Keeps s0 t := by
  unfold takeEntry at ht
  dsimp only at ht
  repeat' split at ht
  all_goals
    injection ht with ht
    subst ht
    first
      | with_reducible exact h
      | with_reducible exact hg _ _ _ h
      | with_reducible exact keeps_dropUsers h _
      | with_reducible exact keeps_refuseEntry (keeps_advance h _) _ _ _
      | exact keeps_fwRead h (by rw [‹fwRead _ _ _ _ = _›]; rfl)

theorem keeps_recv {type : BitVec 8} {rsp : Bool} {g : State → Nat → State} {p : Fin 2} {f : Frame}
    (hg : ∀ u q, Keeps s0 u → Keeps s0 (g u q)) (ht : recv type rsp g p f s = .next t) : Keeps s0 t := by
  unfold recv at ht
  dsimp only at ht
  have hm : Keeps s0 (meet s f) := keeps_meet h _
  repeat' split at ht
  all_goals
    injection ht with ht
    subst ht
    first
      | with_reducible exact h
      | with_reducible exact hm
      | with_reducible exact keeps_sendCtl (hg _ _ (keeps_acked (keeps_took hm _ _ _) _ _)) _ _
      | with_reducible exact hg _ _ (keeps_acked (keeps_took hm _ _ _) _ _)
      | with_reducible exact keeps_nakOnce hm _ _
      | with_reducible exact keeps_sendCtl hm _ _

theorem keeps_recvCtl {type : BitVec 8} {g : State → Nat → State} {p : Fin 2} {f : Frame}
    (hg : ∀ u q, Keeps s0 u → Keeps s0 (g u q)) (ht : recvCtl type g p f s = .next t) : Keeps s0 t := by
  unfold recvCtl at ht
  dsimp only at ht
  have hm : Keeps s0 (meet s f) := keeps_meet h _
  repeat' split at ht
  all_goals cases ht
  · exact h
  · exact hm
  · exact hg _ _ (keeps_acked hm _ _)

end

/-! ### Vector operations keep the lanes' form -/

/-- A form whose operations keep the lanes' form. -/
def FormOk (f : Item → State → Nat → Except Stop VecOp) : Prop := ∀ i s w o, f i s w = .ok o → WorkOk o

theorem Except.bind_ok {ε α β : Type} {c : Except ε α} {f : α → Except ε β} {b : β} (h : (c >>= f) = .ok b) :
    ∃ a, c = .ok a ∧ f a = .ok b := by
  cases c with
  | error e => cases h
  | ok a => exact ⟨a, rfl, h⟩

theorem formOk_elemwise (n : Nat) (f : Word → Word → Word → Word × Fl) : FormOk (elemwise n f) := by
  intro i s w o h
  obtain ⟨-, -, h⟩ := Except.bind_ok h
  cases h
  exact fun _ _ _ _ hk => lanesOk_putLanes hk _ _

theorem formOk_moviForm : FormOk moviForm := by
  intro i s w o h
  obtain ⟨-, -, h⟩ := Except.bind_ok h
  cases h
  exact fun _ _ _ _ hk => lanesOk_putLanes hk _ _

theorem formOk_cvtIssue : FormOk cvtIssue := by
  intro i s w o h
  obtain ⟨-, -, h⟩ := Except.bind_ok h
  dsimp only at h
  split at h
  · cases h
  · obtain ⟨-, -, h⟩ := Except.bind_ok h
    split at h <;> cases h
    · exact fun _ _ _ _ hk => lanesOk_putLanes (lanesOk_putLanes hk _ _) _ _
    · exact fun _ _ _ _ hk => lanesOk_putLanes hk _ _

theorem formOk_mxcvtIssue : FormOk mxcvtIssue := by
  intro i s w o h
  obtain ⟨-, -, h⟩ := Except.bind_ok h
  obtain ⟨-, -, h⟩ := Except.bind_ok h
  obtain ⟨-, -, h⟩ := Except.bind_ok h
  cases h
  exact fun _ _ _ _ hk => lanesOk_putLanes (lanesOk_putLanes hk _ _) _ _

theorem formOk_pwlIssue (f : Curve → Fv → Word × Fl) : FormOk (pwlIssue f) := by
  intro i s w o h
  obtain ⟨-, -, h⟩ := Except.bind_ok h
  dsimp only at h
  split at h <;> cases h
  exact fun _ _ _ _ hk => lanesOk_putLanes hk _ _

theorem formOk_gatemulIssue : FormOk gatemulIssue := by
  intro i s w o h
  obtain ⟨-, -, h⟩ := Except.bind_ok h
  dsimp only at h
  split at h <;> cases h
  exact fun _ _ _ _ hk => lanesOk_putLanes hk _ _

theorem formOk_gsumIssue : FormOk gsumIssue := by
  intro i s w o h
  obtain ⟨-, -, h⟩ := Except.bind_ok h
  obtain ⟨-, -, h⟩ := Except.bind_ok h
  cases h
  exact fun _ _ _ _ hk => lanesOk_putLanes hk _ _

theorem formOk_rmaxIssue : FormOk rmaxIssue := by
  intro i s w o h
  obtain ⟨-, -, h⟩ := Except.bind_ok h
  cases h
  exact fun _ _ _ _ hk => lanesOk_putLanes hk _ _

theorem formOk_rstatIssue : FormOk rstatIssue := by
  intro i s w o h
  obtain ⟨-, -, h⟩ := Except.bind_ok h
  cases h
  exact fun _ _ _ _ hk => lanesOk_putLanes (lanesOk_putLanes (lanesOk_putLanes (lanesOk_putLanes hk _ _) _ _) _ _) _ _

theorem formOk_topkIssue (x : Nat) : FormOk (topkIssue x) := by
  intro i s w o h
  obtain ⟨-, -, h⟩ := Except.bind_ok h
  cases h
  exact fun _ _ _ _ hk => lanesOk_putLanes (lanesOk_putLanes hk _ _) _ _

theorem formOk_vldIssue (x : Nat) : FormOk (vldIssue x) := by
  intro i s w o h
  unfold vldIssue at h
  obtain ⟨-, -, h⟩ := Except.bind_ok h
  generalize vecTensor s x _ _ _ = c at h
  cases c with
  | error e => cases h
  | ok t =>
    cases h
    exact fun _ _ _ _ hk => lanesOk_putLanes hk _ _

theorem formOk_vstIssue (x : Nat) : FormOk (vstIssue x) := by
  intro i s w o h
  unfold vstIssue at h
  obtain ⟨-, -, h⟩ := Except.bind_ok h
  generalize vecTensor s x _ _ _ = c at h
  cases c with
  | error e => cases h
  | ok t =>
    cases h
    exact fun _ _ _ _ hk => hk

theorem workOk_sfuForm {n : Nat} {f : Word → Word × Fl} {i : Item} {w : Nat} {o : VecOp} (h : sfuForm n f i w = .ok o) :
    WorkOk o := by
  obtain ⟨-, -, h⟩ := Except.bind_ok h
  cases h
  exact fun _ _ _ _ hk => lanesOk_putLanes hk _ _

theorem formOk_builtinForm (fn : Nat) : FormOk (builtinForm fn) := by
  intro i s w o h
  unfold builtinForm at h
  repeat' split at h
  all_goals first
    | cases h
    | exact workOk_sfuForm h

theorem formOk_microForm : FormOk microForm := by
  intro i s w o h
  unfold microForm at h
  split at h
  · cases h
  · exact workOk_sfuForm h

theorem workOk_of_checks {i : Item} {s : State} {w : Nat} {f : Item → State → Nat → Except Stop VecOp} (hf : FormOk f)
    {o : VecOp} (h : (do let o ← f i s w; vecLanes i o; return o) = Except.ok o) : WorkOk o := by
  obtain ⟨a, ha, h⟩ := Except.bind_ok h
  obtain ⟨-, -, h⟩ := Except.bind_ok h
  cases h
  exact hf _ _ _ _ ha

theorem keeps_vecIssue {s0 s t : State} (h : Keeps s0 s) {x op : Nat} {f : Item → State → Nat → Except Stop VecOp}
    (hf : FormOk f) (ht : vecIssue x op f s = .next t) : Keeps s0 t := by
  refine keeps_issueSlot h (fun u w ofs v hu hv => ?_) ht
  split at hv
  · cases hv; exact hu
  · exact keeps_opRes (fun a ha => keeps_vecEffect hu _ _ _ _ _ (workOk_of_checks hf ha)) hv

theorem keeps_sfuIssue {s0 s t : State} (h : Keeps s0 s) {x : Nat} {mine : Nat → Bool}
    {f : Item → State → Nat → Except Stop VecOp} (hf : FormOk f) (ht : sfuIssue x mine f s = .next t) : Keeps s0 t := by
  refine keeps_issueSlot h (fun u w ofs v hu hv => ?_) ht
  split at hv
  · cases hv; exact hu
  · exact keeps_opRes (fun a ha => keeps_sfuEffect hu _ _ _ _ _ (workOk_of_checks hf ha)) hv

end Sys2Proof.Machine
end

