-- ==== Sys2Proof/Laws/PerInstr.lean ====
section
/-! SUPPORT. Statements made per command. NoWord: no word of the table's bits spells the command, since the table gives
its rows no bits (log entry 56); a command reaches the block by its queue alone. -/

namespace Sys2Proof.Laws.NoWord

open Sys2Proof

/-- No word spells the command. -/
def Statement (i : Instr) : Prop := ∀ nbits w, decodeTableWord nbits w ≠ some i

theorem noWord (i : Instr) : Statement i := by
  intro nbits w h
  simp [decodeTableWord] at h

theorem fwInfo (m : Mb) : Statement (.fwInfo m) := noWord _
theorem partitionSet (m : Mb) : Statement (.partitionSet m) := noWord _
theorem powerState (m : Mb) : Statement (.powerState m) := noWord _
theorem powerIdleDone : Statement .powerIdleDone := noWord _
theorem dumpSet (m : Mb) : Statement (.dumpSet m) := noWord _
theorem lcAdvance (m : Mb) : Statement (.lcAdvance m) := noWord _
theorem debugChallenge (m : Mb) : Statement (.debugChallenge m) := noWord _
theorem debugUnlock (m : Mb) : Statement (.debugUnlock m) := noWord _
theorem debugClose (m : Mb) : Statement (.debugClose m) := noWord _
theorem partitionParam (m : Mb) : Statement (.partitionParam m) := noWord _
theorem eventRing (m : Mb) : Statement (.eventRing m) := noWord _
theorem reset (m : Mb) : Statement (.reset m) := noWord _
theorem regionRegister (m : Mb) : Statement (.regionRegister m) := noWord _
theorem regionRelease (m : Mb) : Statement (.regionRelease m) := noWord _
theorem contextCreate (m : Mb) : Statement (.contextCreate m) := noWord _
theorem contextDestroy (m : Mb) : Statement (.contextDestroy m) := noWord _
theorem descWrite (m : Mb) : Statement (.descWrite m) := noWord _
theorem contextQuery (m : Mb) : Statement (.contextQuery m) := noWord _
theorem contextSet (m : Mb) : Statement (.contextSet m) := noWord _
theorem contextSeed (m : Mb) : Statement (.contextSeed m) := noWord _
theorem contextHalt (m : Mb) : Statement (.contextHalt m) := noWord _
theorem haltRequest (x : Fin 64) : Statement (.haltRequest x) := noWord _
theorem imagePublish (m : Mb) : Statement (.imagePublish m) := noWord _
theorem imageDestroy (m : Mb) : Statement (.imageDestroy m) := noWord _
theorem imageReplace (m : Mb) : Statement (.imageReplace m) := noWord _
theorem imageReplaceDone (m : Mb) : Statement (.imageReplaceDone m) := noWord _
theorem channelCreate (m : Mb) : Statement (.channelCreate m) := noWord _
theorem channelAdmit (m : Mb) : Statement (.channelAdmit m) := noWord _
theorem channelDestroy (m : Mb) : Statement (.channelDestroy m) := noWord _
theorem channelQuery (m : Mb) : Statement (.channelQuery m) := noWord _
theorem channelResume (m : Mb) : Statement (.channelResume m) := noWord _
theorem streamCreate (m : Mb) : Statement (.streamCreate m) := noWord _
theorem streamDestroy (m : Mb) : Statement (.streamDestroy m) := noWord _
theorem streamReset (m : Mb) : Statement (.streamReset m) := noWord _
theorem streamQuery (m : Mb) : Statement (.streamQuery m) := noWord _
theorem streamExport (m : Mb) : Statement (.streamExport m) := noWord _
theorem exportConfirmed (slot : Fin 4096) : Statement (.exportConfirmed slot) := noWord _
theorem exportTimeout (slot : Fin 4096) : Statement (.exportTimeout slot) := noWord _
theorem streamImport (m : Mb) : Statement (.streamImport m) := noWord _
theorem arrivalTimeout (a : Fin 16) : Statement (.arrivalTimeout a) := noWord _
theorem tableRegister (m : Mb) : Statement (.tableRegister m) := noWord _
theorem tableReload (m : Mb) : Statement (.tableReload m) := noWord _
theorem tableReloadEffect (t : Fin 64) : Statement (.tableReloadEffect t) := noWord _
theorem tableTimeout (t : Fin 64) : Statement (.tableTimeout t) := noWord _
theorem tableRelease (m : Mb) : Statement (.tableRelease m) := noWord _
theorem semBind (m : Mb) : Statement (.semBind m) := noWord _
theorem semUnbind (m : Mb) : Statement (.semUnbind m) := noWord _
theorem semQuery (m : Mb) : Statement (.semQuery m) := noWord _
theorem gradsetAlloc (m : Mb) : Statement (.gradsetAlloc m) := noWord _
theorem gradsetZero (m : Mb) : Statement (.gradsetZero m) := noWord _
theorem gradsetRelease (m : Mb) : Statement (.gradsetRelease m) := noWord _
theorem mbRing (m : Mb) : Statement (.mbRing m) := noWord _
theorem mbRelease (m : Mb) : Statement (.mbRelease m) := noWord _
theorem mbOverrunClear (m : Mb) : Statement (.mbOverrunClear m) := noWord _
theorem forceBlockReset (w : Word) : Statement (.forceBlockReset w) := noWord _
theorem forcePowerCycle (w : Word) : Statement (.forcePowerCycle w) := noWord _
theorem sqDbWrite (i : Fin 256) (w : Word) : Statement (.sqDbWrite i w) := noWord _
theorem cqDbWrite (i : Fin 256) (w : Word) : Statement (.cqDbWrite i w) := noWord _
theorem eqDbWrite (p : Fin 4) (w : Word) : Statement (.eqDbWrite p w) := noWord _
theorem intStatusWrite (w : Word) : Statement (.intStatusWrite w) := noWord _
theorem fatalStatusWrite (w : Word) : Statement (.fatalStatusWrite w) := noWord _
theorem timeLoRead : Statement .timeLoRead := noWord _
theorem registerWrite (ofs : BitVec 24) (size : Nat) (data : WinData) (parOk : Bool) : Statement (.registerWrite ofs size data parOk) :=
  noWord _
theorem runChunk (i : Fin 256) : Statement (.runChunk i) := noWord _
theorem runTask (i : Fin 256) : Statement (.runTask i) := noWord _
theorem nop (i : Fin 256) : Statement (.nop i) := noWord _
theorem entryEligible (i : Fin 256) (seq : Word) : Statement (.entryEligible i seq) := noWord _
theorem dispatchPlace (c : Fin 4) (g : Grant) : Statement (.dispatchPlace c g) := noWord _
theorem restoreComplete (c : Fin 4) : Statement (.restoreComplete c) := noWord _
theorem executeStart (c : Fin 4) : Statement (.executeStart c) := noWord _
theorem chunkCommit (c : Fin 4) (bad : List (Fin 256)) : Statement (.chunkCommit c bad) := noWord _
theorem completionPost (i : Fin 256) (write fence : Bool) : Statement (.completionPost i write fence) := noWord _
theorem eventPost (p : Fin 4) : Statement (.eventPost p) := noWord _
theorem bundleNop (x : Fin 64) : Statement (.bundleNop x) := noWord _
theorem seqNop (x : Fin 64) : Statement (.seqNop x) := noWord _
theorem ldi (x : Fin 64) : Statement (.ldi x) := noWord _
theorem ldih (x : Fin 64) : Statement (.ldih x) := noWord _
theorem addi (x : Fin 64) : Statement (.addi x) := noWord _
theorem seqAdd (x : Fin 64) : Statement (.seqAdd x) := noWord _
theorem seqSub (x : Fin 64) : Statement (.seqSub x) := noWord _
theorem seqAnd (x : Fin 64) : Statement (.seqAnd x) := noWord _
theorem seqOr (x : Fin 64) : Statement (.seqOr x) := noWord _
theorem shli (x : Fin 64) : Statement (.shli x) := noWord _
theorem shri (x : Fin 64) : Statement (.shri x) := noWord _
theorem cmp (x : Fin 64) : Statement (.cmp x) := noWord _
theorem cmpi (x : Fin 64) : Statement (.cmpi x) := noWord _
theorem br (x : Fin 64) : Statement (.br x) := noWord _
theorem brt (x : Fin 64) : Statement (.brt x) := noWord _
theorem brf (x : Fin 64) : Statement (.brf x) := noWord _
theorem loop (x : Fin 64) : Statement (.loop x) := noWord _
theorem leave (x : Fin 64) : Statement (.leave x) := noWord _
theorem rdastat (x : Fin 64) : Statement (.rdastat x) := noWord _
theorem wrastat (x : Fin 64) : Statement (.wrastat x) := noWord _
theorem setmx (x : Fin 64) : Statement (.setmx x) := noWord _
theorem seqEnd (x : Fin 64) : Statement (.seqEnd x) := noWord _
theorem mac (x : Fin 64) : Statement (.mac x) := noWord _
theorem promotion (c : Struck) : Statement (.promotion c) := noWord _
theorem checkCompare (c : Fin 4) (rows cols : List (Fin 257 × BitVec 88)) : Statement (.checkCompare c rows cols) :=
  noWord _
theorem zero (x : Fin 64) : Statement (.zero x) := noWord _
theorem preloadBias (x : Fin 64) : Statement (.preloadBias x) := noWord _
theorem preloadPlane (x : Fin 64) : Statement (.preloadPlane x) := noWord _
theorem scale (x : Fin 64) : Statement (.scale x) := noWord _
theorem loadDecay (x : Fin 64) : Statement (.loadDecay x) := noWord _
theorem drain (x : Fin 64) : Statement (.drain x) := noWord _
theorem recirc (x : Fin 64) : Statement (.recirc x) := noWord _
theorem recircReady (c : Fin 4) : Statement (.recircReady c) := noWord _
theorem save (x : Fin 64) : Statement (.save x) := noWord _
theorem restore (x : Fin 64) : Statement (.restore x) := noWord _
theorem gacc (x : Fin 64) : Statement (.gacc x) := noWord _
theorem vecAdd (x : Fin 64) : Statement (.vecAdd x) := noWord _
theorem vecSub (x : Fin 64) : Statement (.vecSub x) := noWord _
theorem vecMul (x : Fin 64) : Statement (.vecMul x) := noWord _
theorem fma (x : Fin 64) : Statement (.fma x) := noWord _
theorem min (x : Fin 64) : Statement (.min x) := noWord _
theorem max (x : Fin 64) : Statement (.max x) := noWord _
theorem abs (x : Fin 64) : Statement (.abs x) := noWord _
theorem neg (x : Fin 64) : Statement (.neg x) := noWord _
theorem cmpeq (x : Fin 64) : Statement (.cmpeq x) := noWord _
theorem cmplt (x : Fin 64) : Statement (.cmplt x) := noWord _
theorem cmple (x : Fin 64) : Statement (.cmple x) := noWord _
theorem sel (x : Fin 64) : Statement (.sel x) := noWord _
theorem vecMov (x : Fin 64) : Statement (.vecMov x) := noWord _
theorem movi (x : Fin 64) : Statement (.movi x) := noWord _
theorem iadd (x : Fin 64) : Statement (.iadd x) := noWord _
theorem isub (x : Fin 64) : Statement (.isub x) := noWord _
theorem iand (x : Fin 64) : Statement (.iand x) := noWord _
theorem ior (x : Fin 64) : Statement (.ior x) := noWord _
theorem ixor (x : Fin 64) : Statement (.ixor x) := noWord _
theorem ishl (x : Fin 64) : Statement (.ishl x) := noWord _
theorem ishr (x : Fin 64) : Statement (.ishr x) := noWord _
theorem cvt (x : Fin 64) : Statement (.cvt x) := noWord _
theorem mxcvt (x : Fin 64) : Statement (.mxcvt x) := noWord _
theorem pwl (x : Fin 64) : Statement (.pwl x) := noWord _
theorem pwlslope (x : Fin 64) : Statement (.pwlslope x) := noWord _
theorem gatemul (x : Fin 64) : Statement (.gatemul x) := noWord _
theorem gsum (x : Fin 64) : Statement (.gsum x) := noWord _
theorem rmax (x : Fin 64) : Statement (.rmax x) := noWord _
theorem rstat (x : Fin 64) : Statement (.rstat x) := noWord _
theorem topk (x : Fin 64) : Statement (.topk x) := noWord _
theorem vld (x : Fin 64) : Statement (.vld x) := noWord _
theorem vst (x : Fin 64) : Statement (.vst x) := noWord _
theorem sfuExp2 (x : Fin 64) : Statement (.sfuExp2 x) := noWord _
theorem sfuExp (x : Fin 64) : Statement (.sfuExp x) := noWord _
theorem sfuLog2 (x : Fin 64) : Statement (.sfuLog2 x) := noWord _
theorem sfuReciprocal (x : Fin 64) : Statement (.sfuReciprocal x) := noWord _
theorem sfuRsqrt (x : Fin 64) : Statement (.sfuRsqrt x) := noWord _
theorem sfuSqrt (x : Fin 64) : Statement (.sfuSqrt x) := noWord _
theorem microProgram (x : Fin 64) : Statement (.microProgram x) := noWord _
theorem feed (x : Fin 64) : Statement (.feed x) := noWord _
theorem feedComplete (c : Feeder) : Statement (.feedComplete c) := noWord _
theorem vent (x : Fin 64) : Statement (.vent x) := noWord _
theorem transferComplete (e : Eng) : Statement (.transferComplete e) := noWord _
theorem gather (x : Fin 64) : Statement (.gather x) := noWord _
theorem lookupComplete (c : Fin 4) (n : Fin 16) : Statement (.lookupComplete c n) := noWord _
theorem atomicAdd (e : Eng) : Statement (.atomicAdd e) := noWord _
theorem prefetch (x : Fin 64) (n : Nat) : Statement (.prefetch x n) := noWord _
theorem acq (x : Fin 64) : Statement (.acq x) := noWord _
theorem semGrant (k : Fin 1280) : Statement (.semGrant k) := noWord _
theorem rel (x : Fin 64) : Statement (.rel x) := noWord _
theorem fence (x : Fin 64) : Statement (.fence x) := noWord _
theorem lineFill (c : Fin 4) (img : BitVec 16) (line : Nat) (ok : Bool) : Statement (.lineFill c img line ok) :=
  noWord _
theorem watchdog (x : Fin 64) : Statement (.watchdog x) := noWord _
theorem hungContext (x : Fin 64) : Statement (.hungContext x) := noWord _
theorem faultDetected (f : FaultRep) : Statement (.faultDetected f) := noWord _
theorem replayStart (c : Fin 4) : Statement (.replayStart c) := noWord _
theorem fenceCaldera (c : Fin 4) : Statement (.fenceCaldera c) := noWord _
theorem faultLogExpire : Statement .faultLogExpire := noWord _
theorem scrub (f : FaultRep) : Statement (.scrub f) := noWord _
theorem cpWdog : Statement .cpWdog := noWord _
theorem contextReset (x : Fin 64) : Statement (.contextReset x) := noWord _
theorem engineReset (c : Fin 4) : Statement (.engineReset c) := noWord _
theorem partitionReset (p : Fin 4) : Statement (.partitionReset p) := noWord _
theorem blockReset : Statement .blockReset := noWord _
theorem powerCycle : Statement .powerCycle := noWord _
theorem escLate (n : Nat) : Statement (.escLate n) := noWord _
theorem dumpCopy : Statement .dumpCopy := noWord _
theorem timeSample (t : BitVec 64) (stepStrobe : Bool) : Statement (.timeSample t stepStrobe) := noWord _
theorem holdover : Statement .holdover := noWord _
theorem powerOnReset : Statement .powerOnReset := noWord _
theorem warmReset : Statement .warmReset := noWord _
theorem lcValid (code : BitVec 3) : Statement (.lcValid code) := noWord _
theorem firmwareVerify : Statement .firmwareVerify := noWord _
theorem secureWipe : Statement .secureWipe := noWord _
theorem wake : Statement .wake := noWord _
theorem lcStateChange (code : BitVec 3) (valid : Bool) : Statement (.lcStateChange code valid) := noWord _
theorem lcReqAck : Statement .lcReqAck := noWord _
theorem lcReqTimeout : Statement .lcReqTimeout := noWord _
theorem nonceLapse : Statement .nonceLapse := noWord _
theorem bypass (tdi : Bool) : Statement (.bypass tdi) := noWord _
theorem dstat : Statement .dstat := noWord _
theorem obsreg (ofs : Nat) : Statement (.obsreg ofs) := noWord _
theorem memrd (store : Nat) (unit : Nat) (word : Nat) : Statement (.memrd store unit word) := noWord _
theorem memwr (store : Nat) (unit : Nat) (word : Nat) (data : BitVec 64) : Statement (.memwr store unit word data) :=
  noWord _
theorem ctxctl (x : Fin 64) (act : Fin 3) : Statement (.ctxctl x act) := noWord _
theorem scan (leave : Bool) : Statement (.scan leave) := noWord _
theorem linkDown : Statement .linkDown := noWord _
theorem linkUp : Statement .linkUp := noWord _
theorem retrainStart : Statement .retrainStart := noWord _
theorem retrainEnd : Statement .retrainEnd := noWord _
theorem retrainTimeout : Statement .retrainTimeout := noWord _
theorem hotReset : Statement .hotReset := noWord _
theorem functionLevelReset : Statement .functionLevelReset := noWord _
theorem hostCompletion (tag : Fin 256) (status : Fin 4) : Statement (.hostCompletion tag status) := noWord _
theorem hostReadTimeout (tag : Fin 256) : Statement (.hostReadTimeout tag) := noWord _
theorem memResponse (n : Fin 16) (tag : Fin 256) (status : Fin 4) (last : Bool) : Statement (.memResponse n tag status last) :=
  noWord _
theorem memAck (n : Fin 16) (tag : Fin 256) (status : Fin 4) : Statement (.memAck n tag status) := noWord _
theorem memTagTimeout (n : Fin 16) (tag : Fin 256) : Statement (.memTagTimeout n tag) := noWord _
theorem plumeWrite (p : Fin 2) (f : Frame) : Statement (.plumeWrite p f) := noWord _
theorem plumeRead (p : Fin 2) (f : Frame) : Statement (.plumeRead p f) := noWord _
theorem plumeAdd (p : Fin 2) (f : Frame) : Statement (.plumeAdd p f) := noWord _
theorem doorbell (p : Fin 2) (f : Frame) : Statement (.doorbell p f) := noWord _
theorem state (p : Fin 2) (f : Frame) : Statement (.state p f) := noWord _
theorem cancel (p : Fin 2) (f : Frame) : Statement (.cancel p f) := noWord _
theorem wack (p : Fin 2) (f : Frame) : Statement (.wack p f) := noWord _
theorem rdata (p : Fin 2) (f : Frame) : Statement (.rdata p f) := noWord _
theorem aack (p : Fin 2) (f : Frame) : Statement (.aack p f) := noWord _
theorem dack (p : Fin 2) (f : Frame) : Statement (.dack p f) := noWord _
theorem sresult (p : Fin 2) (f : Frame) : Statement (.sresult p f) := noWord _
theorem link (p : Fin 2) (f : Frame) : Statement (.link p f) := noWord _
theorem nak (p : Fin 2) (f : Frame) : Statement (.nak p f) := noWord _
theorem probe (p : Fin 2) (f : Frame) : Statement (.probe p f) := noWord _
theorem probeReply (p : Fin 2) (f : Frame) : Statement (.probeReply p f) := noWord _
theorem retryTimeout (q : Fin 64) : Statement (.retryTimeout q) := noWord _
theorem peerLost (q : Fin 64) : Statement (.peerLost q) := noWord _
theorem portDown (p : Fin 2) : Statement (.portDown p) := noWord _
theorem portUp (p : Fin 2) : Statement (.portUp p) := noWord _
theorem crpPorNAssert : Statement .crpPorNAssert := noWord _
theorem memCreditReturn (n : Fin 16) (wd : Bool) : Statement (.memCreditReturn n wd) := noWord _
theorem resultInPlace (c : Fin 4) (u : Path) : Statement (.resultInPlace c u) := noWord _

end Sys2Proof.Laws.NoWord
end

