-- ==== Sys2Proof/Laws/Ports.lean ====
section
/-! SUPPORT. What presenting requests can change: the jobs, the requests, the Memory Port's channels, the Host Port, and
the host memory that a handed WRITE reaches. -/

namespace Sys2Proof.Machine

/-- t is s but for what the ports present. -/
def PortsOnly (s t : State) : Prop :=
  ∃ js rs ms hs hm, t = { s with jobs := js, reqs := rs, mem := ms, host := hs, hmem := hm }

theorem PortsOnly.refl (s : State) : PortsOnly s s := ⟨_, _, _, _, _, rfl⟩

theorem PortsOnly.trans {s t u : State} (h : PortsOnly s t) (g : PortsOnly t u) : PortsOnly s u := by
  obtain ⟨_, _, _, _, _, rfl⟩ := h
  obtain ⟨_, _, _, _, _, rfl⟩ := g
  exact ⟨_, _, _, _, _, rfl⟩

theorem portsOnly_presentMem {s t : State} {u : User} {b : Burst} (h : presentMem s u b = some t) : PortsOnly s t := by
  unfold presentMem at h
  dsimp only at h
  split at h
  · cases h
  · rw [Option.map_eq_some_iff] at h
    obtain ⟨a, -, rfl⟩ := h
    exact ⟨_, _, _, _, _, rfl⟩

theorem portsOnly_presentHost {s t : State} {u : User} {b : Burst} (h : presentHost s u b = some t) :
    PortsOnly s t := by
  unfold presentHost at h
  dsimp only at h
  split at h
  · cases h
  · split at h
    · cases h
      exact ⟨_, _, _, _, _, rfl⟩
    · rw [Option.map_eq_some_iff] at h
      obtain ⟨a, -, rfl⟩ := h
      exact ⟨_, _, _, _, _, rfl⟩
    · split at h
      · cases h
      · rw [Option.map_eq_some_iff] at h
        obtain ⟨a, -, rfl⟩ := h
        exact ⟨_, _, _, _, _, rfl⟩

theorem portsOnly_movePtr (s : State) (u : User) (b : Burst) : PortsOnly s (movePtr s u b) := by
  unfold movePtr
  dsimp only
  split <;> exact ⟨_, _, _, _, _, rfl⟩

theorem portsOnly_grants {s : State} {g : Nat × Nat × List Nat × State} (hg : firstGrant s = some g) :
    PortsOnly s g.2.2.2 := by
  have hm := firstGrant_mem hg
  simp only [grants, List.mem_flatMap, List.mem_filterMap, Option.map_eq_some_iff] at hm
  obtain ⟨j, -, b, -, t, ht, rfl⟩ := hm
  refine PortsOnly.trans ?_ (portsOnly_movePtr t _ _)
  unfold present at ht
  split at ht
  · exact portsOnly_presentHost ht
  · exact portsOnly_presentMem ht

theorem portsOnly_pumpN (n : Nat) (s : State) : PortsOnly s (pumpN n s) := by
  induction n generalizing s with
  | zero => exact .refl s
  | succ n ih =>
    unfold pumpN
    extract_lets s1
    have h1 : PortsOnly s s1 := ⟨_, _, _, _, _, rfl⟩
    split
    · exact h1
    · refine (h1.trans (portsOnly_grants ‹_›)).trans (.trans ?_ (ih _))
      exact ⟨_, _, _, _, _, rfl⟩

theorem portsOnly_fenceReads (s : State) : PortsOnly s (fenceReads s) := by
  unfold fenceReads
  split
  · generalize ho : presentHost s _ _ = o
    cases o with
    | none => exact .refl s
    | some t => exact portsOnly_presentHost ho
  · exact .refl s

/-- Presenting what may be presented changes nothing else. -/
theorem portsOnly_pump (s : State) : PortsOnly s (pump s) := (portsOnly_pumpN _ s).trans (portsOnly_fenceReads _)

/-- A job that starts changes nothing else. -/
theorem portsOnly_addJob (s : State) (u : User) (l : List (List Burst)) : PortsOnly s (addJob s u l) :=
  .trans ⟨_, _, _, _, _, rfl⟩ (portsOnly_pump _)

end Sys2Proof.Machine
end

