-- ==== Sys2Proof/Machine/Signals.lean ====
section
/-! DEFINITION. The port signals that carry a request, as functions of it: commands, aligned addresses, beats, byte
enables and parity of the Memory Port and the Host Port (12_host_and_memory_ports.md R361, R366, R370 to R372, R375,
Tables 12.1 and 12.4). The handshakes are the commands that answer the requests, and take no time of their own (log
entry 145). -/

namespace Sys2Proof.Machine

/-- Even parity of the low n bits of a number: the bit that makes the count of ones even. -/
def evenPar (n v : Nat) : Bool := decide (((List.range n).filter (Nat.testBit v)).length % 2 = 1)

/-- Per-byte even parity of a beat. -/
def beatPar (bs : List Byte) : List Bool := bs.map fun b => evenPar 8 b.toNat

/-- Beat k of w bytes of a write of bytes bs at address a: the bytes, zero where no byte is written, and their
enables (R366). -/
def beatAt (w a : Nat) (bs : List Byte) (k : Nat) : List (Byte × Bool) :=
  (List.range w).map fun n =>
    let p := (a / w + k) * w + n
    if a ≤ p ∧ p < a + bs.length then (bs.getD (p - a) 0, true) else (0, false)

/-! ### Memory Port (Table 12.1) -/

/-- MEM_Cn_REQ signals. -/
structure MemReqSig where
  cmd : BitVec 2
  tag : BitVec 8
  addr : BitVec 48
  beats : BitVec 2
  par : Bool
  deriving DecidableEq, Repr

/-- Code of a command. -/
def memCmd (k : ReqKind) : Nat :=
  match k with
  | .read => 0
  | .write => 1
  | .fence => 2

/-- The request signals of a request: the address with bits [5:0] zero, and 0 for a FENCE. -/
def memReqSig (r : Req) : MemReqSig :=
  let f := decide (r.b.kind = .fence)
  let a := if f then 0 else r.b.addr / 64 * 64
  let n := if f then 0 else beatsOf r.b.addr r.b.len - 1
  let c := memCmd r.b.kind
  { cmd := BitVec.ofNat 2 c, tag := BitVec.ofNat 8 r.tag, addr := BitVec.ofNat 48 a, beats := BitVec.ofNat 2 n,
    par := (evenPar 2 c != evenPar 8 r.tag) != (evenPar 48 a != evenPar 2 n) }

/-- MEM_Cn_WD signals of beat k of a WRITE: data with byte enables, LAST, and parity. -/
def memBeat (r : Req) (k : Nat) : List (Byte × Bool) × Bool × List Bool :=
  let d := beatAt 64 r.b.addr r.b.data k
  (d, k + 1 == beatsOf r.b.addr r.b.len, beatPar (d.map (·.1)))

/-- Bytes of integrator memory after a beat is written: those whose enable is 1 (R366). -/
def putBeat (m : Mem) (a : Nat) (d : List (Byte × Bool)) : Mem :=
  (d.zipIdx).foldl (fun m e => if e.1.2 then storeBytes m (a + e.2) [e.1.1] else m) m

/-! ### Host Port (Table 12.4) -/

/-- HBP_OWR signals of a WRITE or a FLUSH_READ, and HBP_ORD signals of a READ. -/
structure HostReqSig where
  /-- The write path takes it. -/
  owr : Bool
  flush : Bool
  addr : BitVec 64
  /-- Bytes minus 1. -/
  len : BitVec 8
  /-- Relaxed Ordering: set on data writes, clear on flush reads, completion records and reads (R370, R375, R376). -/
  ro : Bool
  tag : BitVec 8
  deriving DecidableEq, Repr

/-- The user posts completion records. -/
def isRecord : User → Bool
  | .post _ _ => true
  | _ => false

/-- The request signals of a user's burst with its tag. -/
def hostReqSig (u : User) (b : Burst) (tag : Nat) : HostReqSig :=
  { owr := decide (b.kind ≠ .read), flush := decide (b.kind = .fence), addr := BitVec.ofNat 64 b.addr,
    len := BitVec.ofNat 8 (b.len - 1), ro := decide (b.kind = .write) && !isRecord u, tag := BitVec.ofNat 8 tag }

/-- Beats of a WRITE (R372). -/
def hostBeats (n : Nat) : Nat := (n + 127) / 128

/-- Beat k of a WRITE: its bytes from byte 128 k on, with LAST and parity (R371, R372; log entry 145). -/
def hostBeat (bs : List Byte) (k : Nat) : List (Byte × Bool) × Bool × List Bool :=
  let d := beatAt 128 0 bs k
  (d, k + 1 == hostBeats bs.length, beatPar (d.map (·.1)))

/-- HBP_ICPL: what a register read of 2^size bytes at an offset returns, with its tag and parity. -/
def icplOf (s : State) (tag : BitVec 8) (ofs : BitVec 24) (size : Nat) : BitVec 8 × List Byte × List Bool :=
  let d := windowRead s ofs.toNat (2 ^ size)
  (tag, d, beatPar d)

/-! ### Interrupts, time base and Light Port outputs -/

/-- LTP_PEER_ID, LTP_CLUSTER and LTP_ETYPE_SEL as sampled (13 R384, R388): the block's addresses on its two ports. -/
def portMacs (s : State) : List (BitVec 48) := [0, 1].map (macOf s.straps.cluster s.straps.peerId.val)

end Sys2Proof.Machine
end

