-- ==== Sys2Proof/Tests/Slice0.lean ====
section
/-! SUPPORT. Tests: for every statement with hypotheses a state and operands that meet them, well-formedness with an
ill-formed command for each check, and single steps whose results are worked out from the spec's tables and examples. -/

namespace Sys2Proof.Tests

open Sys2Proof.Machine

set_option Elab.async false

/-! ### Small states -/

/-- The block just after boot, in life-cycle state FIELD: one partition, all Calderas released. -/
def up : State := fwStart { State.reset with life := { phase := .boot, lc := 3, lcIn := 3, lcValid := true } }

/-- Mailbox m rung with a command: opcode, and parameters by byte, width and value. -/
def rung (s : State) (m op : Nat) (ps : List (Nat × Nat × Nat)) : State :=
  { updMb s m fun b => { b with st := .busy, cmd := ps.foldl (fun c e => store c e.1 e.2.1 e.2.2) (store [] 0 2 op) } with
    mbOrder := [m] }

/-- Region 0, generation 1, of partition 0: integrator memory from 64 KiB, 1 MiB. -/
def withRegion (s : State) : State :=
  setRegion s 0 { gen := 1, live := true, base := 65536, size := 1048576 }

/-- Context x exists. -/
def withCtx (s : State) (x : Nat) : State := updCtx s x fun c => { c with exist := true }

/-- The entry of a chunk of one step without streams. -/
def entry0 : Entry :=
  { irq := false, mask := false, steps := 1, rows := 0, entry := 0, wstart := 0, deadline := 0, user := 7, dreg := 0,
    dfirst := 0, dofs := 0, dcount := 0, maskh := 0, streams := [] }

/-- A work item of channel 0. -/
def item0 : Item :=
  { ch := 0, seq := 0, part := 0, task := false, e := entry0, win := 0, deadline := 1000, late := false, eligAt := 0 }

/-- Image 0, generation 1, with n bytes of code. -/
def withImage (s : State) (n : Nat) : State :=
  setImage s 0 { gen := 1, live := true, codeSize := n, entries := [0], lanes := 16, slots := 8, rowHalves := 2, colHalves := 2 }

/-- Item 0 executing on context 0 with the whole of Caldera 0's array and 16 lane registers. -/
def running0 : Item :=
  { item0 with eligible := true, place := .exec, slots := 8, halves := 15, decay := true, laneN := 16, spadLen := 65536,
               img := 0x100, entered := true, attempt := 1 }

/-- Context 0 at a bundle at 0x40 whose next slot is k with bits w, and SEQ behind it when `more`. -/
def inSlot (k : SlotK) (w : Nat) (more : Bool := false) : State :=
  let s := withImage (withCtx up 0) 4096
  updCtx { s with items := [running0] } 0 fun c =>
    { c with pc := 0x40, bun := some ⟨0x40, 1 + slotWords k, false,
        ((List.range (slotWords k)).map fun n => BitVec.ofNat 32 (w / 2 ^ (32 * n))) ++ [0],
        k :: (if more then [.seq] else []), true⟩ }

/-- The reads of mailbox m's command have ended with these bytes. -/
def readBy (s : State) (m : Nat) (rx : Mem) : State :=
  { updMb s m fun b => { b with wait := .reads } with
    jobs := [⟨.mbox m 0, [], false, 0, rx⟩, ⟨.mbox m 1, [], false, 0, rx⟩] }

/-- A read waits. -/
def gotWait : Got → Bool
  | .wait _ => true
  | _ => false

/-- A read has these bytes. -/
def gotHere (m : Mem) : Got → Bool
  | .here d => decide (d = m)
  | _ => false

/-! ### Witnesses: the step, the queue, the stores -/

theorem witness_StepRunsFrontCommand :
    ({ State.reset with pending := [.timeLoRead] } : State).pending = .timeLoRead :: [] := rfl

theorem witness_EmptyQueueIsOneCycle :
    State.reset.pending = [] ∧ State.reset.life.phase = .held ∧ up.pending = [] ∧ up.life.phase ≠ .held ∧
    winItemOf up 0 = none ∧ winItemOf { up with items := [running0] } 0 = some running0 ∧
    ∀ c ∈ List.range 4, (getCal up c).rest = [] ∧ (getCal up c).rbuf = [] := by decide +kernel

theorem witness_CommandsLeaveTheQueue : exec .nonceLapse State.reset = .next State.reset := rfl

theorem witness_StepKeepsStoresSound :
    StoresSound State.reset ∧ TablesSound State.reset ∧ step State.reset = .next State.reset :=
  ⟨⟨rfl, rfl, rfl⟩, ⟨by decide, rfl, rfl, rfl, rfl, rfl, rfl, fun _ => rfl⟩, rfl⟩

/-- The block with debug level OPEN. -/
def opened : State := { up with life := { up.life with level := .opened } }

/-- Both outcomes of a debugger's access: a word that exists, and the first one that does not. -/
theorem witness_EveryCommandCompletes :
    Completes (exec (.memrd 4 0 (storeWords 4 0 - 1)) opened) ∧
    exec (.memrd 4 0 (storeWords 4 0)) opened = .fault .noSuchWord := ⟨⟨_, rfl⟩, rfl⟩

theorem witness_TimeNeverDecreases :
    let s := { up with tb := { up.tb with st := .locked, t12 := 1200 } }
    s.tb.st ≠ .unset ∧ ∃ t, exec (.timeSample 98 false) s = .next t := ⟨by decide +kernel, _, rfl⟩

theorem witness_StoredBytesReadBack : memWf [(3, 7)] = true := by decide

theorem witness_ResponseEchoesCommand :
    twf {} up.mbs = true ∧ stGraphCycle < 256 ∧ 65535 < 65536 ∧ ∀ e ∈ [(8, 48, 5), (56, 8, 0)], 8 ≤ e.1 := by decide +kernel

/-- n events wait in partition 0's queue, which has no ring or a ring of 16 records with `out` in it. -/
def queued (n : Nat) (ring : Bool) (out : Nat) : State :=
  updPart (withRegion up) 0 fun q => { q with queue := List.replicate n ⟨6, 0, 0, []⟩, ring, ringReg := 0x400, ringLog := 4,
                                              eqProd := BitVec.ofNat 16 out }

theorem witness_EventsQueueOrCount :
    twf {} (queued 256 false 0).parts = true ∧
    256 + evRoom (getPart (queued 256 false 0) 0) ≤ (getPart (queued 256 false 0) 0).queue.length ∧
    (getPart (queued 255 false 0) 0).queue.length < 256 + evRoom (getPart (queued 255 false 0) 0) ∧
    256 + evRoom (getPart (queued 256 true 15) 0) ≤ (getPart (queued 256 true 15) 0).queue.length ∧
    (getPart (queued 256 true 14) 0).queue.length < 256 + evRoom (getPart (queued 256 true 14) 0) ∧
    (getPart (queued 1 true 14) 0).queue = ⟨6, 0, 0, []⟩ :: [] ∧ (queued 1 true 14).life.phase = .running ∧
    ringOpen (queued 1 true 14) 0 = true ∧ ringOpen (queued 1 true 15) 0 = false ∧
    jobOf (queued 1 true 14) (.event 0) = none ∧
    ∀ e ∈ [true, false], ∀ d ∈ [true, false],
      let s := { queued 1 true 14 with jobs := [⟨.event 0, if d then [] else [[]], e, 0, []⟩] }
      (jobOf s (.event 0)).isSome = true ∧ jobDone s (.event 0) = d ∧ jobErr s (.event 0) = e := by decide +kernel

theorem witness_LadderStepsSetLastStep :
    (up.ladder.any fun q => covers up q.level q.target 5 0 && !spent up q) = false ∧
    (let s := startStep up 1 17 1 none []
     s.ladder[0]? = some ⟨1, 17, 1, [], false⟩ ∧ nextStep s ⟨1, 17, 1, [], false⟩ = some (2, 1)) ∧
    nextStep up ⟨5, 0, 1, [], false⟩ = none := by decide +kernel

theorem witness_SemaphoreAdditionSaturates :
    let s := setSem up 1279 { value := 65535, bind := 2 }
    twf {} s.sems = true ∧ 65535 < (getSem s 1279).value + 1 ∧ (getSem s 1279).value + 0 ≤ 65535 := by decide +kernel

/-- Item 0 waits, eligible, for Caldera 0, on a channel whose bin it serves and whose mask holds context 0. -/
def waiting : State :=
  let s := updPart (withImage (withCtx up 0) 4096) 0 fun q => { q with bins := [0] }
  { setChan s 0 { gen := 1, live := true, img := 0x100, mask := 1, bin := some 0 } with
    items := [{ item0 with eligible := true }] }

theorem witness_WindowWinnerIsEarliest : winner waiting 0 = some { item0 with eligible := true } := by decide +kernel

/-! ### Witnesses: mailbox commands -/

/-- A command of mailbox 0 in partition 0. -/
abbrev cmd0 (s : State) (op : Nat) (ps : List (Nat × Nat × Nat)) : State := rung s 0 op ps

theorem witness_BlockCommandsAnswer :
    cmdReady 1 0 (cmd0 up 1 []) ∧
    (let s := cmd0 up 2 [(8, 1, 0xE4), (16, 8, 0x3210)]
     let k := ((List.range 4).map (mapAt 0xE4 2)).foldl max 0 + 1
     cmdReady 2 0 s ∧ par s 0 8 1 = 0xE4 ∧ par s 0 16 8 = 0x3210 ∧
     ((List.range k).all fun p => (List.range 4).any fun c => mapAt 0xE4 2 c == p) = true ∧ 0x3210 % 16 = 0 ∧
     ((List.range 16).all fun j => j == 0 || mapAt 0x3210 4 j == 14 || decide (mapAt 0x3210 4 j < k)) = true ∧
     ((List.range k).all fun p => (List.range 16).any fun j => j != 0 && mapAt 0x3210 4 j == p) = true ∧
     ((List.range 4).all fun p => !changed s 0xE4 0x3210 p || !ownsObject s p) = true) ∧
    (let s := cmd0 (withRegion up) 4 [(8, 2, 0x400), (12, 4, 524288)]
     cmdReady 4 0 s ∧ par s 0 12 4 % 4096 = 0 ∧ needRegion s (partOf s 0) (parReg s 0 8) = .ok () ∧
     (getRegion s (regIdx (parReg s 0 8))).ro = false ∧ regFits s (parReg s 0 8) (par s 0 12 4) 524288 = true) ∧
    (let s := cmd0 up 5 [(8, 1, 4)]
     cmdReady 5 0 s ∧ lcAllowed s.life.lc (par s 0 8 1) = true) ∧
    (let s := cmd0 up 6 [(8, 1, 2)]
     cmdReady 6 0 s ∧ 1 ≤ par s 0 8 1 ∧ par s 0 8 1 ≤ 2) := by
  unfold cmdReady; decide +kernel

/-- The block in a life-cycle state at a debug level. -/
def atLevel (lc : BitVec 3) (l : Level) : State := { up with life := { up.life with lc, level := l } }

theorem witness_DebugCloseLowersLevel :
    (let s := rung up 1 8 []
     fwTakes s 1 = true ∧ par s 1 0 2 = 0x08) ∧
    (let s := cmd0 up 8 []
     fwTakes s 0 = true ∧ par s 0 0 2 = 0x08 ∧ s.life.level = .closed) ∧
    (let s := cmd0 (atLevel 3 .observe) 8 []
     cmdReady 8 0 s ∧ s.life.level = .observe) ∧
    (let s := cmd0 (atLevel 1 .opened) 8 []
     cmdReady 8 0 s ∧ s.life.level = .opened ∧ s.life.lc = 1) ∧
    (let s := cmd0 (atLevel 3 .opened) 8 []
     cmdReady 8 0 s ∧ s.life.level = .opened ∧ s.life.lc ≠ 1) ∧
    (let s := { up with life := { up.life with wipe := some (some .closed) } }
     s.life.wipe = some (some .closed) ∧ s.life.wipeOff = false) := by unfold cmdReady; decide +kernel

theorem witness_DebugUnlockRaisesLevel :
    (let s := cmd0 (atLevel 1 .observe) 7 [(8, 1, 2)]
     cmdReady 7 0 s ∧ par s 0 8 1 = 2 ∧ levelNo s.life.level < 2 ∧ needsSig s.life.lc 2 = false) ∧
    (let s := cmd0 { up with life := { up.life with nonceFor := 1 } } 7 [(8, 1, 1)]
     cmdReady 7 0 s ∧ par s 0 8 1 = 1 ∧ levelNo s.life.level < 1 ∧ needsSig s.life.lc 1 = true ∧ s.life.nonceFor = 1) ∧
    (let s := cmd0 { up with life := { up.life with nonceFor := 1 } } 7 [(8, 1, 2)]
     cmdReady 7 0 s ∧ par s 0 8 1 = 2 ∧ levelNo s.life.level < 2 ∧ needsSig s.life.lc 2 = true ∧ s.life.nonceFor ≠ 2) := by
  unfold cmdReady; decide +kernel

/-- An abbreviation of the tests: the firmware takes mailbox 0 with this POWER_STATE. -/
def power (s : State) (st : Nat) : State := cmd0 s 3 [(8, 1, st)]

theorem witness_PowerStateActs :
    (let s := power opened 2
     fwTakes s 0 = true ∧ par s 0 0 2 = 0x03 ∧ par s 0 8 1 = 2 ∧ s.life.level = .opened) ∧
    (cmdReady 3 0 (power up 0) ∧ par (power up 0) 0 8 1 = 0) ∧
    (let s := power { up with life := { up.life with pstate := .idle } } 1
     cmdReady 3 0 s ∧ par s 0 8 1 = 1 ∧ s.life.pstate = .idle) ∧
    (cmdReady 3 0 (power up 1) ∧ par (power up 1) 0 8 1 = 1 ∧ (power up 1).life.pstate ≠ .idle) ∧
    (cmdReady 3 0 (power up 2) ∧ par (power up 2) 0 8 1 = 2 ∧ (power up 2).life.level ≠ .opened ∧
      retainBusy (power up 2) = false) ∧
    (cmdReady 3 0 (power up 3) ∧ par (power up 3) 0 8 1 = 3) ∧
    (let s := updMb up 0 fun b => { b with st := .busy, wait := .idle }
     s.items.any inWindow = false ∧ (getMb s 0).st = .busy ∧ (getMb s 0).wait = .idle) := by unfold cmdReady; decide +kernel

theorem witness_PartitionCommandsAnswer :
    (let s := cmd0 up 0x10 [(8, 1, 7), (9, 1, 1), (12, 4, 1), (16, 4, 0xFFFFFFFF)]
     cmdReady 0x10 0 s ∧ par s 0 9 1 ≤ 1 ∧
     s.chans.any (fun e => e.2.live && e.2.part == partOf s 0 && e.2.adm.isSome) = false) ∧
    (let s := cmd0 (withRegion up) 0x11 [(8, 2, 0x400), (12, 4, 1048576 - 131072), (16, 1, 12)]
     cmdReady 0x11 0 s ∧ par s 0 12 4 % 32 = 0 ∧ par s 0 16 1 = 12 ∧ needRegion s (partOf s 0) (parReg s 0 8) = .ok () ∧
     (getRegion s (regIdx (parReg s 0 8))).ro = false ∧ regFits s (parReg s 0 8) (par s 0 12 4) (32 * 2 ^ 12) = true) ∧
    (let s := cmd0 (withCtx up 63) 0x12 [(8, 1, 0), (9, 1, 63)]
     cmdReady 0x12 0 s ∧ par s 0 8 1 = 0 ∧ needCtx s (partOf s 0) (par s 0 9 1) = .ok ()) ∧
    (let s := cmd0 up 0x12 [(8, 1, 1), (9, 1, 3)]
     cmdReady 0x12 0 s ∧ par s 0 8 1 = 1 ∧ par s 0 9 1 ≤ 3 ∧ (getCal s (par s 0 9 1)).part = partOf s 0) ∧
    (let s := rung up 15 0x12 [(8, 1, 2)]
     cmdReady 0x12 15 s ∧ par s 15 8 1 = 2) ∧
    (let s := cmd0 up 0x12 [(8, 1, 3)]
     cmdReady 0x12 0 s ∧ par s 0 8 1 = 3) := by unfold cmdReady; decide +kernel

theorem witness_ContextCommandsAnswer :
    (let s := cmd0 up 0x30 [(8, 1, 3), (9, 1, 0xFF)]
     cmdReady 0x30 0 s ∧ par s 0 8 1 ≤ 3 ∧ (getCal s (par s 0 8 1)).part = partOf s 0 ∧ par s 0 9 1 = 0xFF ∧
     freeIdx 16 (fun j => (getCtx s (16 * par s 0 8 1 + j)).exist) = some 0) ∧
    (let s := cmd0 up 0x30 [(8, 1, 0), (9, 1, 15)]
     cmdReady 0x30 0 s ∧ par s 0 8 1 ≤ 3 ∧ (getCal s (par s 0 8 1)).part = partOf s 0 ∧ par s 0 9 1 = 15 ∧
     (getCtx s (16 * par s 0 8 1 + 15)).exist = false) ∧
    (∀ op ∈ [0x31, 0x33, 0x34, 0x35, 0x36], let s := cmd0 (withCtx up 63) op [(8, 1, 63)]
     cmdReady op 0 s ∧ needCtx s (partOf s 0) (par s 0 8 1) = .ok () ∧ winItemOf s (par s 0 8 1) = none) := by
  unfold cmdReady; decide +kernel

theorem witness_DescriptorsWrittenAndHaltsTaken :
    (let s := cmd0 (withCtx up 0) 0x32 [(8, 1, 0), (10, 2, 1), (12, 2, 3), (14, 1, 0)]
     cmdReady 0x32 0 s ∧ 1 ≤ par s 0 10 2 ∧ par s 0 12 2 = 3 ∧ par s 0 10 2 + par s 0 12 2 ≤ 1024 ∧
     needCtx s (partOf s 0) (par s 0 8 1) = .ok () ∧ par s 0 14 1 = 0 ∧ winItemOf s 0 = none) ∧
    (let s := cmd0 (withRegion (withCtx up 0)) 0x32
       [(8, 1, 0), (10, 2, 1), (12, 2, 1023), (14, 1, 1), (16, 2, 0x400), (20, 4, 1048576 - 65472)]
     cmdReady 0x32 0 s ∧ 1 ≤ par s 0 10 2 ∧ par s 0 10 2 + par s 0 12 2 = 1024 ∧
     needCtx s (partOf s 0) (par s 0 8 1) = .ok () ∧ par s 0 14 1 = 1 ∧ par s 0 20 4 % 64 = 0 ∧
     needRegion s (partOf s 0) (parReg s 0 16) = .ok () ∧
     regFits s (parReg s 0 16) (par s 0 20 4) (64 * par s 0 12 2) = true ∧ needLink s (parReg s 0 16) = .ok () ∧
     let got := fun u => regGot u 0 0 (parReg s 0 16) (par s 0 20 4) (64 * par s 0 12 2)
     gotWait (got s) = true ∧ gotHere [] (got (readBy s 0 [])) = true ∧ cmdReady 0x32 0 (readBy s 0 []) ∧
     got { readBy s 0 [] with jobs := [⟨.mbox 0 0, [], true, 0, []⟩] } = .bad) ∧
    ((getMb (readBy up 0 []) 0).wait = .reads ∧ jobOf (readBy up 0 []) (.mbox 0 2) = none ∧
     jobOf (readBy up 0 []) (.mbox 0 0) = some ⟨.mbox 0 0, [], false, 0, []⟩) ∧
    (∀ l ∈ [[], [running0]], (winItemOf { up with items := l } 0).isSome = !l.isEmpty) ∧
    (let s := updCtx { withCtx up 0 with items := [running0] } 0 fun c => { c with haltReq := true }
     (winItemOf s 0).isSome = true ∧ itemOf s 0 = some running0 ∧ (getCtx s 0).haltReq = true ∧ (getCtx s 0).bun = none ∧
     running0.ended = false ∧ mayIssue s 0 running0 = true) := by unfold cmdReady; decide +kernel

/-- Bytes of integrator memory: fields by offset from 64 KiB, width and value. -/
def bytesAt (l : List (Nat × Nat × Nat)) : Mem := l.foldl (fun m e => store m (65536 + e.1) e.2.1 e.2.2) []

/-- An image of 768 bytes at the start of region 0, its checks computed: one entry point at offset 0, one code line that
holds END, and a declaration area with no layer. -/
def image1 : Mem :=
  bytesAt [(0, 4, 0x464C3449), (4, 2, 1), (6, 1, 1), (7, 1, 3), (8, 4, 256), (12, 4, 512), (16, 2, 1), (20, 4, 256),
    (28, 1, 1), (31, 1, 1), (48, 4, 320), (52, 4, 260), (60, 4, 1576455593), (260, 4, 3380034058), (320, 4, 0x464C4443),
    (340, 4, 64), (348, 4, 128), (352, 4, 63499111), (380, 4, 2494885539), (512, 4, 0x201), (516, 4, 0x3F)]

set_option maxRecDepth 100000 in
theorem witness_RegionAndImageCommandsAnswer :
    (let s := cmd0 up 0x20 [(8, 1, 3), (9, 1, 1), (16, 8, 2 ^ 64 - 4096), (24, 8, 4096)]
     cmdReady 0x20 0 s ∧ par s 0 8 1 = 3 ∧ par s 0 16 8 % 4096 = 0 ∧ par s 0 24 8 % 4096 = 0 ∧ 0 < par s 0 24 8 ∧
     par s 0 16 8 + par s 0 24 8 ≤ spaceEnd true ∧ freeIdx 1024 (fun j => (getRegion s j).live) = some 0) ∧
    (let s := cmd0 (withRegion up) 0x21 [(8, 2, 0x400)]
     cmdReady 0x21 0 s ∧ regLive s 0 (parReg s 0 8) = true ∧ regionUsed s (parReg s 0 8) = false) ∧
    (∀ e ∈ [(image1, true), ([], false)], let s0 := cmd0 (withRegion up) 0x40 [(8, 2, 0x400), (16, 4, 768)]
     let s := readBy s0 0 e.1
     cmdReady 0x40 0 s ∧ par s 0 12 4 % 256 = 0 ∧ needRegion s 0 (parReg s 0 8) = .ok () ∧
     regFits s (parReg s 0 8) (par s 0 12 4) (par s 0 16 4) = true ∧ needLink s (parReg s 0 8) = .ok () ∧
     gotWait (regGot s0 0 0 (parReg s 0 8) (par s 0 12 4) (par s 0 16 4)) = true ∧
     gotHere e.1 (regGot s 0 0 (parReg s 0 8) (par s 0 12 4) (par s 0 16 4)) = true ∧
     (publish (dropUsers s (mboxUser 0)) 0 (parReg s 0 8) (par s 0 12 4) (par s 0 16 4) e.1).toOption.isSome = e.2) ∧
    (let s := cmd0 (withImage up 256) 0x41 [(8, 2, 0x40)]
     cmdReady 0x41 0 s ∧ imgLive s (parReg s 0 8) = true ∧ (imgOf s (parReg s 0 8)).part = partOf s 0 ∧
     imageUsed s (parReg s 0 8) = false) ∧
    (let s := cmd0 (withImage up 256) 0x42 [(8, 2, 0x40), (10, 2, 0x40)]
     cmdReady 0x42 0 s ∧ imgLive s (parReg s 0 10) = true ∧ (imgOf s (parReg s 0 10)).part = partOf s 0 ∧
     compatible (imgOf s (parReg s 0 8)) (imgOf s (parReg s 0 10)) = true) ∧
    (let s := updMb up 0 fun b => { b with st := .busy, wait := .replace 0x40 0x41 }
     (getMb s 0).st = .busy ∧ (getMb s 0).wait = .replace 0x40 0x41) := by unfold cmdReady; decide +kernel

/-- Channel 0, generation 1, of partition 0, with an image of one entry point that has a cost record. -/
def withChan (s : State) : State :=
  let s1 := withRegion s
  let s2 := setImage s1 0
    { gen := 1, live := true, codeSize := 256, entries := [0], costs := [⟨1000, 0, 0, 1, 0, 0, 0, true⟩] }
  setChan s2 0 { gen := 1, live := true, img := 0x40, sqReg := 0x400, sqLog := 4, cqReg := 0x400, cqOfs := 1024, cqLog := 4 }

/-- The rings of CHANNEL_CREATE and CHANNEL_RESUME, at the ends of the region. -/
def ringPars : List (Nat × Nat × Nat) :=
  [(12, 2, 0x400), (16, 4, 0), (20, 1, 4), (22, 2, 0x400), (24, 4, 1048576 - 524288), (28, 1, 13)]

theorem witness_ChannelCommandsAnswer :
    (let s := cmd0 (withImage (withRegion up) 256) 0x50 ([(8, 2, 0x40), (32, 8, 2 ^ 64 - 1)] ++ ringPars)
     cmdReady 0x50 0 s ∧ ringFields (ringsOf s 0) = .ok () ∧ maskOk s 0 (par s 0 32 8) = true ∧
     needImage s 0 (parReg s 0 8) = .ok () ∧ ringRegions s 0 (ringsOf s 0) = .ok () ∧ ringPlaces s (ringsOf s 0) = .ok () ∧
     freeIdx 256 (fun j => (getChan s j).live) = some 0) ∧
    (let s := cmd0 (withChan up) 0x51 [(8, 2, 0x100), (12, 8, 10000), (20, 8, 160000), (44, 8, 159999), (52, 1, 2)]
     cmdReady 0x51 0 s ∧ askOk (askOf s 0) = .ok () ∧ needChan s 0 (par s 0 8 2) = .ok () ∧
     ((imgOf s (getChan s 0).img).costs[(askOf s 0).entry]?).isSome) ∧
    (let s := cmd0 (withChan up) 0x52 [(8, 2, 0x100)]
     cmdReady 0x52 0 s ∧ needChan s 0 (par s 0 8 2) = .ok () ∧ chanBound s 0 = false ∧ chanPending s 0 = false ∧
     (cancelQueued s (fun t => t.ch == 0) stCancelled).items.all (·.ch != 0) = true ∧
     (cancelQueued s (fun t => t.ch == 0) stCancelled).posts.all (·.ch != 0) = true) ∧
    (let s := cmd0 { withChan up with items := [running0] } 0x52 [(8, 2, 0x100), (10, 1, 1)]
     cmdReady 0x52 0 s ∧ needChan s 0 (par s 0 8 2) = .ok () ∧ chanBound s 0 = false ∧ par s 0 10 1 = 1 ∧
     (cancelQueued s (fun t => t.ch == 0) stCancelled).items.any (·.ch == 0) = true) ∧
    (let s := cmd0 (withChan up) 0x53 [(8, 2, 0x100)]
     cmdReady 0x53 0 s ∧ needChan s 0 (par s 0 8 2) = .ok ()) ∧
    (let s := cmd0 (updChan (withChan up) 0 fun c => { c with st := .ringError }) 0x54 ([(8, 2, 0x100)] ++ ringPars)
     cmdReady 0x54 0 s ∧ ringFields (ringsOf s 0) = .ok () ∧ needChan s 0 (par s 0 8 2) = .ok () ∧
     (getChan s 0).st = .ringError ∧ ringRegions s 0 (ringsOf s 0) = .ok () ∧ ringPlaces s (ringsOf s 0) = .ok ()) := by unfold cmdReady; refine ⟨?_, ?_, ?_, ?_, ?_, ?_⟩ <;> decide +kernel

/-- The stream of slot 2,055, generation 3, in a state. -/
def withStream (s : State) (st : StreamState) (qdepth : Nat := 0) : State := setSlot s 2055 { st, gen := 3, qdepth }

/-- Its handle. -/
def handle1 : Nat := 0x3807

theorem witness_StreamCommandsAnswer :
    (let s := cmd0 up 0x60 [(8, 1, 1), (9, 1, 31), (10, 1, 0xFF)]
     cmdReady 0x60 0 s ∧ par s 0 8 1 = 1 ∧ par s 0 9 1 = maxWidthM1 true ∧ quadOk s 0 (par s 0 10 1) = true ∧
     (chooseSlot s (calsOf s 0) (par s 0 10 1)).isSome) ∧
    (∀ op ∈ [0x61, 0x62, 0x63], let s := cmd0 (withStream up .idle) op [(8, 4, handle1)]
     cmdReady op 0 s ∧ needStream s 0 (parStream s 0) = .ok () ∧ forced s 2055 = false ∧ slotOf (parStream s 0) = 2055 ∧
     idleLike (getSlot s 2055) = true ∧ (getSlot s 2055).st = .idle ∧ (getSlot s 2055).retired = false) ∧
    (let s := cmd0 (withStream up .queued 1) 0x61 [(8, 4, handle1), (12, 1, 1)]
     cmdReady 0x61 0 s ∧ needStream s 0 (parStream s 0) = .ok () ∧ forced s 2055 = false ∧
     idleLike (getSlot s 2055) = false ∧ working (getSlot s 2055) = true ∧ (getSlot s 2055).st ≠ .faulted ∧
     par s 0 12 1 = 1) := by unfold cmdReady; decide +kernel

/-- The record of a stream of 256 F32 channels that are all zero, its checks computed. -/
def record1 : Mem :=
  bytesAt [(0, 4, 0x464C5354), (4, 2, 1), (6, 1, 1), (12, 4, 0x1000), (36, 4, 4004437628), (60, 4, 1715846885)]

set_option maxRecDepth 100000 in
theorem witness_StreamMovesAct :
    (let s := cmd0 (withRegion (withStream up .idle)) 0x64 [(8, 4, handle1), (14, 2, 0x400), (16, 4, 1048576 - 2304)]
     cmdReady 0x64 0 s ∧ par s 0 13 1 = 0 ∧ par s 0 16 4 % 256 = 0 ∧ needStream s 0 (parStream s 0) = .ok () ∧
     needDest s 0 2055 0 (parReg s 0 14) (par s 0 16 4) = .ok () ∧ forced s 2055 = false ∧
     idleLike (getSlot s 2055) = true) ∧
    (let s := cmd0 (withStream up .queued 1) 0x64 [(8, 4, handle1), (12, 1, 1), (13, 1, 1), (20, 1, 63)]
     cmdReady 0x64 0 s ∧ par s 0 13 1 = 1 ∧ par s 0 20 1 ≤ 63 ∧ needStream s 0 (parStream s 0) = .ok () ∧
     needDest s 0 2055 1 (parReg s 0 14) (par s 0 16 4) = .ok () ∧ forced s 2055 = false ∧
     idleLike (getSlot s 2055) = false ∧ working (getSlot s 2055) = true ∧ par s 0 12 1 = 1) ∧
    (∀ e ∈ [false, true], let s0 := cmd0 (withRegion up) 0x65 [(10, 2, 0x400), (18, 1, 3)]
     let s := if e then readBy s0 0 record1 else s0
     cmdReady 0x65 0 s ∧ quadOk s 0 (par s 0 18 1) = true ∧ par s 0 8 1 = 0 ∧
     (importRegion s 0 0 (par s 0 18 1) (parReg s 0 10) (par s 0 12 4)).toOption.isSome) ∧
    (let s := cmd0 { up with arrivals := [⟨15, 1, 0, 0, 0, [], 0, 1, 1, 0⟩] } 0x65 [(8, 1, 1), (16, 2, 15), (18, 1, 0xFF)]
     cmdReady 0x65 0 s ∧ quadOk s 0 (par s 0 18 1) = true ∧ par s 0 8 1 = 1 ∧
     (importArrival s 0 (par s 0 16 2) (par s 0 18 1)).toOption.isSome ∧
     s.arrivals.find? (fun b => b.no == 15 && arrived b) = some ⟨15, 1, 0, 0, 0, [], 0, 1, 1, 0⟩) ∧
    (let e : Export := ⟨4095, none, false, 65536, [], 0, false, false⟩
     let s := { up with exports := [e], jobs := [⟨.exp 4095, [], false, 0, []⟩] }
     s.exports.find? (fun e => e.slot == 4095) = some e ∧ e.peer = none ∧ jobDone s (.exp 4095) = true) ∧
    (let e : Export := ⟨4095, some 9, false, 0, [], 1, false, false⟩
     ({ up with exports := [e] } : State).exports.find? (fun e => e.slot == 4095) = some e ∧ e.peer = some 9 ∧
     e.cancelled = false) := by unfold cmdReady; decide +kernel

/-- Table 63 of partition 0 with two generations, the older one held by an item in a window when `heldOld`. -/
def withTable (heldOld : Bool) (pend : Option (Loc × Nat)) : State :=
  let v : Table :=
    { live := true, rowBytes := 64, rows := 1, gen := 255, loc := ⟨none, 0x400, 0⟩, oldGen := 254,
      old := some ⟨none, 0x400, 64⟩, pend }
  { setTable (withRegion up) 63 v with
    items := if heldOld then [{ running0 with tables := [(63, 254)] }] else [] }

theorem witness_TableCommandsAnswer :
    (let s := cmd0 (withRegion up) 0x70 [(8, 2, 64), (12, 4, 256), (18, 2, 0x400)]
     cmdReady 0x70 0 s ∧ par s 0 8 2 = 64 ∧ 1 ≤ par s 0 12 4 ∧ par s 0 16 1 ≤ 1 ∧ locFields s 0 = .ok () ∧
     locPlace s 0 (locOf s 0) (4096 * 256) = .ok () ∧ freeIdx 64 (fun j => (getTable s j).live) = some 0) ∧
    (∀ h ∈ [true, false], let s := cmd0 (withTable h none) 0x71 [(8, 1, 63), (17, 1, 1), (20, 1, 63)]
     cmdReady 0x71 0 s ∧ locFields s 0 = .ok () ∧ needTable s 0 63 = .ok () ∧ locPlace s 0 (locOf s 0) 64 = .ok () ∧
     (getTable s 63).pend = none ∧ (getTable s 63).old.isSome = true ∧ genHeld s 63 254 = h) ∧
    (let s := cmd0 (withTable false none) 0x72 [(8, 1, 63)]
     cmdReady 0x72 0 s ∧ needTable s 0 63 = .ok () ∧ genHeld s 63 255 = false ∧ genHeld s 63 254 = false ∧
     (getTable s 63).pend = none) ∧
    (let s := withTable false (some (⟨some 3, 0, 0⟩, 0))
     (getTable s 63).pend = some (⟨some 3, 0, 0⟩, 0) ∧ genHeld s 63 (getTable s 63).oldGen = false) := by
  unfold cmdReady; refine ⟨?_, ?_, ?_, ?_⟩ <;> decide +kernel

/-- Channels 0 and 1; shared semaphore 0 of the block links 0 to 1; gradient set 15 of channel 0. -/
def linked : State :=
  let s := setChan (withChan up) 1 { gen := 1, live := true, img := 0x40 }
  setGset (setSem (updSem (withCtx s 63) 0 fun v => v) (semKey true 0 0) { bind := 2, prod := 0, cons := 1 }) 15
    { gen := 15, live := true, frames := 0x80000000 }

theorem witness_SharedObjectCommandsAnswer :
    (let s := cmd0 linked 0x80 [(8, 1, 255), (9, 1, 0), (10, 1, 3), (11, 1, 1), (12, 1, 63), (20, 2, 65535)]
     cmdReady 0x80 0 s ∧ needSem s 0 0 = .ok () ∧ par s 0 11 1 = 1 ∧ needCtx s 0 (par s 0 12 1) = .ok () ∧
     ctxCal (par s 0 12 1) = par s 0 10 1 ∧ (getSem s (parSem s 0)).bind = 0) ∧
    (∀ pr ∈ [(0x100, 0x101, false), (0x101, 0x100, true)],
     let s := cmd0 linked 0x80 [(8, 1, 1), (9, 1, 1), (11, 1, 2), (14, 2, pr.1), (16, 2, pr.2.1)]
     cmdReady 0x80 0 s ∧ needSem s 0 0 = .ok () ∧ par s 0 11 1 = 2 ∧ needChan s 0 (par s 0 14 2) = .ok () ∧
     needChan s 0 (par s 0 16 2) = .ok () ∧ (getSem s (parSem s 0)).bind = 0 ∧
     closesCycle s 0 (chanIdx pr.1) (chanIdx pr.2.1) = pr.2.2) ∧
    (∀ op ∈ [0x81, 0x82], let s := cmd0 linked op [(9, 1, 1)]
     cmdReady op 0 s ∧ needSem s 0 0 = .ok () ∧ (getSem s (parSem s 0)).bind ≠ 0 ∧ (getSem s (parSem s 0)).part = 0 ∧
     semBusy s (parSem s 0) = false) ∧
    (let s := cmd0 (setImage linked 0 { getImage linked 0 with training := true, tiles := [⟨0, 0, 0, false, true, 0, 0, true⟩] }) 0x90 [(8, 2, 0x100), (12, 4, 3)]
     cmdReady 0x90 0 s ∧ needChan s 0 (par s 0 8 2) = .ok () ∧ (imgOf s (getChan s 0).img).training = true ∧
     ((imgOf s (getChan s 0).img).tiles.all fun t => (tileFrames t).all fun f => (3 : Word).getLsbD f) = true ∧
     (3 : Word) &&& takenFrames s 0 = 0 ∧ freeIdx 16 (fun j => (getGset s j).live) = some 0) ∧
    (∀ op ∈ [0x91, 0x92], let s := cmd0 linked op [(8, 1, 0xFF)]
     cmdReady op 0 s ∧ needGset s 0 (par s 0 8 1) = .ok () ∧
     (s.items.any fun i => i.ch == 0 && trainingItem s i) = false) := by unfold cmdReady; decide +kernel

theorem witness_RefusalsLeaveTheRest :
    (let s := cmd0 up 0x09 []
     fwTakes s 0 = true ∧ listedOp (par s 0 0 2) = false) ∧
    (let s := cmd0 up 0x03 [(9, 1, 1)]
     fwTakes s 0 = true ∧ par s 0 0 2 = 0x03 ∧ listedOp 0x03 = true ∧ cmdCheck s 0 0x03 = some (2, 9)) ∧
    (let s := rung up 1 0x03 []
     fwTakes s 1 = true ∧ par s 1 0 2 = 0x03 ∧ cmdCheck s 1 0x03 = some (4, 0)) ∧
    (let s := cmd0 up 0x03 [(8, 1, 4)]
     cmdReady 0x03 0 s ∧ exec (.powerState 0) s = .next (respond s 0 3 8 [])) :=
  ⟨by decide +kernel, by decide +kernel, by decide +kernel, by unfold cmdReady; decide +kernel, rfl⟩

/-! ### Witnesses: register window, rings, dispatcher -/

theorem witness_MailboxControlActs :
    windowLive up = true ∧ (getMb up 15).st ≠ .busy ∧ (getMb up 15).st ≠ .done ∧
    (getMb (rung up 15 1 []) 15).st = .busy ∧ (getMb (respond up 15 0 0 []) 15).st = .done ∧ twf {} up.mbs = true ∧
    (let q : LStep := ⟨4, 0, 1, [], false⟩
     running { up with ladder := [q] } 4 0 = some q ∧ q.wiped = false) := by decide +kernel

theorem witness_ForceEscalationNeedsKey :
    State.reset.life.phase = .held ∧
    (∀ r ∈ [PState.retain, .off], let u := { up with life := { up.life with pstate := r, pwrSafe := true } }
      u.life.pwrSafe = true ∧ u.life.lc ≠ 7 ∧ u.life.pstate = r) ∧ windowLive up = true ∧ (0xE5C40004 : Word).toNat / 65536 = 0xE5C4 ∧ (0xE5C40004 : Word).toNat % 8 = 4 ∧
    (0xE5C40005 : Word).toNat / 65536 = 0xE5C4 ∧ (0xE5C40005 : Word).toNat % 8 = 5 ∧
    (0xE5C50004 : Word).toNat / 65536 ≠ 0xE5C4 ∧ (0xE5C40006 : Word).toNat % 8 ≠ 4 := by decide +kernel

/-- Channel 255 in a state of its own, a ring of 16 entries with one of them taken. -/
def belled (live : Bool) (st : ChanState) : State := setChan up 255 { live, st, sqLog := 4, sqProd := 1, sqCons := 1 }

theorem witness_DoorbellsMoveIndices :
    windowLive (belled true .admitted) = true ∧ ((16#16) - (getChan (belled true .admitted) 255).sqProd).toNat = 15 ∧
    sqFree (getChan (belled true .admitted) 255) = 15 ∧ ((17#16) - (getChan (belled true .admitted) 255).sqProd).toNat = 16 ∧
    (getChan (belled true .admitted) 255).live = true ∧ (getChan (belled true .admitted) 255).st ≠ .hostLost ∧
    (getChan (belled true .admitted) 255).st ≠ .ringError ∧ (getChan (belled true .ringError) 255).st = .ringError ∧
    (getChan (belled true .hostLost) 255).st = .hostLost ∧ (getChan (belled false .created) 255).live = false := by
  decide +kernel

theorem witness_RegisterWindowActs :
    windowLive up = true ∧ (getMb up 15).st ≠ .busy ∧ 0xC0 < 0x100 ∧ 0xC0 % 64 = 0 ∧ (0x26 : BitVec 24).toNat % 4 ≠ 0 ∧
    (0xC : BitVec 24).toNat < 0x10 ∧
    (∀ be ∈ [(0xF, true), (0x7, false)], decide ((BitVec.ofNat 64 be.1).toNat % 16 = 15) = be.2) ∧
    cmdBuffer (0x24 : BitVec 24).toNat = none ∧ memWf up.imem = true := by decide +kernel

/-- A layer record of 256 P64 channels from position 0 on. -/
def layer0 : Layer :=
  { cls := 1, recipe := 0, dform := 0, f32 := 0, widthM1 := 0, segM1 := 0, slot0 := 0, expeval := 0, din := 0, qlen := 1,
    nstate := 0, rfmt := 0, cfmt := 0, gfmt := 0, gsf := 0, gslot0 := 0, ckpt := 0, sgrad := 0, rsvZero := true }

/-- Channel 0, admitted for chunks of one row or for tasks, with one entry of the given bytes in its SQ, and stream
0x3807 listed at offset 2,048 of the region. -/
def ringed (steps : Nat) (entry : List (Nat × Nat × Nat)) : State :=
  let s := updChan (withChan (withStream up .idle)) 0 fun c =>
    { c with st := .admitted, sqProd := 1, stamps := [100], bin := some 0,
             adm := some ⟨10000, 20000, 0, steps, steps, 0, 5000, 0, 0⟩ }
  { setImage s 0 { getImage s 0 with layers := [layer0] } with imem := bytesAt (entry ++ [(2048, 4, 0x3807)]) }

/-- The fields of a chunk of one step over the listed stream. -/
def chunk1 : List (Nat × Nat × Nat) :=
  [(0, 1, 1), (2, 2, 1), (4, 2, 1), (16, 8, 20000), (24, 2, 0x400), (34, 2, 1), (28, 4, 2048), (44, 4, 7)]

/-- Whether a check passes with a result that meets p. -/
def passes {ε α : Type} (r : Except ε α) (p : α → Bool) : Bool :=
  match r with
  | .ok a => p a
  | .error _ => false

/-- The reads of channel 0's next entry have ended with the bytes of integrator memory, or the first n of them. -/
def entryRead (s : State) (n : Nat := 2) : State :=
  { s with jobs := [⟨.entry 0 0, [], false, 0, s.imem⟩, ⟨.entry 0 1, [], false, 0, s.imem⟩].take n }

/-- The entry that has been read. -/
def entryHere (s : State) : List Byte := loadBytes s.imem (sqPlace s 0) 64

/-- The firmware's read of the entry, and of its stream list. -/
def readsOf (s : State) : Got × Got :=
  (fwRead s (.entry 0 0) (getRegion s (regIdx (getChan s 0).sqReg)).host [(sqPlace s 0, 64)],
   fwRead s (.entry 0 1) (getRegion s (regIdx (listsOf (entryHere s)).lreg)).host [listAt s (entryHere s)])

theorem witness_RingEntriesTaken :
    (∀ e ∈ [(0, [(0, 1, 0)]), (0, [(0, 1, 2), (16, 8, 20000), (34, 2, 1)]), (0, [(0, 1, 2), (34, 2, 1)]), (0, [(0, 1, 3)]), (1, chunk1),
        (1, (26, 1, 1) :: chunk1), (0, chunk1)],
      let s := ringed e.1 e.2
      takes s 0 = true ∧ gotWait (readsOf s).1 = true ∧ takes (entryRead s) 0 = true ∧
      gotHere s.imem (readsOf (entryRead s)).1 = true ∧
      (readsOf { s with jobs := [⟨.entry 0 0, [], true, 0, []⟩] }).1 = .bad) ∧
    hdrN (entryHere (ringed 0 [(0, 1, 0)])) 0 1 = 0 ∧ 2 < hdrN (entryHere (ringed 0 [(0, 1, 3)])) 0 1 ∧
    (∀ e ∈ [([(0, 1, 2), (16, 8, 20000), (34, 2, 1)], true), ([(0, 1, 2), (34, 2, 1)], false)], let s := entryRead (ringed 0 e.1)
      hdrN (entryHere s) 0 1 = 2 ∧ (entryCheck s 0 (entryHere s) []).toOption.isSome = e.2) ∧
    (let s := entryRead (ringed 1 ((26, 1, 1) :: chunk1))
     hdrN (entryHere s) 0 1 = 1 ∧ entryFields s 0 (entryHere s) = .error 2) ∧
    (∀ e ∈ [(1, true), (0, false)], let s := entryRead (ringed e.1 chunk1)
      hdrN (entryHere s) 0 1 = 1 ∧ entryFields s 0 (entryHere s) = .ok () ∧ gotHere s.imem (readsOf s).2 = true ∧
      gotWait (readsOf (entryRead (ringed e.1 chunk1) 1)).2 = true ∧
      (readsOf { s with jobs := [⟨.entry 0 1, [], true, 0, []⟩] }).2 = .bad ∧
      (entryCheck s 0 (entryHere s) (streamList s (entryHere s) s.imem)).toOption.isSome = e.2) ∧
    twf {} (ringed 0 []).chans = true := by decide +kernel

/-- Item 0 of image 4, with one row. -/
def saver (ended : Bool) : Item :=
  { running0 with img := 0x44, e := { entry0 with rows := 1, streams := [0x3807] }, ended }

/-- That item executes with its row PINNED, on a training image or another one, with a parity error in cell (0, 0) of
its state or none. -/
def saving (training bad ended : Bool) : State :=
  let s := withImage up 256
  let s := setImage s 4 { getImage s 0 with training, layers := [layer0] }
  let s := setSlot s 2055 { st := .pinned, gen := 3 }
  updCal { s with items := [saver ended] } 0 fun k => { k with acc := if bad then [(accKey 0 0 0, 2 ^ 64)] else [] }

theorem witness_WorkItemsAdvance :
    (let s := { up with items := [item0] }
     s.items.find? (fun t => t.ch == 0 && t.seq == 0 && !t.eligible) = some item0 ∧ item0.eligAt ≤ timeNow s) ∧
    (∀ d ∈ [true, false], let s := setImage waiting 4 { gen := 1, live := true, damaged := d }
     let s := updChan s 0 fun c => { c with img := 0x44 }
     let i := { item0 with eligible := true }
     s.life.phase = .running ∧ (getCal s 0).fenced = false ∧ (getCal s 0).held = false ∧ (windowOf s 0).length < 2 ∧
     (windowOf s 0).find? (fun i => decide (i.loading ≠ 0) && !i.stopped) = none ∧
     idling s = false ∧ winner s 0 = some i ∧ (imgOf s (placeImg s i)).damaged = d ∧
     (freeCtxs s 0 (getChan s i.ch).mask).contains 0 = true ∧
     grantOk (imgOf s (placeImg s i)) ⟨0, 8, 0, 256, 0⟩ (windowOf s 0) = true) ∧
    (∀ n ∈ [1, 2], let i := { running0 with place := .staged, loading := n }
     let s := { up with items := [i] }
     s.life.phase = .running ∧ (getCal s 0).fenced = false ∧ (getCal s 0).held = false ∧
     (windowOf s 0).find? (fun i => decide (i.loading ≠ 0) && !i.stopped) = some i) ∧
    (let i := { running0 with restoring := true }
     let s := { up with items := [i] }
     execItem s 0 = some i ∧ (windowOf s 0).find? (fun i => i.restoring && decide (i.place = .exec)) = some i) ∧
    (∀ e ∈ [(true, false), (true, true), (false, false)], let i := { running0 with ctx := 1, place := .staged, restoring := true }
     let s := updCal { up with items := [running0, i] } 0 fun k =>
       { k with rest := if e.1 then [⟨1, 0, 0, 0, []⟩] else [], free := if e.2 then [] else [(pathNo .plane, up.clk + 1)] }
     execItem s 0 = some running0 ∧ (windowOf s 0).find? (fun i => i.restoring && decide (i.place = .exec)) = none ∧
     (windowOf s 0).find? (·.restoring) = some i ∧ restLeft s i = e.1 ∧ planeFree s 0 = e.2) ∧
    (∀ e ∈ [true, false], let s := saving true e false
     let i := saver false
     execItem s 0 = some i ∧ (windowOf s 0).find? (·.restoring) = none ∧ forwardDue s i = true ∧
     foundOf (noteSave s i) i = e) ∧
    (let i := { running0 with entered := false }
     let s := { up with items := [i] }
     execItem s 0 = some i ∧ i.entered = false ∧ i.loading = 0 ∧ i.restoring = false ∧ i.stopped = false ∧
     (getCal s 0).fenced = false) ∧
    (∀ e ∈ [true, false], let s := saving false e true
     let i := saver true
     execItem s 0 = some i ∧ commitDue s i = true ∧ i.fwdDone = false ∧ foundOf (noteSave s i) i = e) ∧
    (let i := { running0 with ended := true, fwdDone := true }
     let s := { up with items := [i] }
     execItem s 0 = some i ∧ commitDue s i = true ∧ i.fwdDone = true) := by
  refine ⟨?_, ?_, ?_, ?_, ?_, ?_, ?_, ?_, ?_⟩ <;> decide +kernel

/-- A chunk of one step with a reset mask, whose copy in the scratchpad names row 255 at step 0. -/
def masked : State × Item :=
  let i := { running0 with e := { entry0 with mask := true } }
  (keepBytes { up with items := [i] } i (keepBase i (maskBytes i)) (List.replicate 31 0 ++ [0x80]), i)

theorem witness_CommitUpdatesSlot :
    (∀ p < item0.e.steps, (maskWord up item0 p).getLsbD 255 = false) ∧
    (0 < masked.2.e.steps ∧ (maskWord masked.1 masked.2 0).getLsbD 255 = true ∧
      ∀ q < masked.2.e.steps, 0 < q → (maskWord masked.1 masked.2 q).getLsbD 255 = false) := by decide +kernel

/-- Channel 255 with a record that has taken n steps, its CQ in host memory or in integrator memory, and jobs of its
posts. -/
def posting (n : Nat) (host : Bool) (jobs : List Job) : State :=
  let s := setChan (withRegion up) 255 { live := true, cqReg := 0x400, cqLog := 4 }
  let s := setRegion s 0 { getRegion s 0 with host }
  { s with jobs, posts := [{ ch := 255, seq := 0, status := 0, replayed := false, irq := false, astat := 0, user := 0,
                             ctx := 0, img := 0, halt := {}, rowFault := 0, deadline := 0, stage := n }] }

/-- The only record of `posting`. -/
def posted (n : Nat) : Post :=
  { ch := 255, seq := 0, status := 0, replayed := false, irq := false, astat := 0, user := 0, ctx := 0, img := 0,
    halt := {}, rowFault := 0, deadline := 0, stage := n }

theorem witness_RecordsReachTheirRings :
    up.life.phase = .running ∧
    (∀ k ∈ [1, 2], jobErr (posting 3 false [⟨.post 255 k, [], true, 0, []⟩]) (.post 255 k) = true) ∧
    (let s := posting 3 false [⟨.post 255 2, [], false, 0, []⟩]
     jobErr s (.post 255 1) = false ∧ jobErr s (.post 255 2) = false ∧ postsFrom s 255 3 = [posted 3] ∧
     jobDone s (.post 255 2) = true ∧ twf {} s.chans = true ∧ ∀ m ∈ List.range 16, (getMb s m).wait ≠ .chDestroy 255) ∧
    (∀ n ∈ [0, 1], let s := posting n false []
     jobErr s (.post 255 1) = false ∧ jobErr s (.post 255 2) = false ∧ postsFrom s 255 3 = [] ∧
     s.posts.find? (fun o => o.ch == 255 && decide (o.stage ≤ 1)) = some (posted n) ∧ jobDone s (.post 255 0) = true ∧
     writable s (getChan s 255).cqReg (cqPlace (getChan s 255) (postsFrom s 255 2).length) 64 = true) ∧
    (let s := posting 2 false []
     dueRecord s 255 = none ∧ fenceDue s 255 = true ∧ fenceDue (posting 0 false []) 255 = false) ∧
    (timeNow (posting 1 true []) ≤ (posted 1).deadline ∧ hostCq (posting 1 true []) 255 = true ∧
     hostCq (posting 1 false []) 255 = false ∧ memWf up.imem = true) := by decide +kernel

/-! ### Witnesses: bundles and the SEQ slot -/

/-- The next slot of context 0 is this one. -/
def next1 (s : State) (k : SlotK) (w : Nat) : Prop := nextTurn s 0 = .slot s k w 0x40

theorem witness_SequencerResults :
    (∀ e ∈ [(0x00, 0x3F), (0xFFFFC001 + 960, 0xFFFFC3FF), (0xFFFFC3C2, 0xFFFFC3FF), (0xFFFFFFC3, 0xFFFFFFFF), (0x3FFC4, 0x3FFFF),
        (0x3FFC5, 0x3FFFF), (0x3FFC6, 0x3FFFF), (0x3FFC7, 0x3FFFF), (0x7FFC8, 0x7FFFF), (0x7FFC9, 0x7FFFF),
        (0x1FFDD0, 0x1FFDFF), (0xFFFFFDD1, 0xFFFFFDFF), (0x3E8, 0x3FF), (0x3C29, 0x3C3F), (0x3FFFFEA, 0x3FFFFFF),
        (0x3F, 0x3F)],
      next1 (inSlot .seq e.1) .seq e.1 ∧ Nat.land e.1 (Nat.xor e.2 0xFFFFFFFF) = 0) ∧
    itemOf (inSlot .seq 0x3F) 0 = some running0 ∧
    (let s := updCtx (inSlot .seq 0) 0 fun c => { c with bun := some ⟨0x40, 1, false, [], [], true⟩ }
     nextTurn s 0 = .empty s) := by unfold next1; decide +kernel

/-- Context 0 in a SEQ slot with a stack of n loops from 0x20 to 0x80, and C0. -/
def looped (w n c0 : Nat) : State :=
  updCtx (inSlot .seq w) 0 fun c => { c with loops := List.replicate n ⟨0x20, 0x80, 2, 0, none, false⟩, c := tput 0 0 (BitVec.ofNat 32 c0) [],
                                             cPrev := tput 0 0 (BitVec.ofNat 32 c0) [] }

theorem witness_BranchesAndLoopsRun :
    (∀ e ∈ [(0x18, 0x20, 1), (0x19, 0x80, 1), (0x1A, 0, 0), (0x18, 4092, 0)],
      let w : Nat := e.1 + 16384 * ((e.2.1 / 4 + 262144 - 16) % 262144)
      let s := looped w e.2.2 0
      next1 s .seq w ∧ itemOf s 0 = some running0 ∧ isEndBundle s 0 0x40 = false ∧ bits w 5 0 = e.1 ∧
      (e.2.1 : Int) = (0x40 : Int) + 4 * signed 18 (bits w 31 14) ∧ e.2.1 < (imgOf s running0.img).codeSize ∧
      (∀ l ∈ (getCtx s 0).loops.head?, l.start ≤ e.2.1 ∧ e.2.1 ≤ l.endOfs) ∧ Nat.land w (Nat.xor 0xFFFFC03F 0xFFFFFFFF) = 0) ∧
    (∀ e ∈ [(0, 0), (0, 1), (1, 3), (1, 2 ^ 32 - 1)], ∀ ix ∈ [0, 0x4000],
      let w : Nat := 0x20 + ix + 2 * 32768
      let s := looped w (3 * e.1) e.2
      next1 s .seq w ∧ isEndBundle s 0 0x40 = false ∧ (getCtx s 0).bun.isSome = true ∧ 0x40 + 8 ≤ 0x40 + 4 * bits w 31 15 ∧
      0x40 + 4 * bits w 31 15 < 4096 ∧ (∀ l ∈ (getCtx s 0).loops.head?, 0x40 + 4 * bits w 31 15 ≤ l.endOfs) ∧
      (ctr (getCtx s 0) (bits w 13 10)).toNat = e.2 ∧ (getCtx s 0).loops.length < 4) ∧
    (let s := looped 0x1E1 1 0
     next1 s .seq 0x1E1 ∧ Nat.land 0x1E1 (Nat.xor 0x1FF 0xFFFFFFFF) = 0 ∧ (getCtx s 0).loops = ⟨0x20, 0x80, 2, 0, none, false⟩ :: []) := by
  unfold next1; decide +kernel

theorem witness_SlotsHaltByName :
    (∀ e ∈ [(SlotK.seq, 0x0A), (.mat, 0x0C), (.vec, 0x0F), (.sfu, 6), (.mov, 4), (.syn, 0)],
      next1 (inSlot e.1 e.2) e.1 e.2 ∧ knownOp e.1 e.2 = false) ∧
    (∀ e ∈ [(0x00, 0x3F), (0x01, 0xFFFFC3FF), (0x02, 0xFFFFC3FF), (0x04, 0x3FFFF), (0x05, 0x3FFFF), (0x06, 0x3FFFF),
        (0x07, 0x3FFFF), (0x08, 0x7FFFF), (0x09, 0x7FFFF), (0x10, 0x1FFDFF), (0x11, 0xFFFFFDFF), (0x18, 0xFFFFC03F),
        (0x19, 0xFFFFC1FF), (0x1A, 0xFFFFC1FF), (0x21, 0x1FF), (0x28, 0x3FF), (0x29, 0x3C3F), (0x2A, 0x3FFFFFF),
        (0x3F, 0x3F)], let w : Nat := e.1 + Nat.xor e.2 0xFFFFFFFF
      next1 (inSlot .seq w) .seq w ∧ bits w 5 0 = e.1 ∧ Nat.land w (Nat.xor e.2 0xFFFFFFFF) ≠ 0) ∧
    (∀ op ∈ [0x18, 0x19, 0x1A],
      (∀ d ∈ [1008, 262144 - 17], let w : Nat := op + 16384 * d
        next1 (inSlot .seq w) .seq w ∧ itemOf (inSlot .seq w) 0 = some running0 ∧ bits w 5 0 = op ∧
        Nat.land w 0x3FC0 = 0 ∧ isEndBundle (inSlot .seq w) 0 0x40 = false ∧
        ((0x40 : Int) + 4 * signed 18 (bits w 31 14) < 0 ∨ (4096 : Int) ≤ (0x40 : Int) + 4 * signed 18 (bits w 31 14))) ∧
      (∀ d ∈ [17, 262144 - 9], let w : Nat := op + 16384 * d
        let s := looped w 1 0
        let t := (0x40 : Int) + 4 * signed 18 (bits w 31 14)
        next1 s .seq w ∧ isEndBundle s 0 0x40 = false ∧ 0 ≤ t ∧ t < 4096 ∧ (t < 0x20 ∨ (0x80 : Int) < t)) ∧
      (let w : Nat := op + 16384
       let s := updCtx (inSlot .seq w) 0 fun c => { c with loops := [⟨0x20, 0x40, 2, 0, none, true⟩] }
       next1 s .seq w ∧ isEndBundle s 0 0x40 = true)) ∧
    (next1 (inSlot .seq 0x21) .seq 0x21 ∧ Nat.land 0x21 0xFFFFFE00 = 0 ∧ (getCtx (inSlot .seq 0x21) 0).loops = []) ∧
    (let w := 0x20 + 2 * 32768
     let s := looped w 4 1
     next1 s .seq w ∧ itemOf s 0 = some running0 ∧ isEndBundle s 0 0x40 = false ∧ (getCtx s 0).bun.isSome = true ∧
     (ctr (getCtx s 0) (bits w 13 10)).toNat ≠ 0 ∧ 4 ≤ (getCtx s 0).loops.length ∧
     ∀ l ∈ (getCtx s 0).loops.head?, 0x40 + 4 * bits w 31 15 ≤ l.endOfs) := by unfold next1; decide +kernel

/-! ### Witnesses: MAT, VEC, SFU, MOV and SYN slots -/

/-- Bits of a tensor descriptor at address 0: space, format, byte limit, and sizes with strides. -/
def tensor (space fmt limit : Nat) (dims : List (Nat × Nat)) : Nat :=
  1 + 16 * space + 256 * fmt + 4096 * dims.length + limit * 2 ^ 408
    + (dims.zipIdx.map fun e => e.1.1 * 2 ^ (128 + 56 * e.2) + e.1.2 * 2 ^ (152 + 56 * e.2)).sum

/-- Descriptors 1 on of context 0. -/
def withDescs (s : State) (ds : List Nat) : State :=
  updCal s 0 fun k => { k with spad := ds.zipIdx.foldl (fun m e => store m (descAddr 0 (e.2 + 1)) 64 e.1) k.spad }

/-- Context 0 in a slot whose descriptors 1 on are these, with feeder halves RH0 and CH0 READY, an image that declares a
segmented P64 state, a P64 tile, a curve and a micro-program, and the table 63 of `withTable`. -/
def armed (k : SlotK) (w : Nat) (ds : List Nat := []) (fwdDone : Bool := false) : State :=
  let s := withDescs (inSlot k w) ds
  let s := updCal s 0 fun q => { q with halves := [(0, { st := .ready }), (2, { st := .ready })] }
  let s := { setImage s 0 { getImage s 0 with
    layers := [{ layer0 with widthM1 := 1 }], tiles := [⟨0, 0, 0, false, true, 0, 0, true⟩],
    curves := [⟨[0, 0x3F800000], [0, 0x3F800000]⟩], micros := [⟨[0], [0]⟩] } with
    tables := (withTable false none).tables, items := [{ running0 with fwdDone }] }
  setSem s 5 { value := 3, bind := 1, ctx := 0 }

/-- The item that `armed` runs. -/
def armedItem : Item := running0

/-- A slot of `armed` is due and its item executes. -/
def dueSlot (s : State) (k : SlotK) (w : Nat) : Prop := nextTurn s 0 = .slot s k w 0x40 ∧ itemOf s 0 = some armedItem

/-- A plane of 256 rows of 256 FP32 elements. -/
def plane32 : Nat := tensor 0 0 262144 [(256, 4), (256, 1024)]

/-- The paths of Caldera 0's array are occupied for long, or free. -/
def occupied (b : Bool) (s : State) : State :=
  updCal s 0 fun k => { k with free := if b then [(0, 100000), (1, 100000), (2, 100000)] else [] }

/-- A check passes and then waits, or not. -/
def waitsAs {α : Type} (b : Bool) (c : Except Stop α) (w : α → Option Nat) : Bool := passes c fun a => (w a).isSome == b

theorem witness_MatrixSlotsIssue :
    (∀ b ∈ [false, true],
      (let w := 1 + 31 * 2 ^ 37 + 4 * 2 ^ 50 + 4 * 2 ^ 54
       let s := occupied b (armed .mat w)
       dueSlot s .mat w ∧ waitsAs b (macCheck 0 armedItem s w 0x40) (macWait 0 s) = true) ∧
      (let s := occupied b (armed .mat 2)
       dueSlot s .mat 2 ∧ waitsAs b (zeroCheck 0 armedItem s 2) (fun a =>
         matWait s 0 .bus false (slotWait (getCal s 0) 0 true [] (formatHalves (getCal s 0) a.1 a.2.1))) = true) ∧
      (let s := occupied b (armed .mat 3)
       dueSlot s .mat 3 ∧ waitsAs b (biasCheck armedItem 3) (fun a =>
         matWait s 0 .bus (!halfReadable (getCal s 0) a.2.2.1) (slotWait (getCal s 0) 0
           true [] (formatHalves (getCal s 0) a.1 a.2.1))) = true) ∧
      (let w := 4 + 65536
       let s := occupied b (armed .mat w [plane32])
       dueSlot s .mat w ∧ waitsAs b (planeCheck 0 armedItem s w) (fun a =>
         matWait s 0 .plane false (slotWait (getCal s 0) 0 false [] (formatHalves (getCal s 0) a.2.1 a.2.2.1))) = true) ∧
      (∀ f ∈ [0, 3], let w := 5 + 32768 * f
       let s := occupied b (armed .mat w)
       dueSlot s .mat w ∧ waitsAs b (scaleCheck 0 armedItem s w) (scaleWait 0 w s) = true) ∧
      (let w := 6 + 64
       let s := occupied b (armed .mat w [plane32])
       dueSlot s .mat w ∧ waitsAs b (decayCheck 0 armedItem s w) (fun _ =>
         matWait s 0 .plane false ((getCal s 0).ops.any fun o => o.ctx == 0 && o.dec == 1)) = true) ∧
      (let w := 7 + 2048 + 255 * 8192
       let s := occupied b (armed .mat w)
       dueSlot s .mat w ∧ waitsAs b (drainCheck 0 armedItem s w) (drainWait 0 s) = true) ∧
      (let s := occupied b (armed .mat 8)
       dueSlot s .mat 8 ∧ waitsAs b (recircCheck 0 armedItem s 8) (fun a =>
         matWait s 0 .row (decide ((halfOf (getCal s 0) a.half).st = .inUse))
           (slotWait (getCal s 0) 0 false (slotsHalves a.f32 a.slots) [])) = true) ∧
      (let w := 9 + 32768
       let s := occupied b (armed .mat w)
       dueSlot s .mat w ∧ waitsAs b (segCheck 0 armedItem s true w) (fun a =>
         matWait s 0 .plane false (slotWait (getCal s 0) 0 false (slotsHalves a.f32 a.slots) [])) = true) ∧
      (let w := 10 + 32768
       let s := occupied b (armed .mat w)
       dueSlot s .mat w ∧ waitsAs b (segCheck 0 armedItem s false w) (fun a =>
         matWait s 0 .plane false (slotWait (getCal s 0) 0 false [] (formatHalves (getCal s 0) a.f32 a.slots))) = true) ∧
      (let w := 11 + 7 * 64
       let s := occupied b (armed .mat w)
       dueSlot s .mat w ∧ waitsAs b (gaccCheck 0 armedItem s w) (fun a =>
         matWait s 0 .plane false (slotWait (getCal s 0) 0 false (slotHalves a.1 a.2.1) [])) = true)) ∧
    (∀ op ∈ List.range 12, op ≠ 0 → let w := op + 2 ^ 63
      let s := armed .mat w
      let no := fun {α : Type} (c : Except Stop α) => !passes c fun _ => true
      dueSlot s .mat w ∧ bits w 5 0 = op ∧ no (macCheck 0 armedItem s w 0x40) ∧ no (zeroCheck 0 armedItem s w) ∧
      no (biasCheck armedItem w) ∧ no (planeCheck 0 armedItem s w) ∧ no (scaleCheck 0 armedItem s w) ∧
      no (decayCheck 0 armedItem s w) ∧ no (drainCheck 0 armedItem s w) ∧ no (recircCheck 0 armedItem s w) ∧
      no (segCheck 0 armedItem s true w) ∧ no (segCheck 0 armedItem s false w) ∧ no (gaccCheck 0 armedItem s w)) ∧
    (∀ u ∈ [Path.bus, .plane, .row], pathBusy up 0 u = false ∧
      pathBusy (updCal up 0 fun k => { k with free := tput 0 (pathNo u) 1 [] }) 0 u = true) := by
  unfold dueSlot; refine ⟨?_, ?_, ?_⟩ <;> decide +kernel

/-- A vector tensor of a whole register of FP32. -/
def lane32 : Nat := tensor 0 0 1024 [(256, 4)]

/-- A form, its lanes and its registers admit a VEC or SFU slot of `armed`; with every register due to a result, or the
unit occupied or held by a run, they do not. -/
def laneFits (s : State) (k : SlotK) (w : Nat) (form : Item → State → Nat → Except Stop VecOp) : Bool :=
  let u := if k = .sfu then Path.sfu else .vec
  let free := fun (t : State) (o : VecOp) => stepFree (getCal t 0).ops 0 armedItem o 0
  let held := fun (t : State) => pathBusy t 0 u || unitHeld (getCal t 0) u
  let due := fun (t : State) => decide (nextTurn t 0 = .slot t k w 0x40) && decide (itemOf t 0 = some armedItem)
  let busy := updCal s 0 fun q => { q with free := [(pathNo u, 100000)] }
  let run := updCal s 0 fun q => { q with ops := [{ arrayOp u 0 0 [] [] with rest := some ⟨0, [], 1, [], 0, none⟩ }] }
  let lanes := updCal s 0 fun q => { q with ops := [{ arrayOp .row 0 0 [] [] with lwr := List.range 16 }] }
  due s && due busy && due run && due lanes && !held s && held busy && held run &&
    passes (form armedItem s w) fun o => passes (vecLanes armedItem o) (fun _ => true) && free s o && free busy o &&
      free run o && !free lanes o

theorem witness_VectorSlotsIssue :
    ∀ e ∈ [(0x01, elemwise 2 fpAdd), (0x02, elemwise 2 fpSub), (0x03, elemwise 2 fpMul), (0x04, elemwise 3 fpFma),
        (0x05, elemwise 2 fpMin), (0x06, elemwise 2 fpMax), (0x07, elemwise 1 fpAbs), (0x08, elemwise 1 fpNeg),
        (0x09, elemwise 2 fun a b _ => maskIf (fEq (f32 a) (f32 b))),
        (0x0A, elemwise 2 fun a b _ => maskIf (fLt (f32 a) (f32 b))),
        (0x0B, elemwise 2 fun a b _ => maskIf (fLe (f32 a) (f32 b))),
        (0x0C, elemwise 3 fun a b m => (if m ≠ 0 then a else b, 0)), (0x0D, elemwise 1 fun a _ _ => (a, 0)),
        (0x0E, moviForm), (0x10, elemwise 2 fun a b _ => (a + b, 0)), (0x11, elemwise 2 fun a b _ => (a - b, 0)),
        (0x12, elemwise 2 fun a b _ => (a &&& b, 0)), (0x13, elemwise 2 fun a b _ => (a ||| b, 0)),
        (0x14, elemwise 2 fun a b _ => (a ^^^ b, 0)), (0x15, elemwise 2 fun a b _ => (a <<< (b.toNat % 32), 0)),
        (0x16, elemwise 2 fun a b _ => (a >>> (b.toNat % 32), 0)),
        (0x18 + 0x10 * 2 ^ 44, cvtIssue), (0x19 + 0x40 * 2 ^ 44, mxcvtIssue),
        (0x1A + 0xC * 2 ^ 44, pwlIssue fun c v => (rn32 (pwlEval c v).1, flagsOf [v] (pwlEval c v).2 (pwlEval c v).1)),
        (0x1B, pwlIssue fun c v => (rn32 (pwlSlope c v), slopeFlags c v)), (0x1C, gatemulIssue),
        (0x20 + 8 * 2 ^ 44, gsumIssue), (0x21, rmaxIssue), (0x22 + 12 * 64, rstatIssue),
        (0x23 + 0xF * 2 ^ 44, topkIssue 0), (0x28 + 15 * 64 + 2 ^ 44, vldIssue 0), (0x29 + 2 ^ 44, vstIssue 0)],
      laneFits (armed .vec e.1 [lane32]) .vec e.1 e.2 = true := by
  decide +kernel

/-- A register still due, and a unit still taken. -/
theorem witness_VectorSlotsWait :
    (let s := updCal (armed .vec 0x0D) 0 fun k => { k with ops := [{ arrayOp .row 0 0 [] [] with lwr := [0], step := 1 }] }
     passes (elemwise 1 (fun a _ _ => (a, 0)) armedItem s 0x0D) (fun o => passes (vecLanes armedItem o) (fun _ => true) &&
       !stepFree (getCal s 0).ops 0 armedItem o 0) = true) ∧
    (let s := updCal (armed .vec 0x0D) 0 fun k => { k with free := tput 0 (pathNo .vec) 1 [] }
     passes (elemwise 1 (fun a _ _ => (a, 0)) armedItem s 0x0D) (fun o => passes (vecLanes armedItem o) (fun _ => true) &&
       stepFree (getCal s 0).ops 0 armedItem o 0 && pathBusy s 0 .vec) = true) := by decide +kernel

theorem witness_ElementwiseLanes :
    let w := 0x01 + 15 * 64 + 14 * 2 ^ 14 + 13 * 2 ^ 22
    passes (elemwise 2 fpAdd running0 up w) (fun _ => true) = true ∧ vRun w = 1 ∧ running0.laneBase + vD w < 256 := by
  decide +kernel

theorem witness_FunctionSlotsIssue :
    (∀ n ∈ [0, 1, 2, 3, 4, 5], laneFits (armed .sfu n) .sfu n (builtinForm n) = true) ∧
    laneFits (armed .sfu 16) .sfu 16 microForm = true := by decide +kernel

/-- The item's record of a shared semaphore, 1,029, that it acquired 2 of and has 1 of left. -/
def sharing (w : Nat) : State :=
  let s := armed .syn w
  setSem { s with items := [{ armedItem with acqs := [⟨1029, 2, 1⟩] }] } 1029 { value := 0, bind := 2 }

theorem witness_MoveAndSyncSlotsIssue :
    (let w := 1 + 2 ^ 20 + 31 * 2 ^ 30
     let s := armed .mov w [tensor 0 4 8192 [(256, 1), (32, 256)]]
     dueSlot s .mov w ∧ passes (feedCheck 0 armedItem s w) (fun a =>
       decide ((halfOf (getCal s 0) a.half).st ≠ .inUse)) = true) ∧
    (let w := 2 + 512 + 2 ^ 28
     let s := armed .mov w [2 + 2 * 2 ^ 8 + 3 * 2 ^ 18, tensor 0 0 1024 [(256, 4)], tensor 1 0 1024 [(256, 4)]]
     dueSlot s .mov w ∧ isPrefetched s 0 0x40 = false ∧
     ventCheck 0 armedItem s w 0x40 = .error (hDescInvalid, 3)) ∧
    (let w := 2 + 512 + 2 ^ 28
     let s := armed .mov w [2 + 2 * 2 ^ 8 + 3 * 2 ^ 18, tensor 1 0 1024 [(256, 4)], tensor 0 0 1024 [(256, 4)]]
     dueSlot s .mov w ∧ isPrefetched s 0 0x40 = false ∧
     passes (ventCheck 0 armedItem s w 0x40) (fun a => ventWait s a == none) = true) ∧
    (let w := 3 + 64 + 2 * 65536 + 63 * 2 ^ 26 + 2 ^ 43
     let s := armed .mov w [tensor 0 10 64 [(16, 4)], tensor 0 0 1024 [(16, 4), (16, 64)]]
     dueSlot s .mov w ∧ isPrefetched s 0 0x40 = false ∧
     passes (gatherCheck 0 armedItem s w 0x40) (fun _ => gatherWait s 0 == none) = true) ∧
    (∀ w ∈ [2, 3], let s := updCtx (armed .mov w) 0 fun c => { c with pre := [⟨0x40, 0⟩] }
     dueSlot s .mov w ∧ isPrefetched s 0 0x40 = true) ∧
    (∀ n ∈ [3, 4, 255], let w := 1 + 5 * 64 + n * 32768
     let s := armed .syn w
     dueSlot s .syn w ∧ acqCheck 0 armedItem s w = .ok (5, false, n) ∧ (getSem s 5).value = 3) ∧
    (let w := 1 + 5 * 64 + 16384 + 32768
     let s := sharing w
     nextTurn s 0 = .slot s .syn w 0x40 ∧ itemOf s 0 = some { armedItem with acqs := [⟨1029, 2, 1⟩] } ∧
     acqCheck 0 { armedItem with acqs := [⟨1029, 2, 1⟩] } s w = .ok (1029, true, 1)) ∧
    (let w := 2 + 5 * 64 + 255 * 32768
     dueSlot (armed .syn w) .syn w ∧ synCheck 0 armedItem (armed .syn w) w = .ok (5, false, 255)) ∧
    (let w := 2 + 5 * 64 + 16384 + 32768
     let s := sharing w
     nextTurn s 0 = .slot s .syn w 0x40 ∧
     synCheck 0 { armedItem with acqs := [⟨1029, 2, 1⟩] } s w = .ok (1029, true, 1)) ∧
    (let w := 3 + 63 * 64
     dueSlot (armed .syn w) .syn w ∧ w < 4096 ∧ fenceBusy (armed .syn w) 0 63 = false ∧
     fenceBusy (updCal (armed .syn w) 0 fun k => { k with feeds := [⟨0, 0⟩] }) 0 63 = true) := by
  unfold dueSlot; refine ⟨?_, ?_, ?_, ?_, ?_, ?_, ?_, ?_, ?_, ?_⟩ <;> decide +kernel


/-! ### Witnesses: bundles -/

/-- Context 0 due at offset 0 of an image of 256 bytes whose first line is cached: these words, then zeros. -/
def coded (ws : List Nat) : State :=
  let s := withImage (withCtx up 0) 256
  let bs := ws.flatMap fun w => leBytes 4 w
  { updCal s 0 fun k => { k with icache := [⟨0x100, 0, bs ++ List.replicate (256 - bs.length) 0⟩] } with
    items := [running0] }

/-- What nextTurn answers is a slot of this kind and word at this offset. -/
def slotDue (s : State) (k : SlotK) (w ofs : Nat) : Bool :=
  match nextTurn s 0 with
  | .slot _ k' w' o => decide (k' = k ∧ w' = w ∧ o = ofs)
  | _ => false

/-- Lanes of every Caldera are in canonical form when those of every entry are. -/
theorem lanes_of_entries (l : Tab Cal) (h : (l.all fun e => twf 0 e.2.lanes) = true) (c : Nat) :
    twf 0 (tget {} c l).lanes = true := by
  induction l with
  | nil => rfl
  | cons e r ih =>
    simp only [List.all_cons, Bool.and_eq_true] at h
    unfold tget
    split
    · exact h.1
    · exact ih h.2

theorem witness_BundleEntryFrame :
    (TablesSound (coded [0x201, 0x3F]) ∧ slotDue (coded [0x201, 0x3F]) .seq 0x3F 0 = true ∧
      (getCtx (coded [0x201, 0x3F]) 0).bun = none) ∧
    (let s := inSlot .seq 0x3F
     nextTurn s 0 = .slot s .seq 0x3F 0x40 ∧ ((getCtx s 0).bun.isSome = true) ∧ twf {} s.ctxs = true) :=
  ⟨⟨⟨by decide +kernel, by decide +kernel, by decide +kernel, by decide +kernel, by decide +kernel, by decide +kernel,
    by decide +kernel, lanes_of_entries _ (by decide +kernel)⟩, by decide +kernel⟩, by decide +kernel⟩

theorem witness_SequencerSlotFrame :
    (∀ e ∈ [(0x01, 0xFFFFC3FF), (0x02, 0xFFFFC3FF), (0x03, 0xFFFFFFFF), (0x04, 0x3FFFF), (0x05, 0x3FFFF), (0x06, 0x3FFFF),
        (0x07, 0x3FFFF), (0x08, 0x7FFFF), (0x09, 0x7FFFF), (0x10, 0x1FFDFF), (0x11, 0xFFFFFDFF), (0x28, 0x3FF)],
      let s := inSlot .seq e.1 true
      next1 s .seq e.1 ∧ bits e.1 5 0 = e.1 ∧ Nat.land e.1 (Nat.xor e.2 0xFFFFFFFF) = 0 ∧ twf {} s.ctxs = true ∧
      (getCtx s 0).bun.map (·.rest) = some [.seq, .seq] ∧ (getCtx s 0).halted = false) ∧
    Undisturbed (inSlot .seq 1 true) 0 := by
  unfold next1
  exact ⟨by decide +kernel, fun i h _ => by
    rw [show (inSlot .seq 1 true).items = [running0] from rfl] at h
    rw [List.mem_singleton.mp h]; decide⟩

theorem witness_BundleEndAdvances :
    (let s := inSlot .seq 0
     Undisturbed s 0 ∧ itemOf s 0 = some running0 ∧ (getCtx s 0).bun.map (fun b => (b.rest, b.yield)) = some ([.seq], false) ∧
     (getCtx s 0).halted = false ∧ twf {} s.ctxs = true ∧ (getCtx s 0).loops.all (fun l => l.endOfs != 0x40) = true) := by
  refine ⟨fun i h _ => ?_, by decide +kernel, by decide +kernel, by decide +kernel, by decide +kernel, by decide +kernel⟩
  rw [show (inSlot .seq 0).items = [running0] from rfl] at h
  rw [List.mem_singleton.mp h]; decide

/-! ### Witnesses: events -/

/-- A run of context 0 into P64 slot 0 over 64 indices with one of its promotions made. -/
def run0 : Run :=
  { ctx := 0, ofs := 0, slot := 0, f32 := false, rh := 0, ch := 0, rofs := 0, cofs := 0, k := 64, rfmt := 4, cfmt := 4,
    rsc := none, csc := none, promoted := 1, compared := 0, no := 0 }

/-- A group of run0 handed to the compares, whose first chunk registers hold these numbers and the others 0. -/
def handed0 (cs : List (BitVec 88)) : Handed :=
  { ctx := 0, ofs := 0, slot := 0, f32 := false, index := 0, wide := false, chunks := cs.map fun c => { c }, rowG := [],
    colG := [] }

/-- MOV of register 0 into register 1, one register of its run of two processed. -/
def moved0 : Op := { arrayOp .vec 0 0x40 [] [] with step := 1, lwr := [1], rest := some ⟨0x0D + 64 + 2 ^ 38, [], 1, [], 0x100, none⟩ }

theorem witness_ArrayEventsAct :
    (∀ c ∈ [0, 3], let s0 := updCal (updCal up c fun k => { k with runs := [run0] }) c fun k =>
        { k with acc := upsetSlots k.acc [.slot 7 255 255 1] }
      openRun (getCal s0 c) = some run0 ∧ runWaits (getCal s0 c) run0 = false) ∧
    openRun (getCal (updCal up 3 fun k => { k with acc := upsetSlots k.acc [.slot 7 255 255 1] }) 3) = none ∧
    (∀ u ∈ [Path.bus, .plane, .row, .vec, .sfu], let o := arrayOp u 0 0 [] [0, 1]
      let k := getCal (updCal up 0 fun k => { k with ops := [o] }) 0
      firstOp k u = some o ∧ o.rest = none ∧ busWaits k o = false) ∧
    (let s := updCal (armed .vec 0x0D) 0 fun k => { k with ops := [moved0] }
     let k := getCal s 0
     firstOp k .vec = some moved0 ∧ moved0.rest = some ⟨0x0D + 64 + 2 ^ 38, [], 1, [], 0x100, none⟩ ∧
     ((restForm s moved0 ⟨0x0D + 64 + 2 ^ 38, [], 1, [], 0x100, none⟩).any fun q =>
       stepFree (k.ops.takeWhile fun p => decide (p ≠ moved0)) 0 q.1 q.2 1) = true) ∧
    (let o := { arrayOp .row 0 0 [0, 1] [] with half := some 1 }
     let k := getCal (updCal up 0 fun k => { k with ops := [o] }) 0
     firstOp k .row = some o ∧ o.half = some 1) ∧
    (∀ row ∈ [true, false], (getCal (updCal up 0 fun k => { k with feeds := [⟨0, 3⟩, ⟨0, 1⟩, ⟨0, 2⟩] }) 0).feeds.find?
      (fun f => decide (f.half < 2) == row) = some ⟨0, if row then 1 else 3⟩) := by decide +kernel

theorem rows_filtered (p : Nat → Bool) (n r : Nat) (hr : r < n) (hp : p r = true) : (List.range n).filter p ≠ [] :=
  List.ne_nil_of_mem (List.mem_filter.mpr ⟨List.mem_range.mpr hr, hp⟩)

/-- A sound group, and two unsound ones: one cell of row 0 off, and the check column's register of row 0 off, which the
compare of that row and the corner's see. -/
theorem witness_GroupsCompared :
    (missedRows (strike (handed0 []) [] []) = [] ∧ missedCols (strike (handed0 []) [] []) = []) ∧
    (missedRows (strike (handed0 [0, 0, 5]) [] []) ≠ [] ∧ missedCols (strike (handed0 [0, 0, 5]) [] []) ≠ []) ∧
    (missedRows (strike (handed0 (List.replicate 257 0)) [(0, 9)] []) ≠ [] ∧
      256 ∈ missedCols (strike (handed0 (List.replicate 257 0)) [(0, 9)] [])) := by
  refine ⟨⟨?_, ?_⟩, ⟨rows_filtered _ _ 0 (by decide) (by decide +kernel), rows_filtered _ _ 2 (by decide) (by decide +kernel)⟩,
    rows_filtered _ _ 0 (by decide) (by decide +kernel),
    List.mem_filter.mpr ⟨List.mem_range.mpr (by decide), by decide +kernel⟩⟩
  all_goals
    refine List.filter_eq_nil_iff.mpr fun r _ => ?_
    simp only [strike, handed0, List.foldl_nil, List.map_nil, handedChunk, List.getD_nil]
    decide +kernel

/-- A tensor of 16 words of the scratchpad. -/
def desc0 : Desc := decDesc {} (tensor 0 0 64 [(16, 4)])

/-- A started transfer of context 0, of that tensor onto itself. -/
def xfer0 : Xfer :=
  { id := 0, ctx := 0, ch := 0, seq := 0, ofs := 0, pre := false, add := false, flush := false, src := desc0, dst := desc0,
    scal := 0, dcal := 0, sidx := [], didx := [], sem := none, dsth := 1, started := true, wrote := true, adds := 0, flags := 0, err := false,
    mute := false, rx := [], acks := 0 }

theorem witness_MovementEventsAct :
    (∀ e ∈ [Eng.ve 3 3, .vs 3], let s := setEng up (engKey e) [xfer0]
     engList s (engKey e) = xfer0 :: [] ∧ xferReady s xfer0 = true) ∧
    (∀ e ∈ [Eng.ve 0 0, .vs 0], let t := { xfer0 with add := true, adds := 15 }
     let s := setEng up (engKey e) [t]
     engList s (engKey e) = t :: [] ∧ t.dst.space ≠ 4 ∧ jobDone s (.xfer t.id) = true ∧ jobErr s (.xfer t.id) = false ∧
     t.adds < (xferElems t).length) ∧
    (missRows up { id := 0, ctx := 0, ch := 0, seq := 0, ofs := 0, pre := false, table := 0, gen := 0, idx := [], dst := desc0,
                   sem := none, err := false, mute := false, rx := [], acks := 0, read := [] } = [] ∧
     (let l : Lookup := { id := 0, ctx := 0, ch := 0, seq := 0, ofs := 0, pre := false, table := 0, gen := 0, idx := [0],
                          dst := desc0, sem := none, err := false, mute := false, rx := [], acks := 0, read := [] }
      let s := updCal (setTable up 0 { live := true, rowBytes := 64, rows := 1, gen := 0, loc := ⟨none, 0x400, 0⟩ }) 0
        fun k => { k with lookups := [l] }
      (getCal s 0).lookups[0]? = some l ∧ lookReady s l = true ∧ lookLoses s 0 0 l = false ∧ missRows s l ≠ [] ∧
      jobErr s (.look l.id) = false)) ∧
    (engList up 0 = [] ∧ ∀ e ∈ [0, 1],
      let l : Lookup := { id := e, ctx := 0, ch := 0, seq := 0, ofs := 0, pre := false, table := 0, gen := 0, idx := [],
                          dst := desc0, sem := none, err := false, mute := false, rx := [], acks := e, read := [] }
      let s := updCal up 0 fun k => { k with lookups := [{ l with acks := 0 }, l] }
      lookReady s l = !(e == 1) ∧ (e = 0 → lookLoses s 0 1 l = true)) ∧
    (let l : Lookup := { id := 0, ctx := 0, ch := 0, seq := 0, ofs := 0, pre := false, table := 0, gen := 0, idx := [],
                         dst := desc0, sem := none, err := false, mute := false, rx := [], acks := 0, read := [] }
     let s := updCal up 0 fun k => { k with lookups := List.replicate 16 l }
     (getCal s 0).lookups[15]? = some l ∧ lookReady s l = true ∧ lookLoses { s with tephraPtr := 15 } 0 15 l = false) ∧
    (let s := coded [0x201, 0, 0x310, 2, 0]
     let c := getCtx s 0
     winItemOf s 0 = some running0 ∧ running0.stopped = false ∧ running0.ended = false ∧ running0.attempt ≠ 0 ∧ c.halted = false ∧ c.pre.length < 4 ∧
     walkStart c = some (⟨0, [], []⟩, 0) ∧ (walkTo s 0 0x100 256 1 ⟨0, [], []⟩).isSome ∧
     (c.pre.any fun e => e.ofs == 8 && e.seqNo == 1) = false) ∧
    (let s := updCal up 3 fun k => { k with fetches := [⟨0x100, 65535, 0⟩] }
     (getCal s 3).fetches.find? (fun f => f.img == 0x100 && f.line == 65535) = some ⟨0x100, 65535, 0⟩) := by
  decide +kernel

theorem witness_FaultEventsAct :
    (let s := { inSlot .seq 0 with tb := { t12 := 12 * wdogLimit (inSlot .seq 0) running0 } }
     itemOf s 0 = some running0 ∧ mayIssue s 0 running0 = true ∧ (getCtx s 0).beat + wdogLimit s running0 = timeNow s) ∧
    (let s := updCal (updCtx up 63 fun c => { c with halted := true }) 3 fun k => { k with feeds := [⟨63, 0⟩] }
     (getCtx s 63).halted = true ∧ quiescent s 63 = false) ∧
    awake up = true ∧
    (let i := { running0 with stopped := true }
     let s := { up with items := [i] }
     (windowOf s 0).find? (fun i => i.stopped && !i.fail) = some i ∧ quiescent s i.ctx = true ∧ (getCal s 0).fenced = false) ∧
    (∀ l ∈ [[], [running0]], let s := { updCal up 0 fun k => { k with fenceDue := true } with
        items := l.map fun i => { i with stopped := true } }
     (getCal s 0).fenceDue = true ∧ ∀ i ∈ (execItem s 0).toList, i.stopped = true ∧ quiescent s i.ctx = true) ∧
    up.cp.fwState = .running ∧
    (let s := { up with flt := { up.flt with blockEnd := some 1 }, clk := 1000 * msClk }
     s.flt.blockEnd = some 1 ∧ s.clk < 1 + 1000 * msClk) ∧
    (let s := { up with flt := { up.flt with blockEnd := some 0 }, clk := 1000 * msClk }
     s.flt.blockEnd = some 0 ∧ 0 + 1000 * msClk ≤ s.clk) := by decide +kernel

theorem witness_LadderStepsReset :
    (∀ e ∈ [(1, 63), (2, 3), (3, 3), (4, 0), (5, 0)], let q : LStep := ⟨e.1, e.2, 1, [15], false⟩
     running { up with ladder := [q] } e.1 e.2 = some q ∧ q.wiped = false) ∧ up.pwrcyc = false ∧
    ∀ e ∈ [true, false], ∀ d ∈ [true, false],
      let s := { withRegion up with dump := { held := true, set := e, reg := 0x400, ofs := 0 } }
      let t := { s with jobs := [⟨.dump, if d then [] else [[]], e, 0, []⟩] }
      s.life.phase = .running ∧ s.dump.held = true ∧ jobOf s .dump = none ∧ dumpPlace s = e ∧ t.life.phase = .running ∧
      t.dump.held = true ∧ (jobOf t .dump).isSome = true ∧ jobDone t .dump = d ∧ jobErr t .dump = e := by decide +kernel

theorem witness_EngineResetEmptiesCaldera : TablesSound State.reset ∧ 3 < 4 := by
  exact ⟨⟨by decide, rfl, rfl, rfl, rfl, rfl, rfl, fun _ => rfl⟩, by decide⟩

/-- The block at TIME 10,000 in a state of the time base. -/
def timed (st : TbState) : State := { up with tb := { up.tb with st, t12 := 120000 } }

theorem witness_TimeSamplesSetTime :
    sampling (timed .unset) = true ∧ (timed .unset).straps.stepEn = false ∧ (timed .unset).tb.st = .unset ∧
    (timed .locked).tb.st ≠ .unset ∧ timeNow (timed .locked) ≤ ((9998 : BitVec 64) + 2).toNat ∧
    ((8998 : BitVec 64) + 2).toNat < timeNow (timed .locked) ∧
    timeNow (timed .locked) - ((8998 : BitVec 64) + 2).toNat ≤ sampleTol (timed .locked).tb ∧
    sampleTol (timed .locked).tb < timeNow (timed .locked) - ((8997 : BitVec 64) + 2).toNat ∧
    sampleTol (timed .holdover).tb < timeNow (timed .holdover) - ((8997 : BitVec 64) + 2).toNat ∧
    (∀ n ∈ [1199999, 1200000], let b := { (timed .locked).tb with t12 := n }
      b.st = .locked ∧ b.mark12 = 0 ∧ (1200000 ≤ b.t12 ∨ b.t12 < 1200000)) := by decide +kernel

/-- The block with other life-cycle and power fields. -/
def withLife (f : Life → Life) : State := { up with life := f up.life }

theorem witness_PowerAndLifeCycleEventsAct :
    State.reset.life.phase = .held ∧ up.life.phase ≠ .held ∧ State.reset.life.lcValid = false ∧
    (withLife fun l => { l with phase := .boot }).life.phase = .boot ∧
    (withLife fun l => { l with wipe := some none }).life.wipe = some none ∧ up.life.wipeOff = false ∧
    (withLife fun l => { l with wipeOff := true }).life.wipeOff = true ∧
    (let s := withLife fun l => { l with pstate := .retain, pwrSafe := true }
     s.life.pstate = .retain ∧ s.life.pwrSafe = true ∧ running s 4 0 = none) ∧ up.life.pstate ≠ .retain ∧
    running { up with ladder := [⟨4, 0, 1, [], false⟩] } 4 0 ≠ none ∧
    booted State.reset = false ∧ booted up = true ∧ (4 : BitVec 3) ≠ up.life.lc ∧ up.life.lcAcked = false ∧
    (let s := withLife fun l => { l with lcAcked := true, lcReq := 4, lcReqValid := true }
     s.life.lcAcked = true ∧ s.life.lcReq = 4 ∧ s.life.lcReqValid = true) := by decide +kernel

theorem witness_DebugInstructionsAct :
    up.life.level = .closed ∧ 1 ≤ levelNo (atLevel 3 .observe).life.level ∧ opened.life.level = .opened ∧
    (∀ e ∈ [(0, 3), (1, 3), (2, 3), (3, 3), (4, 3), (5, 0), (6, 4), (7, 0), (8, 0)],
      (decide (0 < storeWords e.1 e.2) || decide (e.1 = 7 ∨ e.1 = 8)) = true) ∧
    storeWord opened 2 3 (storeWords 2 3 - 1) = 0 ∧ storeWord opened 5 0 (storeWords 5 0 - 1) = 0 ∧
    storeWords 9 0 ≤ 0 ∧ (atLevel 1 .opened).life.lc = 1 ∧
    ({ atLevel 1 .opened with life := { (atLevel 1 .opened).life with scan := true } } : State).life.scan = true := by
  decide +kernel

/-- An outstanding request. -/
def req0 (host : Bool) (kind : ReqKind) : Req := ⟨host, if host then 0 else 15, 255, ⟨kind, host, 65536, 64, []⟩, .gone, 0, 0, false⟩

theorem witness_PortEventsAct :
    (∀ k ∈ [ReqKind.read, .write, .fence], memReq { up with reqs := [req0 false k] } 15 255 = some (req0 false k) ∧
      (req0 false k).b.kind = k ∧ hostReq { up with reqs := [req0 true k] } 255 = some (req0 true k)) ∧
    (∀ w ∈ [0, 1], ∀ g ∈ [true, false], let r := { req0 false .write with wd := w, retired := g }
      memReq { up with reqs := [r] } 15 255 = some r ∧ r.wd = w ∧ r.retired = g) ∧
    (let r := { req0 true .read with retired := false }
     hostReq { up with reqs := [r] } 255 = some r ∧ r.retired = false) ∧
    awake up = true ∧ up.host.up = false ∧ up.host.retrain = false ∧
    (∀ e ∈ [true, false], let s := { up with host := { up := true, retrain := true, expired := e } }
      awake s = true ∧ s.host.up = true ∧ s.host.retrain = true ∧ s.host.expired = e) := by decide +kernel

/-- A frame of peer 63. -/
def frame0 (type cls : BitVec 8) (seq : BitVec 32 := 0) : Frame :=
  { dst := macOf 0 0 0, smac := macOf 0 63 0, etype := 0x88B5, tagged := false, ver := 1, type, cls, src := 63,
    ssess := 1, dsess := 0, seq, ackReq := 0, ackRsp := 0, crdReq := 17, crdRsp := 17, len := 0, xid := 0, status := 0,
    flags := 0, rsv1 := 0, addr := 0, aux := 0, rsv2 := 0, payload := [], fcsOk := true }

/-- Both ports of the light link are UP. -/
def lit : State := { up with light := { up.light with up := 3 } }

theorem witness_PlumeFramesAct :
    (∀ e ∈ [(0x01, 0), (0x02, 0), (0x03, 0), (0x04, 0), (0x05, 0), (0x06, 0), (0x81, 1), (0x82, 1), (0x83, 1), (0x84, 1),
        (0x85, 1), (0xC1, 2), (0xC2, 2), (0xC3, 2), (0xC4, 2)], ∀ p ∈ [0, 1],
      let t := BitVec.ofNat 8 e.1
      let c := BitVec.ofNat 8 e.2
      frameFits lit p { frame0 t c with dst := macOf 0 0 p.val } t c = true) ∧
    (let f := frame0 0x85 1
     dsessOk (meet lit f) f = true ∧ f.seq = (getPeer (meet lit f) 63).req.rx ∧ f.seq = (getPeer (meet lit f) 63).rsp.rx) := by
  decide +kernel

theorem witness_PlumeOrderKept :
    let u := fun (n : Nat) (nak : Bool) => setPeer lit 63 { sess := 1, req := { rx := BitVec.ofNat 32 n, nak } }
    let f := fun (n : Nat) => frame0 0x01 0 (BitVec.ofNat 32 n)
    frameFits up 0 (f 0) 0x01 0 = false ∧ frameFits lit 0 (f 0) 0x01 0 = true ∧
    dsessOk lit { f 0 with dsess := 9 } = false ∧
    (∀ b ∈ [true, false], let s := meet (u 4294967295 b) (f 2147483646)
     dsessOk s (f 2147483646) = true ∧ (getPeer s 63).req.nak = b ∧ before (getPeer s 63).req.rx (f 2147483646).seq = true) ∧
    (let s := meet (u 0 false) (f 2147483648)
     dsessOk s (f 2147483648) = true ∧ (f 2147483648).seq ≠ (getPeer s 63).req.rx ∧
     before (getPeer s 63).req.rx (f 2147483648).seq = false) := by decide +kernel

/-- Peer 63 leaves a frame unacknowledged after n retry timeouts. -/
def silent (n : Nat) (lost : Bool) : State :=
  setPeer lit 63 { sess := 1, lost, req := { queue := [⟨frame0 0x01 0, true, 0, 0⟩], timeouts := n } }

theorem witness_LightTimersAct :
    (∀ n ∈ [0, 3, 4], ∀ l ∈ [true, false], let s := silent n l
      frameWaits s 63 = true ∧ unacked (getPeer s 63).req = true ∧ (getPeer s 63).req.timeouts = n ∧
      unacked (getPeer s 63).rsp = false ∧ (getPeer s 63).alt = false ∧ (getPeer s 63).lost = l ∧ portIsUp s (portOf s 63) = true ∧
      portIsUp s (1 - primaryPort s 63) = true) ∧
    (let s := setPeer (silent 3 false) 63 { getPeer (silent 3 false) 63 with alt := true }
     frameWaits s 63 = true ∧ (getPeer s 63).alt = true) ∧
    (let s := { silent 3 false with light := { (silent 3 false).light with up := 2 } }
     frameWaits s 63 = true ∧ portIsUp s (1 - primaryPort s 63) = false ∧ portIsUp s (portOf s 63) = true) ∧
    (let s := { silent 3 false with light := { (silent 3 false).light with up := 0 } }
     frameWaits s 63 = true ∧ portIsUp s (1 - primaryPort s 63) = false ∧ portIsUp s (portOf s 63) = false) ∧
    portIsUp lit 0 = true ∧ portIsUp lit 1 = true ∧ awake up = true ∧ portIsUp up 0 = false ∧ portIsUp up 1 = false := by
  decide +kernel

theorem witness_NewStreamHandleValid : TablesSound State.reset ∧ memWf State.reset.sinter = true ∧ 4095 < 4096 ∧
    slotOf 0xFFF = 4095 ∧ (0xFFF : Word).toNat / 4096 = (getSlot State.reset 4095).gen.toNat := by
  exact ⟨⟨by decide, rfl, rfl, rfl, rfl, rfl, rfl, fun _ => rfl⟩, by decide +kernel⟩

/-! ### Well-formedness: for each check a command that it refuses -/

theorem test_ill_formed_grants :
    (∀ c : Fin 4, (Instr.dispatchPlace c ⟨16, 0, 0, 0, 0⟩).wf = decide (c = 1)) ∧
    (Instr.dispatchPlace 0 ⟨0, 9, 0, 0, 0⟩).wf = false ∧ (Instr.dispatchPlace 0 ⟨0, 0, 0, 257, 0⟩).wf = false ∧
    (Instr.dispatchPlace 0 ⟨0, 0, 0, 0, 25165825⟩).wf = false ∧ (Instr.dispatchPlace 0 ⟨0, 8, 0, 256, 25165824⟩).wf = true := by
  decide +kernel

theorem test_ill_formed_lists :
    (Instr.chunkCommit 0 [5, 5]).wf = false ∧ (Instr.checkCompare 0 [(1, 1), (1, 2)] []).wf = false ∧
    (Instr.checkCompare 0 [] [(2, 1), (2, 1)]).wf = false ∧
    (Instr.checkCompare 0 [(1, 1)] [(2, 1), (256, 1)]).wf = true := by decide

theorem test_ill_formed_ranges :
    (Instr.registerWrite 0x20 3 ⟨0, 0⟩ true).wf = false ∧ (Instr.registerWrite 0x22 4 ⟨0, 0⟩ true).wf = false ∧
    (Instr.lineFill 0 0 65536 true).wf = false ∧ (Instr.obsreg (2 ^ 32)).wf = false ∧ (Instr.memrd 9 0 0).wf = false ∧
    (Instr.memrd 0 5 0).wf = false ∧ (Instr.memwr 9 0 0 0).wf = false ∧ (Instr.memwr 0 5 0 0).wf = false ∧
    (Instr.escLate 64).wf = false ∧ Instr.dstat.wf = true := by decide

theorem test_ill_formed_faults :
    (Instr.faultDetected ⟨0x11, some 1, some 0, 0, false, false, false⟩).wf = false ∧
    (Instr.scrub ⟨0x12, some 0, some 16, 0, false, false, false⟩).wf = false ∧
    (Instr.scrub ⟨1, some 1, some 16, 0, false, false, false⟩).wf = true := by decide

/-- A frame whose payload is one byte too long. -/
def longFrame : Frame := { frame0 1 0 with payload := List.replicate 4097 0 }

theorem test_ill_formed_frames :
    ∀ i ∈ [Instr.plumeWrite 0 longFrame, .plumeRead 0 longFrame, .plumeAdd 0 longFrame, .doorbell 0 longFrame,
        .state 0 longFrame, .cancel 0 longFrame, .wack 0 longFrame, .rdata 0 longFrame, .aack 0 longFrame,
        .dack 0 longFrame, .sresult 0 longFrame, .link 0 longFrame, .nak 0 longFrame, .probe 0 longFrame,
        .probeReply 0 longFrame], i.wf = false := by
  have h : longFrame.wf = false := by
    unfold Frame.wf longFrame
    rw [decide_eq_false_iff_not, List.length_replicate]
    decide
  intro i hi
  simp only [List.mem_cons, List.not_mem_nil, or_false] at hi
  rcases hi with rfl | rfl | rfl | rfl | rfl | rfl | rfl | rfl | rfl | rfl | rfl | rfl | rfl | rfl | rfl <;> exact h

/-! ### Values worked out in the spec -/

/-- What holds of the next state a command answers. -/
def afterStep (o : Out) (p : State → Bool) : Bool :=
  match o with
  | .next t => p t
  | _ => false

/-- 03, "one E4M3 group promoted into P64 and F32": the group's value 100,352 + 2^−13 with its scales, and both slots.
-/
theorem test_promotion_example :
    let d := tensor 0 12 512 [(512, 1)]
    let k : Cal := { halves := [(0, { st := .ready, data := [(5, 0x7E), (261, 0x08)] }),
                                (2, { st := .ready, data := [(9, 0x7E), (265, 0x08)] })],
                     spad := [(5, 0x7F), (265, 0x7E)] }
    let r : Run := { run0 with k := 32, rsc := some (decDesc {} d, []), csc := some (decDesc {} (d + 256 * 2 ^ 64), []) }
    let k1 := { k with chunk := [(256 * 5 + 9, (chunkAt k r 0 [] 5 9).c.setWidth 72)] }
    let v := groupVal k1 r 0 [] 5 9
    encPair (promote64 (fZero, fZero) v.1).1 = 0x3900000047C40000 ∧ rn32 (promote32 fZero v.1).1 = 0x47C40000 ∧ v.2 = 0 := by
  decide +kernel

/-- 03, "many small promotions": after promotion 65 the head is 1 + 2^−23 and the tail −63 × 2^−30. -/
theorem test_small_promotions_example :
    let v : Fv := .fin false 1 (-30)
    let s := (List.range 65).foldl (fun s _ => (promote64 s v).1) (fOfInt 1 0, fZero)
    encPair s = 0x3F800001 + 2 ^ 32 * (rn32 (.fin true 63 (-30))).toNat ∧
    rn32 (promote32 (fOfInt 1 0) v).1 = 0x3F800000 := by decide +kernel

/-- 03 Table 03.5: FP32 0.3, 0.8, 2.5, 5.0, 6.5, 7.0, −∞ and NaN into E2M1. -/
theorem test_e2m1_conversions :
    [0x3E99999A, 0x3F4CCCCD, 0x40200000, 0x40A00000, 0x40D00000, 0x40E00000, 0xFF800000, 0x7FC00000].map
      (fun w => convFmt 5 .rne false (f32 (BitVec.ofNat 32 w))) =
    [(0, 4), (2, 0), (4, 0), (6, 0), (7, 0), (7, 16), (15, 16), (0, 16)] := by decide +kernel

/-- 06, "a gate and its seam", to the seven digits printed: sigmoid(1.5), tanh(0.2) and their product. -/
theorem test_gate_example :
    let a := (pwlEval curveSigmoid (.fin false 3 (-1))).1
    let b := (pwlEval curveTanh (f32 0x3E4CCCCD)).1
    let near := fun (v : Fv) (n : Int) =>
      fLt (.fin false (2 * n - 2).toNat 0) (fMul v (fOfInt 20000000 0)) && fLt (fMul v (fOfInt 20000000 0)) (.fin false (2 * n + 2).toNat 0)
    near a 8059279 = true ∧ near b 1848469 = true ∧ near (rnv (fMul a b)) 1489733 = true ∧
    fLe (pwlEval curveSigmoid (f32 0x3FFFFFFF)).1 (pwlEval curveSigmoid (f32 0x40000000)).1 = true := by decide +kernel

/-- 06, "top-4 over two registers", with the lanes below 3.0 left out: the merge drops item 9. -/
theorem test_topk_example :
    let h := fOfInt 15 (-1)
    let t := topList 4 [(.nan, 3), (fOfInt 3 0, 5), (fOfInt 3 0, 9), (h, 17), (h, 200)]
    (t.map (·.2)) = [17, 200, 5, 9] ∧ ((topList 4 ([(h, 258)] ++ t)).map (·.2)) = [17, 200, 258, 5] := by decide +kernel

/-- The fragment of 07 Table 07.5 on context 0, with C0. -/
def fragment (c0 : Nat) : State :=
  updCtx (coded [0x201, 0x14120, 0x403, 0x4003, 0x128004, 0, 0x201, 0x3F]) 0 fun c => { c with c := tput 0 0 (BitVec.ofNat 32 c0) [] }

/-- 07 Table 07.6: the loop of three iterations, its first one with C4 = 0. -/
theorem test_loop_enters :
    afterStep (exec (.loop 0) (fragment 3)) (fun t => let c := getCtx t 0
      decide (c.pc = 8) && decide (c.loops = [⟨8, 8, 3, 0, some 4, false⟩]) && !c.stepOver) = true := by decide +kernel

/-- 07, the same example with C0 = 0: the context goes to 0x18 and pushes nothing. -/
theorem test_loop_of_none :
    afterStep (exec (.loop 0) (fragment 0)) (fun t =>
      decide ((getCtx t 0).loops = []) && slotDue t .seq 0x3F 0x18) = true := by decide +kernel

/-- 07, the same example: the PRELOAD of the second bundle takes handle 0x12, and with C4 = 30 it is out of bounds. -/
theorem test_preload_bounds :
    let d := 1 + 2 ^ 12 * 2 + 0x100000 * 2 ^ 64 + 256 * 2 ^ 128 + 4 * 2 ^ 152 + 256 * 2 ^ 184 + 1024 * 2 ^ 208 +
      0x780000 * 2 ^ 408 + 4 * 2 ^ 448 + 2 ^ 452 + 0x40000 * 2 ^ 453
    let s := fun (n : Nat) => updCtx (updCal (inSlot .mat 0x128004) 0 fun k => { k with spad := store [] (descAddr 0 0x12) 64 d }) 0
      fun c => { c with cPrev := tput 0 4 (BitVec.ofNat 32 n) [] }
    let stopOf := fun (n : Nat) => match planeCheck 0 running0 (s n) 0x128004 with
      | .ok a => if a.1 then some (a.2.2.2.1.eff, 0) else none
      | .error e => some (0, e.1)
    stopOf 2 = some (0x180000, 0) ∧ stopOf 29 = some (0x840000, 0) ∧ stopOf 30 = some (0, hBounds) := by decide +kernel

/-- 08 Table 08.8: 2^24, then 1, 1 and −2^24, in FP32 and in P64. -/
theorem test_atomic_adds :
    let one := leBytes 4 0x3F800000
    let big := leBytes 4 0xCB800000
    let m := store [] 0 4 0x4B800000
    let f := fun (fmt : Nat) (m : Mem) (v : List Byte) => (atomicAt fmt m 0 (if fmt = 0 then v else v ++ leBytes 4 0)).1
    load (f 0 (f 0 (f 0 m one) one) big) 0 4 = 0 ∧ load (f 0 (f 0 (f 0 m big) one) one) 0 4 = 0x40000000 ∧
    load (f 11 m one) 0 8 = 0x3F8000004B800000 ∧ load (f 11 (f 11 (f 11 m one) one) big) 0 8 = 0x40000000 := by decide +kernel

/-- 10 Table 10.7: the cost record of F. -/
def costF : Cost := ⟨3341, 0, 21012, 30, 12288, 0, 2400, true⟩
/-- 10 Table 10.7: the cost record of T. -/
def costT : Cost := ⟨60000, 6000, 0, 1, 12288, 3072, 20000, true⟩

/-- What F asks for. -/
def askF : Ask := ⟨20000000, 2000000, 0, 30, 256, 0, 500000, 0⟩
/-- What T asks for. -/
def askT : Ask := ⟨5000000, 5000000, 0, 256, 256, 0, 100000, 0⟩

/-- 10 Table 10.7: the charged costs. -/
theorem test_charges : charge false costF 30 256 = 33440 ∧ charge false costT 256 256 = 1360372 := by decide +kernel

/-- 10, order 1: T fails in the bins with one F and with two for another channel's deadline, and 124 steps pass. -/
theorem test_admission_order1 :
    let f := askFig false costF askF
    let t := fun n => askFig false costT { askT with steps := n }
    binTest [f] (t 256) = some reOther ∧ binTest [f, f] (t 256) = some reOther ∧ binTest [f] (t 124) = none ∧
    binTest [f] (t 125) = some reOther ∧ binTest [f, f] (t 124) = some reOther ∧
    binTest [f] { t 256 with d := 1486721 } = none ∧ (binTest [f] { t 256 with d := 1486720 }).isSome = true := by decide +kernel

/-- 10, order 2: T passes alone and F passes beside F. -/
theorem test_admission_order2 :
    let f := askFig false costF askF
    binTest [] (askFig false costT askT) = none ∧ binTest [f] f = none ∧ binTest [] f = none := by decide +kernel

/-- 14 Table 14.9: the location of row 83, column 201, in Caldera 1. -/
theorem test_cell_location : cellLoc [83] [201] = 0x0001C953 := by decide

/-- 02 R98, R101: with the cell of row 0, column 3, off, that row and that column fail, and no neighbour does. -/
theorem test_compare_locates :
    let h := strike (handed0 [0, 0, 0, 5]) [] []
    0 ∈ missedRows h ∧ 1 ∉ missedRows h ∧ 3 ∈ missedCols h ∧ 4 ∉ missedCols h := by
  simp only [missedRows, missedCols, List.mem_filter, List.mem_range]
  decide +kernel

/-- 14, the example of Table 14.9: the fault of a compare is reported on Caldera 1, and its attempt is stopped. -/
theorem test_mismatch_stops :
    let i := { running0 with cal := 1, ctx := 16 }
    let s := { up with items := [i] }
    afterStep (exec (.faultDetected ⟨0x11, some 1, some 16, cellLoc [83] [201], false, false, false⟩) s) (fun t =>
      (t.flt.recs.map fun r => (r.1.unit, r.1.outcome, r.1.cal, r.1.loc)) == [(0x11, 1, 1, 0x0001C953)] &&
      t.items.map (·.stopped) == [true]) = true := by decide +kernel

/-- A doorbell and a STATE frame wait for peer 63, asked for when its port had sent `since` and n frames. -/
def asking (since n : Nat) : State :=
  let u := { lit with light := { lit.light with txCount := [(1, 64)] } }
  setPeer u 63 { req := { tx := 2, queue := [⟨frame0 0x04 0, false, 0, since⟩, ⟨frame0 0x05 0 1, false, 0, n⟩] } }

/-- 11 Table 11.1: with equal keys the lower index goes first, an export's STATE before a doorbell, and takes the next
SEQ (13 R392); a request that is aged by 64 frames goes before it (11 R343). -/
theorem test_transmit_arbiter :
    ((getPeer (presentPeer (asking 64 64) 63) 63).req.queue.map fun t => (t.f.type, t.f.seq)) = [(0x05, 0), (0x04, 1)] ∧
    ((getPeer (presentPeer (asking 0 64) 63) 63).req.queue.map fun t => (t.f.type, t.f.seq)) = [(0x04, 0), (0x05, 1)] := by
  decide +kernel

/-- The check value of CRC-32C that its catalogue gives: the CRC of the ASCII string 123456789. -/
theorem test_crc32c : crc32c ((List.range 9).map fun n => BitVec.ofNat 8 (0x31 + n)) = 0xE3069283 := by decide +kernel

set_option maxRecDepth 100000 in
/-- The example of FIPS 180 for SHA-384: the ASCII string abc. -/
theorem test_sha384 : ofBe (sha384 [0x61, 0x62, 0x63]) =
    0xcb00753f45a35e8bb5a03d699ac65007272c32ab0eded1631a8b605a43ff5bed8086072ba1e7cc2358baeca134c825a7 := by decide +kernel

/-! ### Single steps -/

/-- 09 R296: FORCE_ESC with key 0xE5C4 starts level 4; with another key it is ignored. -/
theorem test_force_esc :
    afterStep (exec (.forceBlockReset 0xE5C40004) up) (fun t => t.ladder.map (fun q => (q.level, q.trigger)) == [(4, 2)]) = true ∧
    afterStep (exec (.forceBlockReset 0xE5C50004) up) (fun t => t.ladder.length == 0) = true := by decide +kernel

/-- 09 Table 09.8: RING makes a mailbox BUSY, and one that is BUSY sets OVERRUN. -/
theorem test_mb_ring :
    afterStep (exec (.mbRing 15) up) (fun t => decide ((getMb t 15).st = .busy ∧ (getMb t 15).overrun = false)) = true ∧
    afterStep (exec (.mbRing 15) (rung up 15 1 [])) (fun t => (getMb t 15).overrun) = true := by decide +kernel

/-- A row whose opcode is not the one in the mailbox changes nothing. -/
theorem test_other_opcode : exec (.fwInfo 0) (cmd0 up 3 [(8, 1, 0)]) = .next (cmd0 up 3 [(8, 1, 0)]) := rfl

/-- The table gives its rows no bits: no word spells a command. -/
theorem test_no_words : decodeTableWord 64 0x01 = none ∧ State.reset.withFetchWord 8 1 = State.reset := by
  exact ⟨rfl, rfl⟩

end Sys2Proof.Tests
end

section
/-! SUPPORT and proof of O35. The slot-table update of a commit (01 R36, R52): STEPS is counted from a row's last reset
on. -/

namespace Sys2Proof.Proofs

open Sys2Proof Sys2Proof.Machine

/-- Searching the numbers below n from the top finds the greatest one that meets p. -/
theorem find_reverse_range_eq_some {n k : Nat} {p : Nat → Bool} (hk : k < n) (hp : p k = true)
    (hlast : ∀ q, k < q → q < n → p q = false) : (List.range n).reverse.find? p = some k := by
  induction n with
  | zero => omega
  | succ n ih =>
    rw [List.range_succ, List.reverse_append, List.reverse_singleton, List.singleton_append]
    rcases Nat.lt_or_ge k n with h | h
    · rw [List.find?_cons_of_neg (by simp [hlast n h (by omega)])]
      exact ih h fun q hkq hqn => hlast q hkq (by omega)
    · obtain rfl : k = n := by omega
      exact List.find?_cons_of_pos hp

/-- A row that no step of the chunk resets adds the whole chunk to STEPS (01 R52). -/
theorem stepsAfter_of_no_reset {s : State} {i : Item} {r : Nat} {v : Slot}
    (h : ∀ p < i.e.steps, (maskWord s i p).getLsbD r = false) :
    stepsAfter s i r v = v.steps + BitVec.ofNat 64 i.e.steps := by
  have hnone : (List.range i.e.steps).reverse.find? (fun p => (maskWord s i p).getLsbD r) = none := by
    simpa using h
  simp only [stepsAfter, hnone]

/-- A row counts its STEPS from its last reset in the chunk on (01 R52). -/
theorem stepsAfter_of_last_reset {s : State} {i : Item} {r p : Nat} {v : Slot} (hp : p < i.e.steps)
    (hreset : (maskWord s i p).getLsbD r = true)
    (hlast : ∀ q, p < q → q < i.e.steps → (maskWord s i q).getLsbD r = false) :
    stepsAfter s i r v = BitVec.ofNat 64 (i.e.steps - p) := by
  have hsome : (List.range i.e.steps).reverse.find? (fun p => (maskWord s i p).getLsbD r) = some p :=
    find_reverse_range_eq_some hp hreset hlast
  simp only [stepsAfter, hsome]

/-- Settles O35: the fields are those that the slot-table update writes, and STEPS is that of the row's last reset. -/
theorem commitUpdatesSlot : Obligations.CommitUpdatesSlot := by
  intro s i r v
  have hlet : decide (0 < v.qdepth - 1) = decide (1 < v.qdepth) := decide_eq_decide.mpr (by omega)
  exact ⟨rfl, rfl, rfl, rfl, rfl, rfl, rfl, rfl, rfl, rfl, congrArg (v.chValid && ·) hlet, rfl, rfl, rfl,
    stepsAfter_of_no_reset, fun _ => stepsAfter_of_last_reset⟩

end Sys2Proof.Proofs
end

section
/-! SUPPORT and proof of O60. A new stream (01 R21, R22): cleared ranges of a byte memory, generations, and handles. -/

namespace Sys2Proof.Proofs

open Sys2Proof Sys2Proof.Machine

/-- A table read at a key that a filter drops gives the default. -/
theorem tget_filter_of_neg {α : Type} (d : α) (k : Nat) (p : Nat × α → Bool) (t : Tab α)
    (h : ∀ v, p (k, v) = false) : tget d k (t.filter p) = d := by
  induction t with
  | nil => rfl
  | cons e r ih =>
    obtain ⟨j, v⟩ := e
    by_cases hp : p (j, v) = true
    · have hjk : j ≠ k := by rintro rfl; simp [h] at hp
      simp [List.filter_cons_of_pos hp, tget, hjk, ih]
    · rw [List.filter_cons_of_neg hp, ih]

/-- A table reads as before at a key that a filter keeps. -/
theorem tget_filter_of_pos {α : Type} (d : α) (k : Nat) (p : Nat × α → Bool) (t : Tab α)
    (h : ∀ v, p (k, v) = true) : tget d k (t.filter p) = tget d k t := by
  induction t with
  | nil => rfl
  | cons e r ih =>
    obtain ⟨j, v⟩ := e
    by_cases hp : p (j, v) = true
    · simp [List.filter_cons_of_pos hp, tget, ih]
    · have hjk : j ≠ k := by rintro rfl; exact hp (h v)
      simp [List.filter_cons_of_neg hp, tget, hjk, ih]

/-- A cleared byte is zero. -/
theorem loadByte_clearRange_in {m : Mem} {a n c : Nat} (hlo : a ≤ c) (hhi : c < a + n) :
    loadByte (clearRange m a n) c = 0 :=
  tget_filter_of_neg 0 c _ m fun _ => by simp; omega

/-- A byte outside the cleared ones reads as before. -/
theorem loadByte_clearRange_out {m : Mem} {a n c : Nat} (h : c < a ∨ a + n ≤ c) :
    loadByte (clearRange m a n) c = loadByte m c :=
  tget_filter_of_pos 0 c _ m fun _ => by simpa using h

/-- A generation of w bits is followed by another one of w bits, which is not 0. -/
theorem nextGen_bounds {w g : Nat} (hw : 1 < 2 ^ w) (hg : g < 2 ^ w) : 0 < nextGen w g ∧ nextGen w g < 2 ^ w := by
  unfold nextGen
  split <;> omega

/-- The generation that follows is another one. -/
theorem nextGen_ne {w g : Nat} (hw : 2 < 2 ^ w) : nextGen w g ≠ g := by
  unfold nextGen
  split <;> omega

/-- The slot of a new stream. -/
theorem getSlot_newStream_same {s : State} {i p w : Nat} {f : Bool} (h : twf {} s.slots = true) :
    getSlot (newStream s i p f w) i =
      { st := .idle, f32 := f, widthM1 := w, part := p, retired := (getSlot s i).retired,
        gen := BitVec.ofNat 20 (nextGen 20 (getSlot s i).gen.toNat) } :=
  getSlot_setSlot_same s i _ h

/-- A new stream leaves the other slots. -/
theorem getSlot_newStream_other {s : State} {i j p w : Nat} {f : Bool} (h : j ≠ i) :
    getSlot (newStream s i p f w) j = getSlot s j :=
  getSlot_setSlot_other s i j _ h

/-- GEN of a new stream is the one after the slot's. -/
theorem gen_newStream {s : State} {i p w : Nat} {f : Bool} (h : twf {} s.slots = true) :
    (getSlot (newStream s i p f w) i).gen.toNat = nextGen 20 (getSlot s i).gen.toNat := by
  rw [getSlot_newStream_same h, BitVec.toNat_ofNat]
  exact Nat.mod_eq_of_lt (nextGen_bounds (by decide) (getSlot s i).gen.isLt).2

/-- The number a slot's handle spells: GEN above the slot (01 Table 01.1). -/
theorem toNat_streamHandle {s : State} {i : Nat} (hi : i < 4096) :
    (streamHandle s i).toNat = i + 4096 * (getSlot s i).gen.toNat := by
  have := (getSlot s i).gen.isLt
  rw [streamHandle, BitVec.toNat_ofNat, Nat.mod_eq_of_lt (by omega)]

/-- A slot's own handle passes the check of 01 R22 when the slot is in use and its GEN is not 0. -/
theorem streamOk_streamHandle {s : State} {i : Nat} (hi : i < 4096) (hst : (getSlot s i).st ≠ .free)
    (hgen : (getSlot s i).gen.toNat ≠ 0) : streamOk s (streamHandle s i) = true := by
  have hn := toNat_streamHandle (s := s) hi
  have hslot : slotOf (streamHandle s i) = i := by rw [slotOf, hn]; omega
  have hq : (streamHandle s i).toNat / 4096 = (getSlot s i).gen.toNat := by omega
  have hne : streamHandle s i ≠ 0#32 := fun h0 => by rw [h0, BitVec.toNat_zero] at hn; omega
  simp [streamOk, hslot, hq, hst, hne]

/-- A handle of another generation than the slot's does not pass the check of 01 R22. -/
theorem streamOk_of_gen_ne {s : State} {h : Word} (hgen : (getSlot s (slotOf h)).gen.toNat ≠ h.toNat / 4096) :
    streamOk s h = false := by
  simp [streamOk, hgen]

/-- Settles O60: GEN moves on to another value that is not 0, and the slot's bytes are cleared. -/
theorem newStreamHandleValid : Obligations.NewStreamHandleValid := by
  intro s i p f w hs _ hi t v g
  obtain ⟨-, -, -, -, hslots, -⟩ := hs
  have hv : v = _ := getSlot_newStream_same hslots
  have hgen : v.gen.toNat = nextGen 20 g := gen_newStream hslots
  have hpos : v.gen.toNat ≠ 0 := hgen ▸ (nextGen_bounds (by decide) (getSlot s i).gen.isLt).1.ne'
  have hidle : v.st = .idle := by rw [hv]
  have hused : v.st ≠ .free := by simp [hidle]
  refine ⟨hgen, fun h0 => hpos (by rw [h0]; rfl), streamOk_streamHandle hi hused hpos, hidle,
    by rw [hv], by rw [hv], by rw [hv], by rw [hv], by rw [hv], by rw [hv], ?_, ?_, ?_, ?_⟩
  · intro h hslot hold
    exact streamOk_of_gen_ne (by rw [hslot, hold]; exact hgen ▸ nextGen_ne (by decide))
  · exact fun a hlo hhi => loadByte_clearRange_in hlo (by simp [Config.slotBytes]; omega)
  · exact fun a h => loadByte_clearRange_out (by simp [Config.slotBytes]; omega)
  · exact fun j hj => getSlot_newStream_other hj

end Sys2Proof.Proofs
end

section
/-! SUPPORT and refutations of O24 and O25. FORCE commands on a stream whose chunk a fence has sent back.

01 R41 lets every dispatched chunk run to its end before the command answers. 14 R421 and R422 put a dispatched item
back into its queue when its Caldera is fenced, and the model counts such an item as under way, although it stands in no
window. The statements look at the windows alone: they have it CANCELLED, and the command answered at once. -/

namespace Sys2Proof.Proofs

open Sys2Proof Sys2Proof.Machine

/-- The chunk of a stream that a fence has sent back to its queue. -/
def sentBack (h : Word) : Item :=
  { ch := 0, seq := 0, part := 0, task := false, win := 0, deadline := 1000, late := false, eligAt := 0, back := true,
    e := { irq := false, mask := false, steps := 1, rows := 1, entry := 0, wstart := 0, deadline := 0, user := 0,
           dreg := 0, dfirst := 0, dofs := 0, dcount := 0, maskh := 0, streams := [h] } }

/-- Stream 5 of generation 1 is QUEUED with one chunk, which a fence has sent back; mailbox 0 holds a command for it. -/
def withSentBack (cmd : Mem) : State :=
  { State.reset with
    life := { phase := .running }
    cp := { fwState := .running }
    parts := [(0, { exist := true })]
    mbs := [(0, { owner := 0xF, st := .busy, cmd := cmd })]
    mbOrder := [0]
    slots := [(5, { st := .queued, gen := 1, qdepth := 1 })]
    items := [sentBack 0x1005] }

/-- STREAM_DESTROY of stream 5 with FORCE. -/
def destroying : State := withSentBack (store (store (store [] 0 2 0x61) 8 4 0x1005) 12 1 1)

/-- STREAM_EXPORT of stream 5 with FORCE to peer 0. -/
def exporting : State := withSentBack (store (store (store (store [] 0 2 0x64) 8 4 0x1005) 12 1 1) 13 1 1)

/-- The command of mailbox 0 has no answer yet. -/
def unanswered : Out → Bool
  | .next t => decide ((getMb t 0).st = .busy)
  | _ => false

/-- A command that is answered when its stream has no chunk in a window is not left unanswered without one. -/
theorem unanswered_ite_okTo {out : Bool} {o : Out} {s : State} {r : List (Nat × Nat × Nat)} (hout : out = false)
    (hmbs : twf {} s.mbs = true) : unanswered (if out then o else okTo 0 s r) = false := by
  have hdone : (getMb (respond s 0 stOk 0 r) 0).st = .done := by
    rw [respond, getMb_raiseInt]
    exact congrArg Mailbox.st (getMb_setMb_same s 0 _ hmbs)
  simp [hout, unanswered, okTo, hdone]

/-- Refutes O24: STREAM_DESTROY with FORCE waits for a chunk that a fence has sent back to its queue, where the
statement has it cancelled and the command answered at once. -/
theorem not_streamCommandsAnswer : ¬ Obligations.StreamCommandsAnswer := by
  intro h
  obtain ⟨-, -, hforce, -⟩ := h destroying 0
  have hready : cmdReady 0x61 0 destroying := by unfold cmdReady; decide +kernel
  have hanswer := hforce hready (by decide +kernel) (by decide +kernel) (by decide +kernel) (by decide +kernel)
    (by decide +kernel) (by decide +kernel)
  have hwaits : unanswered (exec (.streamDestroy 0) destroying) = true := by decide +kernel
  have hdone : unanswered (exec (.streamDestroy 0) destroying) = false := by
    rw [hanswer]
    exact unanswered_ite_okTo (by decide +kernel) (by decide +kernel)
  exact Bool.false_ne_true (hdone.symm.trans hwaits)

/-- Refutes O25: STREAM_EXPORT with FORCE waits for a chunk that a fence has sent back to its queue, where the
statement has it cancelled and the command answered OK at once. -/
theorem not_streamMovesAct : ¬ Obligations.StreamMovesAct := by
  rintro ⟨h, -⟩
  have hready : cmdReady 0x64 0 exporting := by unfold cmdReady; decide +kernel
  obtain ⟨-, hforce⟩ := h exporting 0 hready (by decide +kernel) (by decide +kernel) (by decide +kernel)
    (by decide +kernel)
  have hanswer := hforce (by decide +kernel) (by decide +kernel) (by decide +kernel)
  have hwaits : unanswered (exec (.streamExport 0) exporting) = true := by decide +kernel
  have hdone : unanswered (exec (.streamExport 0) exporting) = false := by
    rw [hanswer]
    exact unanswered_ite_okTo (by decide +kernel) (by decide +kernel)
  exact Bool.false_ne_true (hdone.symm.trans hwaits)

end Sys2Proof.Proofs
end

section
/-! SUPPORT and proof of O52. An engine reset (14 Table 14.6): which operations leave the Calderas alone, which keep
their partitions, and what the reset empties. -/

namespace Sys2Proof.Proofs

open Sys2Proof Sys2Proof.Machine

/-! ### Operations that leave the Calderas alone -/

/-- A fold whose every step leaves the Calderas alone does. -/
theorem foldl_cals {α : Type} {f : State → α → State} (hf : ∀ s a, (f s a).cals = s.cals) (l : List α) (s : State) :
    (l.foldl f s).cals = s.cals := by
  induction l generalizing s with
  | nil => rfl
  | cons a r ih => exact (ih _).trans (hf s a)

section

variable (s : State)

@[simp] theorem updCtx_cals (x : Nat) (f : Ctx → Ctx) : (updCtx s x f).cals = s.cals := rfl
@[simp] theorem updSlot_cals (i : Nat) (f : Slot → Slot) : (updSlot s i f).cals = s.cals := rfl
@[simp] theorem respond_cals (m st fd : Nat) (r : List (Nat × Nat × Nat)) : (respond s m st fd r).cals = s.cals := rfl
@[simp] theorem dropJob_cals (u : User) : (dropJob s u).cals = s.cals := rfl
@[simp] theorem dropUsers_cals (p : User → Bool) : (dropUsers s p).cals = s.cals := rfl
@[simp] theorem dropChan_cals (i : Nat) : (dropChan s i).cals = s.cals := rfl
@[simp] theorem evict_cals (i : Nat) : (evict s i).cals = s.cals := rfl
@[simp] theorem freeSlot_cals (i : Nat) : (freeSlot s i).cals = s.cals := rfl

@[simp] theorem postEvent_cals (p : Nat) (code : BitVec 16) (bs : List Byte) :
    (postEvent s p code bs).cals = s.cals := by
  unfold postEvent
  dsimp only
  split <;> rfl

@[simp] theorem faultStream_cals (i cause : Nat) : (faultStream s i cause).cals = s.cals := by
  simp [faultStream]

@[simp] theorem semAdd_cals (k n : Nat) : (semAdd s k n).cals = s.cals := by
  unfold semAdd
  dsimp only
  split <;> simp

@[simp] theorem endChunk_cals (v : Nat) : (endChunk s v).cals = s.cals := by
  unfold endChunk
  dsimp only
  split <;> simp

@[simp] theorem promote_cals (c : Nat) : (promote s c).cals = s.cals := by
  unfold promote
  split <;> rfl

@[simp] theorem owePost_cals (i : Item) (status : Nat) : (owePost s i status).cals = s.cals := by
  unfold owePost
  split <;> rfl

@[simp] theorem noteAdd_cals (t : Xfer) : (noteAdd s t).cals = s.cals := by
  unfold noteAdd
  repeat' split
  all_goals rfl

@[simp] theorem notePorts_cals (t : Xfer) (ns : List Nat) : (notePorts s t ns).cals = s.cals := by
  unfold notePorts
  repeat' split
  all_goals rfl

@[simp] theorem putBack_cals (i : Item) : (putBack s i).cals = s.cals := by
  refine foldl_cals (fun u e => ?_) _ s
  dsimp only
  repeat' split
  all_goals rfl

/-! ### Requests at the ports leave them alone -/

@[simp] theorem movePtr_cals (u : User) (b : Burst) : (movePtr s u b).cals = s.cals := by
  unfold movePtr
  dsimp only
  split <;> rfl

variable {s}

theorem presentMem_cals {t : State} {u : User} {b : Burst} (h : presentMem s u b = some t) : t.cals = s.cals := by
  unfold presentMem at h
  dsimp only at h
  split at h
  · cases h
  · obtain ⟨a, -, rfl⟩ := Option.map_eq_some_iff.mp h
    rfl

theorem presentHost_cals {t : State} {u : User} {b : Burst} (h : presentHost s u b = some t) : t.cals = s.cals := by
  unfold presentHost at h
  dsimp only at h
  split at h
  · cases h
  · split at h
    · cases h
      rfl
    · obtain ⟨a, -, rfl⟩ := Option.map_eq_some_iff.mp h
      rfl
    · split at h
      · cases h
      · obtain ⟨a, -, rfl⟩ := Option.map_eq_some_iff.mp h
        rfl

theorem present_cals {t : State} {u : User} {b : Burst} (h : present s u b = some t) : t.cals = s.cals := by
  unfold present at h
  split at h
  · exact presentHost_cals h
  · exact presentMem_cals h

theorem firstGrant_cals {g : Nat × Nat × List Nat × State} (h : firstGrant s = some g) : g.2.2.2.cals = s.cals := by
  have hm := firstGrant_mem h
  simp only [grants, List.mem_flatMap, List.mem_filterMap, Option.map_eq_some_iff] at hm
  obtain ⟨j, -, b, -, t, ht, rfl⟩ := hm
  exact (movePtr_cals t _ _).trans (present_cals ht)

variable (s)

theorem pumpN_cals (n : Nat) : (pumpN n s).cals = s.cals := by
  induction n generalizing s with
  | zero => rfl
  | succ n ih =>
    unfold pumpN
    extract_lets s1
    have h1 : s1.cals = s.cals := rfl
    split
    · exact h1
    · exact (ih _).trans ((firstGrant_cals ‹_›).trans h1)

theorem fenceReads_cals : (fenceReads s).cals = s.cals := by
  unfold fenceReads
  split
  · cases h : presentHost s .gone (flushRead s) with
    | none => rfl
    | some t => exact presentHost_cals h
  · rfl

@[simp] theorem pump_cals : (pump s).cals = s.cals := (fenceReads_cals _).trans (pumpN_cals s _)

@[simp] theorem addJob_cals (u : User) (l : List (List Burst)) : (addJob s u l).cals = s.cals := by simp [addJob]

/-! ### Frames to a peer leave them alone -/

@[simp] theorem presentOne_cals (q : Nat) (t : TxFrame) : (presentOne s q t).cals = s.cals := rfl

@[simp] theorem presentRsp_cals (q : Nat) : (presentRsp s q).cals = s.cals := rfl

@[simp] theorem presentReqs_cals (n p : Nat) (aged : Bool) : (presentReqs n s p aged).cals = s.cals := by
  induction n generalizing s with
  | zero => rfl
  | succ n ih =>
    unfold presentReqs
    split
    · rfl
    · exact (ih _).trans (presentOne_cals ..)

@[simp] theorem presentPort_cals (n : Nat) : (presentPort s n).cals = s.cals := by
  unfold presentPort
  dsimp only
  split
  · rw [presentReqs_cals, foldl_cals presentRsp_cals, presentReqs_cals]
  · rfl

@[simp] theorem sendFrame_cals (q : Nat) (rsp : Bool) (f : Frame → Frame) : (sendFrame s q rsp f).cals = s.cals := by
  simp [sendFrame, presentPeer]

@[simp] theorem sendRequest_cals (q : Nat) (u : User) (ofs addr : Nat) (f : Frame → Frame) :
    (sendRequest s q u ofs addr f).cals = s.cals := by
  simp [sendRequest, ask]

@[simp] theorem sendElem_cals (t : Xfer) (a : Nat) (bs : List Byte) (last : Bool) :
    (sendElem s t a bs last).cals = s.cals := by
  unfold sendElem
  dsimp only
  repeat' split
  all_goals simp

@[simp] theorem sendState_cals (i q : Nat) (mv : BitVec 16) (rcd : List Byte) :
    (sendState s i q mv rcd).cals = s.cals := by
  unfold sendState
  dsimp only
  rw [foldl_cals fun u e => sendFrame_cals u q false _]
  rfl

@[simp] theorem peerRead_cals (q : Nat) (u : User) (a n o : Nat) : (peerRead s q u a n o).1.cals = s.cals :=
  foldl_cals (fun _ _ => sendRequest_cals ..) _ s

@[simp] theorem readPeer_cals (t : Xfer) : (readPeer s t).1.cals = s.cals := by
  unfold readPeer
  generalize (0 : Nat) = n
  generalize goodElems t = l
  induction l generalizing s n with
  | nil => rfl
  | cons m r ih => exact (ih _ _).trans (peerRead_cals ..)

/-! ### Exports and the commands that wait leave them alone -/

@[simp] theorem startPeerExport_cals (i q : Nat) : (startPeerExport s i q).cals = s.cals := by
  simp [startPeerExport]

@[simp] theorem exportFail_cals (i status : Nat) : (exportFail s i status).cals = s.cals := by
  unfold exportFail
  dsimp only
  split <;> simp [dropExport]

@[simp] theorem startRegionExport_cals (i : Nat) (reg : BitVec 16) (ofs : Nat) :
    (startRegionExport s i reg ofs).cals = s.cals := by
  unfold startRegionExport
  dsimp only
  split <;> simp

@[simp] theorem forceExport_cals (m v : Nat) : (forceExport s m v).cals = s.cals := by
  unfold forceExport
  dsimp only
  repeat' split
  all_goals simp

@[simp] theorem resolveForce_cals : (resolveForce s).cals = s.cals := by
  refine foldl_cals (fun u m => ?_) _ s
  dsimp only
  repeat' split
  all_goals simp

@[simp] theorem resolveChDestroy_cals : (resolveChDestroy s).cals = s.cals := by
  refine foldl_cals (fun u m => ?_) _ s
  dsimp only
  repeat' split
  all_goals simp

end

/-! ### Operations that keep the partition of every Caldera -/

/-- From s to t the table of Calderas stays canonical, and every Caldera keeps its partition. -/
def PartsKept (s t : State) : Prop :=
  twf {} s.cals = true → twf {} t.cals = true ∧ ∀ d, (getCal t d).part = (getCal s d).part

theorem PartsKept.refl (s : State) : PartsKept s s := fun h => ⟨h, fun _ => rfl⟩

theorem PartsKept.trans {s t u : State} (h : PartsKept s t) (h' : PartsKept t u) : PartsKept s u := fun hs =>
  have ⟨ht, hst⟩ := h hs
  have ⟨hu, htu⟩ := h' ht
  ⟨hu, fun d => (htu d).trans (hst d)⟩

/-- What leaves the Calderas alone keeps their partitions. -/
theorem PartsKept.of_cals {s t : State} (h : t.cals = s.cals) : PartsKept s t := fun hs =>
  ⟨h ▸ hs, fun d => by rw [getCal, getCal, h]⟩

theorem PartsKept.foldl {α : Type} {f : State → α → State} (hf : ∀ s a, PartsKept s (f s a)) (l : List α) (s : State) :
    PartsKept s (l.foldl f s) := by
  induction l generalizing s with
  | nil => exact .refl s
  | cons a r ih => exact (hf s a).trans (ih _)

/-- A change of one Caldera that leaves its partition. -/
theorem partsKept_updCal (s : State) (c : Nat) {f : Cal → Cal} (hf : ∀ k, (f k).part = k.part) :
    PartsKept s (updCal s c f) := fun hs => by
  refine ⟨twf_tput _ _ _ _ hs, fun d => ?_⟩
  rw [updCal, getCal_setCal s c d _ hs]
  split
  · subst d
    exact hf _
  · rfl

theorem partsKept_setEng (s : State) (k : Nat) (l : List Xfer) : PartsKept s (setEng s k l) := by
  unfold setEng
  split
  · exact partsKept_updCal s _ fun _ => rfl
  · exact .of_cals rfl

theorem partsKept_setHead (s : State) (e : Nat) (t : Xfer) : PartsKept s (setHead s e t) := partsKept_setEng s e _

theorem partsKept_muteMoves (s : State) (x : Nat) : PartsKept s (muteMoves s x) := by
  unfold muteMoves
  refine .trans (.foldl (fun u k => ?_) _ s) (partsKept_updCal _ _ fun _ => rfl)
  dsimp only
  split
  · exact partsKept_setEng u k _
  · exact .refl u

theorem partsKept_writeXfer (s : State) (e : Nat) (t : Xfer) : PartsKept s (writeXfer s e t) := by
  unfold writeXfer
  extract_lets u t es t1 sent ws s1
  split
  · exact partsKept_setHead s e _
  · split
    · refine .trans (.of_cals ?_) (partsKept_setHead _ e _)
      rw [foldl_cals fun _ _ => sendElem_cals ..]
      split <;> simp
    · split
      · exact partsKept_setHead s e _
      · exact (partsKept_setHead s e t1).trans (.of_cals (by simp [s1]))

theorem partsKept_goXfer (s : State) (e : Nat) : PartsKept s (goXfer s e) := by
  unfold goXfer
  split
  · exact .refl s
  · split
    · exact partsKept_writeXfer s e _
    · exact .refl s

theorem partsKept_startXfer (s : State) (e : Nat) (t : Xfer) : PartsKept s (startXfer s e t) := by
  unfold startXfer
  extract_lets t0 t1 s1 r
  split
  · exact partsKept_setHead s e _
  · have h1 : PartsKept s s1 := (partsKept_setHead s e t1).trans (.of_cals (addJob_cals ..))
    have h2 : PartsKept s1 r.1 := .of_cals (by unfold r; split <;> simp)
    exact ((h1.trans h2).trans (partsKept_setHead _ e _)).trans (partsKept_goXfer _ e)

theorem partsKept_startHead (s : State) (e : Nat) : PartsKept s (startHead s e) := by
  unfold startHead
  split
  · exact .refl s
  · split
    · exact .refl s
    · exact partsKept_startXfer s e _

theorem partsKept_purgeCtx (s : State) (x : Nat) : PartsKept s (purgeCtx s x) := by
  unfold purgeCtx
  extract_lets s1
  have h1 : PartsKept (muteMoves s x) s1 := partsKept_updCal _ _ fun _ => rfl
  exact .trans (.trans (partsKept_muteMoves s x) h1) (.foldl partsKept_startHead _ s1)

theorem partsKept_applyDefer (s : State) (x : Nat) : PartsKept s (applyDefer s x) := by
  refine .trans (.of_cals (updCtx_cals s x _)) (.foldl (fun u w => ?_) _ _)
  split
  · exact partsKept_updCal u _ fun _ => rfl
  · exact .of_cals rfl
  · exact .of_cals rfl

theorem partsKept_emptyHalves (s : State) (c : Nat) (b : BitVec 4) : PartsKept s (emptyHalves s c b) :=
  partsKept_updCal s c fun _ => rfl

theorem partsKept_dropRest (s : State) (i : Item) : PartsKept s (dropRest s i) := partsKept_updCal s i.cal fun _ => rfl

theorem partsKept_leaveWindow (s : State) (i : Item) : PartsKept s (leaveWindow s i) := by
  have hrest : PartsKept s (dropRest (dropUsers s (itemUser i)) i) :=
    .trans (.of_cals (dropUsers_cals s _)) (partsKept_dropRest _ i)
  have hhalves := hrest.trans (partsKept_emptyHalves _ i.cal i.halves)
  exact ((hhalves.trans (.of_cals (updCtx_cals ..))).trans (partsKept_applyDefer _ _)).trans (.of_cals (promote_cals ..))

theorem partsKept_finishItem (s : State) (i : Item) (status : Nat) : PartsKept s (finishItem s i status) := by
  unfold finishItem
  extract_lets s0 s1 s2 s3 s4
  have h3 : s3.cals = s.cals := by
    unfold s3 s2 s1 s0
    rw [foldl_cals fun _ _ => endChunk_cals .., foldl_cals fun _ _ => semAdd_cals .., owePost_cals]
    split <;> simp
  have h4 : PartsKept s3 s4 := by
    unfold s4
    split
    · exact partsKept_leaveWindow s3 i
    · exact .refl s3
  exact ((PartsKept.of_cals h3).trans h4).trans (.of_cals (by simp))

theorem partsKept_abortItem (s : State) (i : Item) : PartsKept s (abortItem s i) := by
  unfold abortItem
  extract_lets c zh i1
  have hset : (setItem (setCtx s i.ctx { c with last := zh }) i1).cals = s.cals := by simp
  exact .trans (.of_cals hset) (partsKept_finishItem _ i1 _)

theorem partsKept_ctxReset (s : State) (x : Nat) : PartsKept s (ctxReset s x) := by
  unfold ctxReset
  refine .trans (.trans ?_ (partsKept_purgeCtx _ x)) (.of_cals (updCtx_cals ..))
  split
  · exact partsKept_abortItem s _
  · exact .refl s

/-! ### An engine reset -/

/-- A property of the default and of every written value holds of every entry of a table after a write. -/
theorem tget_tput_of_forall {α : Type} [DecidableEq α] {P : α → Prop} {d : α} {t : Tab α} {k : Nat} {v : α}
    (ht : twf d t = true) (hP : ∀ i, P (tget d i t)) (hv : P v) (i : Nat) : P (tget d i (tput d k v t)) := by
  by_cases hik : i = k
  · subst i
    rwa [tget_tput_same d k v t ht]
  · rw [tget_tput_other d i k v t hik]
    exact hP i

/-- A property of the default and of every value that f gives holds of every entry of a table that f has mapped. -/
theorem tget_tmap_of_forall {α : Type} [DecidableEq α] {P : α → Prop} {d : α} {f : Nat → α → α} (hd : P d)
    (hf : ∀ k v, P (f k v)) (t : Tab α) (i : Nat) : P (tget d i (tmap d f t)) := by
  have hfold : ∀ (l acc : Tab α), twf d acc = true → (∀ i, P (tget d i acc)) →
      ∀ i, P (tget d i (l.foldl (fun acc e => tput d e.1 (f e.1 e.2) acc) acc)) := by
    intro l
    induction l with
    | nil => exact fun _ _ hP => hP
    | cons e r ih => exact fun acc hw hP => ih _ (twf_tput d _ _ acc hw) (tget_tput_of_forall hw hP (hf _ _))
  exact hfold t [] rfl (fun _ => hd) i

/-- A slot's stream is not RESIDENT in a row of Caldera c. -/
def NotResidentIn (c : Nat) (v : Slot) : Prop := v.resValid = true → v.resCal = c → v.st ≠ .resident

/-- A slot whose row in Caldera c has been evicted (01 R42). -/
def evictedFrom (c : Nat) (v : Slot) : Slot :=
  if v.resValid = true ∧ v.resCal = c ∧ v.st = .resident then
    { v with resValid := false, st := if 0 < v.qdepth then .queued else .idle }
  else v

theorem notResidentIn_evictedFrom (c : Nat) (v : Slot) : NotResidentIn c (evictedFrom c v) := by
  unfold evictedFrom
  split
  next => exact fun h => nomatch h
  next hnot => exact fun hval hcal hst => hnot ⟨hval, hcal, hst⟩

theorem getSlot_evictCal (s : State) (c i : Nat) :
    getSlot (evictCal s c) i = tget {} i (tmap {} (fun _ => evictedFrom c) s.slots) := rfl

/-- No row of the Caldera is RESIDENT after its rows have been evicted. -/
theorem notResidentIn_evictCal (s : State) (c i : Nat) : NotResidentIn c (getSlot (evictCal s c) i) := by
  have hfree : NotResidentIn c {} := fun h => nomatch h
  rw [getSlot_evictCal]
  exact tget_tmap_of_forall hfree (fun _ => notResidentIn_evictedFrom c) s.slots i

/-- A Caldera whose array, lanes, halves, pipelines, caches and engines are empty (14 Table 14.6). -/
def emptied (k : Cal) : Cal :=
  { k with acc := [], fmt := 0, decay := [], lanes := [], written := 0, halves := [], runs := [], groups := [],
           found := [], free := [], ops := [], feeds := [], icache := [], fetches := [], ve := [], dispPtr := 0 }

/-- A Caldera reads as what an update made of it. -/
theorem getCal_updCal_same {s : State} {c : Nat} (f : Cal → Cal) (h : twf {} s.cals = true) :
    getCal (updCal s c f) c = f (getCal s c) :=
  (getCal_setCal s c c _ h).trans (if_pos rfl)

theorem partsKept_dropJob (s : State) (u : User) : PartsKept s (dropJob s u) := .of_cals (dropJob_cals s u)

/-- An engine reset empties its Caldera and evicts its rows, behind operations that keep the partitions. -/
theorem engReset_eq (s : State) (c : Nat) :
    ∃ u, PartsKept s u ∧ engReset s c = evictCal (updCal u c emptied) c := by
  refine ⟨_, ?_, rfl⟩
  refine .trans (.foldl partsKept_ctxReset _ s) (.trans (.foldl (fun u _ => ?_) _ _) (.foldl (fun u _ => ?_) _ _))
  · exact partsKept_dropJob u _
  · exact partsKept_dropJob u _

/-- Settles O52: the reset of the contexts keeps the Calderas' partitions, then the Caldera is emptied and its rows are
evicted. -/
theorem engineResetEmptiesCaldera : Obligations.EngineResetEmptiesCaldera := by
  intro s c hs _
  obtain ⟨-, -, -, -, -, -, hcals, -⟩ := hs
  obtain ⟨u, hu, heq⟩ := engReset_eq s c
  obtain ⟨hu, hpart⟩ := hu hcals
  have hget : getCal (evictCal (updCal u c emptied) c) c = emptied (getCal u c) := getCal_updCal_same emptied hu
  rw [heq, hget]
  exact ⟨hpart c, rfl, rfl, rfl, rfl, rfl, rfl, rfl, rfl, rfl, rfl, rfl, rfl, rfl, rfl, rfl, rfl,
    notResidentIn_evictCal _ c⟩

end Sys2Proof.Proofs
end

section
/-! SUPPORT and proof of O40. A slot whose answer is one operation's checks, wait and effect: it halts, waits or issues
(07 R225, 08 R281). The causes of a MAT slot's wait, from the lowest on (08 Table 08.4). -/

namespace Sys2Proof.Proofs

open Sys2Proof Sys2Proof.Machine

section

variable {s s1 : State} {x w ofs : Nat} {α : Type} {chk : Except Stop α} {wait : α → Option Nat} {eff : α → State}
  {f : State → Nat → Nat → Res}

/-- A slot command that is one operation halts with what the operation's checks fail with, waits for its cause, or
issues with its effect. -/
theorem issueSlot_of_opRes {k : SlotK} {mine : Nat → Bool} (hturn : nextTurn s x = .slot s1 k w ofs)
    (hknown : knownOp k w = true) (hmine : mine w = true) (hf : f s1 w ofs = opRes chk wait eff) :
    (∀ e, chk = .error e → issueSlot x k mine f s = .next (haltIssue s1 x ofs (slotNo k) e.1 e.2)) ∧
    ∀ a, chk = .ok a → (wait a = none → issueSlot x k mine f s = issued x (eff a)) ∧
      ∀ u, wait a = some u → issueSlot x k mine f s = .next (waitSlot s1 x u) := by
  refine ⟨fun e he => ?_, fun a ha => ⟨fun hnone => ?_, fun u hsome => ?_⟩⟩
  · exact issueSlot_halt hturn hknown hmine (hf.trans (opRes_halt he))
  · exact issueSlot_done hturn hknown hmine (hf.trans (opRes_done ha hnone))
  · exact issueSlot_wait hturn hknown hmine (hf.trans (opRes_wait ha hsome))

/-- The bits of a slot with opcode o are those of the command of o. -/
theorem opIs_of_eq {o : Nat} (hop : bits w 5 0 = o) : opIs o w = true := beq_iff_eq.mpr hop

/-- The opcodes of the MAT slot (07 Table 07.7). -/
theorem knownOp_mat (hlo : 1 ≤ bits w 5 0) (hhi : bits w 5 0 ≤ 0xB) : knownOp .mat w = true := by
  simp [knownOp, hlo, hhi]

/-- A MAT slot of opcode o, answered by the command of o. -/
theorem matSlot_of_opRes {o : Nat} (hturn : nextTurn s x = .slot s1 .mat w ofs) (hop : bits w 5 0 = o)
    (ho : 1 ≤ o ∧ o ≤ 0xB) (hf : f s1 w ofs = opRes chk wait eff) :
    (∀ e, chk = .error e → issueSlot x .mat (opIs o) f s = .next (haltIssue s1 x ofs 1 e.1 e.2)) ∧
    ∀ a, chk = .ok a → (wait a = none → issueSlot x .mat (opIs o) f s = issued x (eff a)) ∧
      ∀ u, wait a = some u → issueSlot x .mat (opIs o) f s = .next (waitSlot s1 x u) :=
  issueSlot_of_opRes hturn (knownOp_mat (hop ▸ ho.1) (hop ▸ ho.2)) (opIs_of_eq hop) hf

end

section

variable {s : State} {x : Nat} {u : Path} {half order : Bool}

/-- Cause 2, a half's state, comes before every other. -/
theorem matWait_half (hhalf : half = true) : matWait s x u half order = some 2 := by
  simp [matWait, hhalf]

/-- Cause 3, the bus pipeline, comes after a half's state alone. -/
theorem matWait_bus (hhalf : half = false) (hu : u = .bus) (hbusy : pathBusy s x u = true) :
    matWait s x u half order = some 3 := by
  subst hu
  simp [matWait, hhalf, hbusy]

/-- Cause 4, the order on slots, comes after a half's state and the bus pipeline. -/
theorem matWait_order (hhalf : half = false) (horder : order = true) (hbus : u = .bus → pathBusy s x u = false) :
    matWait s x u half order = some 4 := by
  have hfree : ¬(u = .bus ∧ pathBusy s x u = true) := fun ⟨hu, hbusy⟩ => Bool.false_ne_true ((hbus hu).symm.trans hbusy)
  simp [matWait, hhalf, horder, hfree]

/-- Cause 5, the plane port. -/
theorem matWait_plane (hhalf : half = false) (horder : order = false) (hbusy : pathBusy s x u = true)
    (hu : u = .plane) : matWait s x u half order = some 5 := by
  subst hu
  simp [matWait, hhalf, horder, hbusy]

/-- Cause 6, the row-read path. -/
theorem matWait_row (hhalf : half = false) (horder : order = false) (hbusy : pathBusy s x u = true)
    (hu : u = .row) : matWait s x u half order = some 6 := by
  subst hu
  simp [matWait, hhalf, horder, hbusy]

end

/-- Settles O40: each command of the MAT slot is one operation's checks, wait and effect, and the causes of its wait are
asked for in their order. -/
theorem matrixSlotsIssue : Obligations.MatrixSlotsIssue := by
  intro s s1 x w ofs i hturn hi
  refine ⟨fun hop => ?_, fun hop => ?_, fun hop => ?_, fun hop => ?_, fun hop => ?_, fun hop => ?_, fun hop => ?_,
    fun hop => ?_, fun hop => ?_, fun hop => ?_, fun hop => ?_, fun u half order => ⟨matWait_half, matWait_bus,
      matWait_order, fun hhalf horder hbusy => ⟨matWait_plane hhalf horder hbusy, matWait_row hhalf horder hbusy⟩⟩⟩
  all_goals exact matSlot_of_opRes hturn hop (by decide) (by simp only [hi])

end Sys2Proof.Proofs
end

section
/-! SUPPORT and proof of O44. The MOV and SYN slots: a slot that was prefetched, and the checks of the three SYN
commands (08 R258, R271 to R275, R279, R286; 07 R232). -/

namespace Sys2Proof.Proofs

open Sys2Proof Sys2Proof.Machine

section

variable {s s1 s2 : State} {x w ofs : Nat}

/-- A slot that the context's prefetch unit has issued before does not issue again, and the cycle counts as it did
(08 R279, R281). -/
theorem issueSlot_of_reached {k : SlotK} {mine : Nat → Bool} {f : State → Nat → Nat → Res}
    (hturn : nextTurn s x = .slot s1 k w ofs) (hknown : knownOp k w = true) (hmine : mine w = true)
    (hf : f s1 w ofs = .reached s2) : issueSlot x k mine f s =
      .next (settle (updCtx (endSlot s2 x) x fun c => { c with issued := (getCtx s x).issued }) x) := by
  simp [issueSlot, hturn, hknown, hmine, hf]

/-- The opcodes of the MOV slot (07 Table 07.11). -/
theorem knownOp_mov {o : Nat} (hop : bits w 5 0 = o) (ho : 1 ≤ o ∧ o ≤ 3) : knownOp .mov w = true := by
  simp [knownOp, hop, ho]

/-- The opcodes of the SYN slot (07 Table 07.12). -/
theorem knownOp_syn {o : Nat} (hop : bits w 5 0 = o) (ho : 1 ≤ o ∧ o ≤ 3) : knownOp .syn w = true := by
  simp [knownOp, hop, ho]

/-- The bits of a slot at or above n are all zero. -/
theorem slotForm_of_lt {n : Nat} (h : w < 2 ^ n) : slotForm n w = .ok () := by
  simp [slotForm, stopIf, h]

end

section

variable {s s1 : State} {x : Fin 64} {w ofs : Nat} {i : Item}

/-! ### FEED, VENT and GATHER -/

section

variable (hturn : nextTurn s x.val = .slot s1 .mov w ofs) (hi : itemOf s1 x.val = some i)
include hturn hi

/-- FEED is one operation, which waits while its half is IN_USE (02 R61, R64). -/
theorem execFeed_of_free {a : FeedArgs} (hop : bits w 5 0 = 0x01) (hcheck : feedCheck x.val i s1 w = .ok a)
    (hfree : (halfOf (getCal s1 (ctxCal x.val)) a.half).st ≠ .inUse) :
    execFeed x s = issued x.val (feedEffect x.val s1 a) :=
  issueSlot_done hturn (knownOp_mov hop (by decide)) (opIs_of_eq hop) (by
    simp only [hi]
    exact opRes_done hcheck (if_neg hfree))

/-- A VENT that was not prefetched is one operation (08 R259). -/
theorem execVent_of_free {a : Nat × Xfer} (hop : bits w 5 0 = 0x02) (hpre : isPrefetched s1 x.val ofs = false)
    (hcheck : ventCheck x.val i s1 w ofs = .ok a) (hfree : ventWait s1 a = none) :
    execVent x s = issued x.val (ventEffect x.val s1 a) :=
  issueSlot_done hturn (knownOp_mov hop (by decide)) (opIs_of_eq hop) (by
    simp only [hi, hpre]
    exact opRes_done hcheck hfree)

/-- A GATHER that was not prefetched is one operation (08 R286). -/
theorem execGather_of_free {a : Lookup} (hop : bits w 5 0 = 0x03) (hpre : isPrefetched s1 x.val ofs = false)
    (hcheck : gatherCheck x.val i s1 w ofs = .ok a) (hfree : gatherWait s1 x.val = none) :
    execGather x s = issued x.val (gatherEffect x.val s1 a) :=
  issueSlot_done hturn (knownOp_mov hop (by decide)) (opIs_of_eq hop) (by
    simp only [hi, hpre]
    exact opRes_done hcheck hfree)

/-- The context reaches its prefetched VENT (08 R279). -/
theorem execVent_of_prefetched (hop : bits w 5 0 = 0x02) (hpre : isPrefetched s1 x.val ofs = true) :
    execVent x s = .next (settle (updCtx (endSlot (reachPrefetch s1 x.val ofs) x.val) x.val fun c =>
      { c with issued := (getCtx s x.val).issued }) x.val) :=
  issueSlot_of_reached hturn (knownOp_mov hop (by decide)) (opIs_of_eq hop) (by simp only [hi, hpre, if_true])

/-- The context reaches its prefetched GATHER (08 R279). -/
theorem execGather_of_prefetched (hop : bits w 5 0 = 0x03) (hpre : isPrefetched s1 x.val ofs = true) :
    execGather x s = .next (settle (updCtx (endSlot (reachPrefetch s1 x.val ofs) x.val) x.val fun c =>
      { c with issued := (getCtx s x.val).issued }) x.val) :=
  issueSlot_of_reached hturn (knownOp_mov hop (by decide)) (opIs_of_eq hop) (by simp only [hi, hpre, if_true])

end

/-! ### ACQ, REL and FENCE -/

section

variable (hturn : nextTurn s x.val = .slot s1 .syn w ofs)
include hturn

section

variable (hi : itemOf s1 x.val = some i) {k t : Nat} {shared : Bool}
include hi

/-- An ACQ takes effect at once but on a semaphore of its context alone whose value is below its amount (08 R271, R274). -/
theorem execAcq_of_covered (hop : bits w 5 0 = 0x01) (hcheck : acqCheck x.val i s1 w = .ok (k, shared, t))
    (hcovered : shared = false → t ≤ (getSem s1 k).value) :
    execAcq x s = issued x.val (acqEffect i s1 (k, shared, t)) := by
  have hgo : ¬(shared = false ∧ (getSem s1 k).value < t) := fun ⟨hpriv, hlt⟩ =>
    absurd (hcovered hpriv) (Nat.not_le_of_lt hlt)
  exact issueSlot_done hturn (knownOp_syn hop (by decide)) (opIs_of_eq hop) (by simp only [hi, hcheck, if_neg hgo])

/-- An ACQ on a semaphore of its context alone waits for a value that covers it (08 R271). -/
theorem execAcq_of_short (hop : bits w 5 0 = 0x01) (hcheck : acqCheck x.val i s1 w = .ok (k, false, t))
    (hshort : (getSem s1 k).value < t) : execAcq x s = .next (waitSlot s1 x.val 0x0A) :=
  issueSlot_wait hturn (knownOp_syn hop (by decide)) (opIs_of_eq hop) (by
    simp [hi, hcheck, hshort])

/-- A REL never waits (08 R271, R274). -/
theorem execRel_of_checked (hop : bits w 5 0 = 0x02) (hcheck : synCheck x.val i s1 w = .ok (k, shared, t)) :
    execRel x s = issued x.val (semRelease s1 i k t shared) :=
  issueSlot_done hturn (knownOp_syn hop (by decide)) (opIs_of_eq hop) (by
    simp only [hi]
    exact opRes_done hcheck rfl)

end

/-- A FENCE that finds its units done has no effect of its own (07 R232). -/
theorem execFence_of_free (hop : bits w 5 0 = 0x03) (hw : w < 4096)
    (hfree : fenceBusy s1 x.val (bits w 11 6) = false) : execFence x s = issued x.val s1 :=
  issueSlot_done hturn (knownOp_syn hop (by decide)) (opIs_of_eq hop)
    (opRes_done (slotForm_of_lt hw) (by simp [hfree]))

/-- A FENCE waits while a unit that it names is busy (07 R232). -/
theorem execFence_of_busy (hop : bits w 5 0 = 0x03) (hw : w < 4096)
    (hbusy : fenceBusy s1 x.val (bits w 11 6) = true) : execFence x s = .next (waitSlot s1 x.val 0x0D) :=
  issueSlot_wait hturn (knownOp_syn hop (by decide)) (opIs_of_eq hop)
    (opRes_wait (slotForm_of_lt hw) (if_pos hbusy))

end

end

/-- Settles O44: FEED, VENT, GATHER and REL are one operation each, ACQ takes its amount where it is covered, and FENCE
waits alone. -/
theorem moveAndSyncSlotsIssue : Obligations.MoveAndSyncSlotsIssue := by
  intro s s1 x w ofs i hi
  refine ⟨fun hturn => ⟨?feed, ?vent, ?gather, ?prefetched⟩,
    fun hturn => ⟨?acqPrivate, ?acqShared, ?acqWaits, ?relPrivate, ?relShared, ?fenceGoes, ?fenceWaits⟩⟩
  case feed => exact fun _ => execFeed_of_free hturn hi
  case vent => exact fun _ => execVent_of_free hturn hi
  case gather => exact fun _ => execGather_of_free hturn hi
  case prefetched =>
    exact fun hpre => ⟨fun hop => execVent_of_prefetched hturn hi hop hpre,
      fun hop => execGather_of_prefetched hturn hi hop hpre⟩
  case acqPrivate => exact fun _ _ hop hcheck hle => execAcq_of_covered hturn hi hop hcheck fun _ => hle
  case acqShared => exact fun _ _ hop hcheck => execAcq_of_covered hturn hi hop hcheck nofun
  case acqWaits => exact fun _ _ => execAcq_of_short hturn hi
  case relPrivate => exact fun _ _ => execRel_of_checked hturn hi
  case relShared => exact fun _ _ => execRel_of_checked hturn hi
  case fenceGoes => exact execFence_of_free hturn
  case fenceWaits => exact execFence_of_busy hturn

end Sys2Proof.Proofs
end

section
/-! SUPPORT and proof of O48. The pipeline events of the array: what each does where it is due (02 R61, R73, R81, R94,
R98 to R101; 06 R180). -/

namespace Sys2Proof.Proofs

open Sys2Proof Sys2Proof.Machine

/-! ### Promotions -/

section

variable {s s0 : State} {q : Struck}

/-- The next group of the oldest run enters its slot when no earlier operation of the bus path is in its way (02 R73,
R79). -/
theorem execPromotion_of_due {r : Run}
    (hs0 : s0 = updCal s q.cal.val fun k => { k with acc := upsetSlots k.acc q.ups })
    (hrun : openRun (getCal s0 q.cal.val) = some r) (hgo : runWaits (getCal s0 q.cal.val) r = false) :
    execPromotion q s = .next (promoteRun s0 q.cal.val r q.ups) := by
  subst hs0
  simp [execPromotion, hrun, hgo]

/-- Without a run that has promotions left, only the struck positions change. -/
theorem execPromotion_of_none (hs0 : s0 = updCal s q.cal.val fun k => { k with acc := upsetSlots k.acc q.ups })
    (hrun : openRun (getCal s0 q.cal.val) = none) : execPromotion q s = .next s0 := by
  subst hs0
  simp [execPromotion, hrun]

end

/-! ### Compares -/

/-- A group whose compares pass reports nothing (02 R98). -/
theorem compareGroup_of_agree {s : State} {c : Nat} {h : Handed} (hr : missedRows h = []) (hc : missedCols h = []) :
    compareGroup s c h = s := if_pos ⟨hr, hc⟩

/-- A group that misses a row or a column is reported with its mismatch (02 R101). -/
theorem compareGroup_of_miss {s : State} {c : Fin 4} {h : Handed} (hmiss : missedRows h ≠ [] ∨ missedCols h ≠ []) :
    compareGroup s c.val h = detected (updCal s c.val fun k => { k with mismatch := some (mismatchOf s h) })
      { unit := 0x11, cal := some c, ctx := some (Fin.ofNat 64 h.ctx), loc := cellLoc (missedRows h) (missedCols h),
        shared := false, double := false, saveBad := false } := by
  have hnot : ¬(missedRows h = [] ∧ missedCols h = []) := fun ⟨hr, hc⟩ => hmiss.elim (· hr) (· hc)
  rw [compareGroup, if_neg hnot, Fin.ofNat_val_eq_self]

/-- The compares of the oldest group that was handed over report, and the group leaves. -/
theorem execCheckCompare_of_group {s : State} {c : Fin 4} {rows cols : List (Fin 257 × BitVec 88)} {h : Handed}
    {l : List Handed} (hg : (getCal s c.val).groups = h :: l) :
    execCheckCompare c rows cols s = .next (settle (compareGroup
      (setCal s c.val { getCal s c.val with runs := comparedRuns (getCal s c.val).runs, groups := l }) c.val
      (strike h rows cols)) h.ctx) := by
  simp only [execCheckCompare, hg]
  rfl

/-! ### Results in their places -/

section

variable {s : State} {c : Fin 4} {o : Op}

/-- An operation with no registers left reaches its place, behind the earlier runs of the bus path (02 R73, R81). -/
theorem execResultInPlace_of_done {u : Path} (hfirst : firstOp (getCal s c.val) u = some o) (hrest : o.rest = none)
    (hgo : busWaits (getCal s c.val) o = false) : execResultInPlace c u s = .next (placeResult s c.val o) := by
  simp [execResultInPlace, hfirst, hrest, hgo]

/-- The next register of a run is processed once it is free (06 R180). -/
theorem execResultInPlace_of_next {u : Path} {r : LaneRest} {i : Item} {v : VecOp}
    (hfirst : firstOp (getCal s c.val) u = some o) (hrest : o.rest = some r) (hform : restForm s o r = some (i, v))
    (hfree : stepFree ((getCal s c.val).ops.takeWhile fun p => decide (p ≠ o)) o.ctx i v r.m = true) :
    execResultInPlace c u s = .next (processNext s o r i v) := by
  simp only [execResultInPlace, hfirst, hrest, hform, hfree, if_true]

/-- A RECIRC that is first on the row-read path has filled its half (02 R94). -/
theorem execRecircReady_of_first {h : Nat} (hfirst : firstOp (getCal s c.val) .row = some o) (hhalf : o.half = some h) :
    execRecircReady c s = .next (settle (setCal s c.val (fillEnds
      { getCal s c.val with ops := delFirst (fun p => decide (p = o)) (getCal s c.val).ops } h)) o.ctx) := by
  simp only [execRecircReady, hfirst, hhalf]

end

/-- The oldest FEED of a feeder has filled its half (02 R61). -/
theorem execFeedComplete_of_oldest {s : State} {q : Feeder} {f : FeedOp}
    (hfeed : (getCal s q.cal.val).feeds.find? (fun f => decide (f.half < 2) == q.row) = some f) :
    execFeedComplete q s = .next (settle (setCal s q.cal.val (fillEnds
      { getCal s q.cal.val with feeds := delFirst (fun g => decide (g = f)) (getCal s q.cal.val).feeds } f.half))
      f.ctx) := by
  simp only [execFeedComplete, hfeed]

/-- Settles O48: each event does, where it is due, what its rule says. -/
theorem arrayEventsAct : Obligations.ArrayEventsAct := by
  refine ⟨fun s q => ⟨fun r => execPromotion_of_due rfl, execPromotion_of_none rfl⟩, fun s c => ?_⟩
  refine ⟨fun h l rows cols hg => ⟨fun hr hc => ?agree, fun hmiss => ?miss⟩,
    fun u o => execResultInPlace_of_done, fun u o r i v => execResultInPlace_of_next,
    fun o h => execRecircReady_of_first, fun row f => execFeedComplete_of_oldest (q := ⟨c, row⟩)⟩
  case agree => exact (execCheckCompare_of_group hg).trans (by rw [compareGroup_of_agree hr hc])
  case miss => exact (execCheckCompare_of_group hg).trans (by rw [compareGroup_of_miss hmiss])

end Sys2Proof.Proofs
end

section
/-! SUPPORT and proof of O41 and O43. The VEC and SFU slots: the causes of a lane instruction's wait, and the answer
of a slot whose fields are accepted (06 R180, R181, R200; 08 R281, Table 08.4). -/

namespace Sys2Proof.Proofs

open Sys2Proof Sys2Proof.Machine

/-! ### The causes of a wait -/

section

variable {u : Path} {s : State} {x : Nat} {i : Item} {o : VecOp}

/-- Cause 7, a register still due to an earlier result, comes before the unit. -/
theorem vecWait_of_due (hdue : stepFree (getCal s (ctxCal x)).ops x i o 0 = false) : vecWait u x i s o = some 7 :=
  if_pos hdue

/-- Causes 8 and 9, the vector unit and the SFU: it is occupied, or holds a run with registers left. -/
theorem vecWait_of_held (hfree : stepFree (getCal s (ctxCal x)).ops x i o 0 = true)
    (hheld : (pathBusy s x u || unitHeld (getCal s (ctxCal x)) u) = true) :
    vecWait u x i s o = some (if u = .sfu then 9 else 8) := by
  rw [vecWait, if_neg (ne_false_of_eq_true hfree), if_pos hheld]

/-- With its first registers and its unit free, an instruction waits for nothing. -/
theorem vecWait_of_free (hfree : stepFree (getCal s (ctxCal x)).ops x i o 0 = true)
    (hheld : (pathBusy s x u || unitHeld (getCal s (ctxCal x)) u) = false) : vecWait u x i s o = none := by
  rw [vecWait, if_neg (ne_false_of_eq_true hfree), if_neg (ne_true_of_eq_false hheld)]

end

/-! ### Opcodes and fields -/

/-- A VEC slot is known by its opcode alone (07 Table 07.9). -/
theorem knownOp_vec {w o : Nat} (hop : bits w 5 0 = o) (ho : knownOp .vec o = true) : knownOp .vec w = true := by
  have hself : bits o 5 0 = o := by subst hop; simp [bits]
  simpa only [knownOp, hop, hself] using ho

/-- The codes of the SFU slot: the six built-in functions, and the micro-programs (07 R230). -/
theorem knownOp_sfu {w : Nat} (hcode : bits w 4 0 ≤ 5 ∨ 16 ≤ bits w 4 0) : knownOp .sfu w = true := by
  simpa [knownOp] using hcode

/-- Fields that are accepted as an operation whose registers lie in the item's range pass the checks of an issue. -/
theorem laneChecks_ok {form : Except Stop VecOp} {i : Item} {o : VecOp} (hform : form = .ok o)
    (hlanes : vecLanes i o = .ok ()) : (do let o ← form; vecLanes i o; return o) = Except.ok o := by
  subst hform
  show (vecLanes i o >>= fun _ => pure o) = .ok o
  rw [hlanes]
  rfl

/-! ### The answer of a slot -/

/-- The answer `out` of context x's slot with the lane instruction o of unit u: it issues with the state s2, waits for
its first registers, or waits for its unit. -/
def LaneAnswer (u : Path) (x : Nat) (i : Item) (s : State) (o : VecOp) (s2 : State) (out : Out) : Prop :=
  let free := stepFree (getCal s (ctxCal x)).ops x i o 0
  let held := pathBusy s x u || unitHeld (getCal s (ctxCal x)) u
  (free = true → held = false → out = issued x s2) ∧ (free = false → out = .next (waitSlot s x 7)) ∧
    (free = true → held = true → out = .next (waitSlot s x (if u = .sfu then 9 else 8)))

section

variable {s s1 : State} {x w ofs : Nat} {i : Item} {o : VecOp} {form : Item → State → Nat → Except Stop VecOp}

/-- A slot whose answer is an operation that waits as a lane instruction does. -/
theorem laneAnswer_issueSlot {u : Path} {k : SlotK} {mine : Nat → Bool} {f : State → Nat → Nat → Res}
    {chk : Except Stop VecOp} {eff : VecOp → State} (hturn : nextTurn s x = .slot s1 k w ofs)
    (hknown : knownOp k w = true) (hmine : mine w = true) (hf : f s1 w ofs = opRes chk (vecWait u x i s1) eff)
    (hchk : chk = .ok o) : LaneAnswer u x i s1 o (eff o) (issueSlot x k mine f s) := by
  obtain ⟨hissue, hwait⟩ := (issueSlot_of_opRes hturn hknown hmine hf).2 o hchk
  exact ⟨fun hfree hheld => hissue (vecWait_of_free hfree hheld), fun hdue => hwait 7 (vecWait_of_due hdue),
    fun hfree hheld => hwait _ (vecWait_of_held hfree hheld)⟩

/-- A VEC slot of opcode op, answered by the command of op. -/
theorem laneAnswer_vecIssue {op : Nat} (hturn : nextTurn s x = .slot s1 .vec w ofs) (hop : bits w 5 0 = op)
    (hknown : knownOp .vec op = true) (hi : itemOf s1 x = some i) (hform : form i s1 w = .ok o)
    (hlanes : vecLanes i o = .ok ()) : LaneAnswer .vec x i s1 o (vecEffect x ofs i s1 w o) (vecIssue x op form s) :=
  laneAnswer_issueSlot hturn (knownOp_vec hop hknown) (opIs_of_eq hop) (by simp only [hi]) (laneChecks_ok hform hlanes)

/-- An SFU slot whose code is the command's. -/
theorem laneAnswer_sfuIssue {mine : Nat → Bool} (hturn : nextTurn s x = .slot s1 .sfu w ofs)
    (hcode : bits w 4 0 ≤ 5 ∨ 16 ≤ bits w 4 0) (hmine : mine w = true) (hi : itemOf s1 x = some i)
    (hform : form i s1 w = .ok o) (hlanes : vecLanes i o = .ok ()) :
    LaneAnswer .sfu x i s1 o (sfuEffect x ofs i s1 w o) (sfuIssue x mine form s) :=
  laneAnswer_issueSlot hturn (knownOp_sfu hcode) hmine (by simp only [hi]) (laneChecks_ok hform hlanes)

end

/-- Settles O41: down the table, each command is by its definition the issue of its opcode and form, and its opcode is
one of the VEC slot's; every issue then answers alike. -/
theorem vectorSlotsIssue : Obligations.VectorSlotsIssue := by
  intro x r hr s s1 w ofs i o hturn hop hi hform hlanes
  have hexec : exec r.1 = vecIssue x.val r.2.1 r.2.2 :=
    (List.map_inj_left (f := fun r => exec r.1) (g := fun r => vecIssue x.val r.2.1 r.2.2)).mp rfl r hr
  have hknown : knownOp .vec r.2.1 = true := (List.all_eq_true (p := fun r => knownOp .vec r.2.1)).mp
    (by simp [knownOp, bits]) r hr
  show LaneAnswer .vec x.val i s1 o (vecEffect x.val ofs i s1 w o) (exec r.1 s)
  rw [hexec]
  exact laneAnswer_vecIssue hturn hop hknown hi hform hlanes

/-- Settles O43: down the table, each built-in function is by its definition the issue of its code, which is at most 5;
the codes from 16 on are MICRO_PROGRAM's. -/
theorem functionSlotsIssue : Obligations.FunctionSlotsIssue := by
  intro x r hr s s1 w ofs i o hturn hi hlanes
  refine ⟨fun hcode hform => ?builtin, fun hcode hform => ?micro⟩
  case builtin =>
    have hexec : exec r.1 = sfuIssue x.val (fnIs r.2) (builtinForm r.2) :=
      (List.map_inj_left (f := fun r => exec r.1) (g := fun r => sfuIssue x.val (fnIs r.2) (builtinForm r.2))).mp
        rfl r hr
    have hle : r.2 ≤ 5 := of_decide_eq_true ((List.all_eq_true (p := fun r => decide (r.2 ≤ 5))).mp rfl r hr)
    show LaneAnswer .sfu x.val i s1 o (sfuEffect x.val ofs i s1 w o) (exec r.1 s)
    rw [hexec]
    exact laneAnswer_sfuIssue hturn (.inl (hcode.trans_le hle)) (beq_iff_eq.mpr hcode) hi hform hlanes
  case micro => exact laneAnswer_sfuIssue hturn (.inr hcode) (decide_eq_true hcode) hi hform hlanes

end Sys2Proof.Proofs
end

section
/-! SUPPORT and proof of O37, O38 and O39. The SEQ slot: the opcodes it knows, its reserved bits, and what a branch and
a LOOP answer (07 Table 07.4, R215, R218, R220, R223). -/

namespace Sys2Proof.Proofs

open Sys2Proof Sys2Proof.Machine

section

variable {s s1 s2 : State} {x w ofs o used : Nat} {f : State → Nat → Nat → Res}

/-! ### Opcodes and reserved bits -/

/-- A SEQ slot is known by its opcode alone (07 Table 07.4). -/
theorem knownOp_seq (hop : bits w 5 0 = o) (ho : knownOp .seq o = true) : knownOp .seq w = true := by
  have hself : bits o 5 0 = o := by subst hop; simp [bits]
  simpa only [knownOp, hop, hself] using ho

/-- A SEQ slot whose unused bits are 0 answers as its instruction does (07 R215). -/
theorem seqForm_of_zero {r : Res} (hzero : Nat.land w (Nat.xor used 0xFFFFFFFF) = 0) : seqForm used w r = r :=
  if_neg (not_not_intro hzero)

/-- A SEQ slot with an unused bit set halts (07 R215). -/
theorem seqForm_of_nonzero {r : Res} (hzero : Nat.land w (Nat.xor used 0xFFFFFFFF) ≠ 0) :
    seqForm used w r = .halt hReservedField 0 := if_pos hzero

section

variable (hturn : nextTurn s x = .slot s1 .seq w ofs) (hop : bits w 5 0 = o) (ho : knownOp .seq o = true)
include hturn hop ho

/-- A SEQ slot of opcode o, answered by the command of o with an effect. -/
theorem seqSlot_done (hf : f s1 w ofs = .done s2) : issueSlot x .seq (opIs o) f s = issued x s2 :=
  issueSlot_done hturn (knownOp_seq hop ho) (opIs_of_eq hop) hf

/-- A SEQ slot of opcode o, answered by the command of o with a halt. -/
theorem seqSlot_halt {r : Nat} {d : Word} (hf : f s1 w ofs = .halt r d) :
    issueSlot x .seq (opIs o) f s = .next (haltIssue s1 x ofs 0 r d) :=
  issueSlot_halt hturn (knownOp_seq hop ho) (opIs_of_eq hop) hf

end

/-- An opcode that its slot does not know halts the context, whichever command asks (07 R215; log entry 1). -/
theorem issueSlot_unknown {k k' : SlotK} {mine : Nat → Bool} (hturn : nextTurn s x = .slot s1 k w ofs)
    (hunknown : knownOp k w = false) :
    issueSlot x k' mine f s = .next (haltIssue s1 x ofs (slotNo k) (unknownReason k) 0) := by
  simp [issueSlot, hturn, hunknown]

/-! ### Branches -/

section

variable {i : Item} {taken : Bool} (hi : itemOf s1 x = some i)
include hi

/-- A branch in an end bundle halts (07 R223). -/
theorem branch_of_end (hend : isEndBundle s1 x ofs = true) : branch x taken s1 w ofs = .halt hLoopBody 0 := by
  simp [branch, hi, hend]

variable (hend : isEndBundle s1 x ofs = false)
include hend

/-- A branch out of the code halts (07 R218). -/
theorem branch_of_range (hout : (ofs : Int) + 4 * signed 18 (bits w 31 14) < 0 ∨
    ((imgOf s1 i.img).codeSize : Int) ≤ ofs + 4 * signed 18 (bits w 31 14)) :
    branch x taken s1 w ofs = .halt hBranchRange 0 := by
  simp [branch, hi, hend, hout]

/-- A branch within the code but out of the innermost loop halts (07 R223). -/
theorem branch_of_exit {l : LoopE} {r : List LoopE} (hlo : 0 ≤ (ofs : Int) + 4 * signed 18 (bits w 31 14))
    (hhi : (ofs : Int) + 4 * signed 18 (bits w 31 14) < (imgOf s1 i.img).codeSize)
    (hloops : (getCtx s1 x).loops = l :: r) (hexit : (ofs : Int) + 4 * signed 18 (bits w 31 14) < l.start ∨
      (l.endOfs : Int) < ofs + 4 * signed 18 (bits w 31 14)) :
    branch x taken s1 w ofs = .halt hLoopExit 0 := by
  simp [branch, hi, hend, hloops, hexit, not_lt.mpr hlo, not_le.mpr hhi]

/-- A branch that stays within the code and the innermost loop goes to its target if it is taken (07 R218). -/
theorem branch_of_inside {t : Nat} (ht : (t : Int) = (ofs : Int) + 4 * signed 18 (bits w 31 14))
    (hcode : t < (imgOf s1 i.img).codeSize)
    (hloop : ∀ l r, (getCtx s1 x).loops = l :: r → l.start ≤ t ∧ t ≤ l.endOfs) :
    branch x taken s1 w ofs =
      .done (if taken then setCtx s1 x { getCtx s1 x with goto := some (t, false) } else s1) := by
  have hneg : ¬((t : Int) < 0) := by omega
  have hrange : ¬((imgOf s1 i.img).codeSize ≤ t) := not_le.mpr hcode
  cases hl : (getCtx s1 x).loops with
  | nil => cases taken <;> simp [branch, hi, hend, ← ht, hrange, hl, updCtx]
  | cons l r =>
    obtain ⟨hlo, hhi⟩ := hloop l r hl
    cases taken <;> simp [branch, hi, hend, ← ht, hneg, hrange, hl, not_lt.mpr hlo, not_lt.mpr hhi, updCtx]

end

/-- A SEQ slot whose command is a branch that stays within its bounds. -/
theorem seqSlot_branch {i : Item} {taken : Bool} {t : Nat} (hturn : nextTurn s x = .slot s1 .seq w ofs)
    (hop : bits w 5 0 = o) (ho : knownOp .seq o = true) (hi : itemOf s1 x = some i)
    (hend : isEndBundle s1 x ofs = false) (ht : (t : Int) = (ofs : Int) + 4 * signed 18 (bits w 31 14))
    (hcode : t < (imgOf s1 i.img).codeSize)
    (hloop : ∀ l r, (getCtx s1 x).loops = l :: r → l.start ≤ t ∧ t ≤ l.endOfs)
    (hf : f s1 w ofs = branch x taken s1 w ofs) :
    issueSlot x .seq (opIs o) f s =
      if taken then issued x (setCtx s1 x { getCtx s1 x with goto := some (t, false) }) else issued x s1 := by
  rw [seqSlot_done hturn hop ho (hf.trans (branch_of_inside hi hend ht hcode hloop)), apply_ite (issued x)]

/-! ### LOOP and LEAVE -/

/-- LOOP with a body that stays within its bounds (07 R220): the body is stepped over, a fifth loop halts, or the loop
starts with its index counter at 0. -/
theorem seqLoop_of_inside {i : Item} {b : Bun} (hi : itemOf s1 x = some i) (hbun : (getCtx s1 x).bun = some b)
    (hend : isEndBundle s1 x ofs = false) (hbody : ofs + 4 * b.len ≤ ofs + 4 * bits w 31 15)
    (hcode : ofs + 4 * bits w 31 15 < (imgOf s1 i.img).codeSize)
    (hloop : ∀ l r, (getCtx s1 x).loops = l :: r → ofs + 4 * bits w 31 15 ≤ l.endOfs) :
    let c := getCtx s1 x
    let count := (ctr c (bits w 13 10)).toNat
    let start := fun idx => setCtx s1 x
      { c with loops := ⟨ofs + 4 * b.len, ofs + 4 * bits w 31 15, count, 0, idx, false⟩ :: c.loops }
    seqLoop x s1 w ofs =
      if count = 0 then .done (setCtx s1 x { c with goto := some (ofs + 4 * bits w 31 15, true) })
      else if 4 ≤ c.loops.length then .halt hLoopDepth 0
      else .done (if bit w 14 then putC (start (some (bits w 9 6))) x (bits w 9 6) 0 else start none) := by
  intro c count start
  have hbody' : ¬(bits w 31 15 < b.len) := by omega
  have hrange : ¬((imgOf s1 i.img).codeSize ≤ ofs + 4 * bits w 31 15) := not_le.mpr hcode
  cases hl : c.loops with
  | nil =>
    cases hx : bit w 14 <;>
      simp [seqLoop, hi, hbun, hend, hbody', hrange, hl, hx, updCtx, seqC, c, count, start]
  | cons l r =>
    have hstay : ¬(l.endOfs < ofs + 4 * bits w 31 15) := not_lt.mpr (hloop l r hl)
    cases hx : bit w 14 <;>
      simp [seqLoop, hi, hbun, hend, hbody', hrange, hl, hstay, hx, updCtx, seqC, c, count, start]

/-- LEAVE without a loop halts (07 R224). -/
theorem seqLeave_of_none (hloops : (getCtx s1 x).loops = []) : seqLeave x s1 w ofs = .halt hLoopExit 0 := by
  simp only [seqLeave, hloops]

/-- LEAVE with its comparator 1 takes the innermost loop off the stack and steps over its end bundle (07 R224). -/
theorem seqLeave_of_loop {l : LoopE} {r : List LoopE} (hloops : (getCtx s1 x).loops = l :: r) :
    seqLeave x s1 w ofs = .done (if (getCtx s1 x).k.getLsbD (bits w 8 6) then
      setCtx s1 x { getCtx s1 x with loops := r, goto := some (l.endOfs, true) } else s1) := by
  simp only [seqLeave, hloops]
  cases (getCtx s1 x).k.getLsbD (bits w 8 6) <;> rfl

end

/-- Settles O37: each command is by its definition one opcode, its unused bits and one effect. -/
theorem sequencerResults : Obligations.SequencerResults := by
  refine ⟨fun s s1 x hturn => ?empty, fun s s1 x w ofs hturn => ⟨?_, ?_, ?_, fun hop => ?addi, ?_, ?_, ?_, ?_, ?_,
    ?_, ?_, ?_, ?_, ?_, ?_, fun i hop hzero hi => ?stop⟩⟩
  case empty => simp only [exec, execBundleNop, hturn]
  case addi =>
    show execAddi x s = _
    exact seqSlot_done hturn hop (by decide) rfl
  case stop =>
    refine seqSlot_done hturn hop (by decide) ((seqForm_of_zero hzero).trans ?_)
    simp only [hi]
  all_goals exact fun hop hzero => seqSlot_done hturn hop (by decide) (seqForm_of_zero hzero)

/-- Settles O38: a branch, a LOOP and a LEAVE each answer what they do within their bounds. -/
theorem branchesAndLoopsRun : Obligations.BranchesAndLoopsRun := by
  intro s s1 x w ofs i hturn hi hend
  refine ⟨fun t ht hcode hloop => ⟨fun hop hzero => ?br, fun hop hzero => ?brt, fun hop hzero => ?brf⟩,
    fun b hop hbun hbody hcode hloop => ?loop, fun l r hop hzero hloops => ?leave⟩
  case br =>
    exact (seqSlot_branch hturn hop (by decide) hi hend ht hcode hloop (seqForm_of_zero hzero)).trans (if_pos rfl)
  case brt => exact seqSlot_branch hturn hop (by decide) hi hend ht hcode hloop (seqForm_of_zero hzero)
  case brf =>
    refine (seqSlot_branch hturn hop (by decide) hi hend ht hcode hloop (seqForm_of_zero hzero)).trans ?_
    cases (getCtx s1 x.val).k.getLsbD (bits w 8 6) <;> rfl
  case loop =>
    have hanswer := seqLoop_of_inside hi hbun hend hbody hcode hloop
    refine ⟨fun hcount => ?_, fun hcount hdepth hidx => ?_, fun hcount hdepth hidx => ?_⟩ <;>
      refine seqSlot_done hturn hop (by decide) (hanswer.trans ?_)
    · exact if_pos hcount
    all_goals rw [if_neg hcount, if_neg (not_le.mpr hdepth), hidx]; rfl
  case leave =>
    refine (seqSlot_done hturn hop (by decide) ((seqForm_of_zero hzero).trans (seqLeave_of_loop hloops))).trans ?_
    exact apply_ite (issued x.val) _ _ _

/-- Settles O39: an unknown opcode, an unused bit, and the halts of a branch, a LEAVE and a LOOP. -/
theorem slotsHaltByName : Obligations.SlotsHaltByName := by
  intro s s1 x w ofs
  refine ⟨fun k hturn hunknown => issueSlot_unknown hturn hunknown, fun hturn r hr hop hzero => ?reserved,
    fun i hturn hi r hr hop hzero => ?branch, fun hturn hop hzero hloops => ?leave,
    fun i b hturn hop hi hbun hend hbody hcode hloop hcount hdepth => ?loop⟩
  case reserved =>
    simp only [List.mem_cons, List.not_mem_nil, or_false] at hr
    rcases hr with rfl | rfl | rfl | rfl | rfl | rfl | rfl | rfl | rfl | rfl | rfl | rfl | rfl | rfl | rfl | rfl | rfl |
      rfl | rfl <;> exact seqSlot_halt hturn hop (by simp [knownOp, bits]) (seqForm_of_nonzero hzero)
  case branch =>
    have hanswer : ∀ c, (∀ taken, branch x.val taken s1 w ofs = .halt c 0) →
        exec r.1 s = .next (haltIssue s1 x.val ofs 0 c 0) := by
      intro c hc
      simp only [List.mem_cons, List.not_mem_nil, or_false] at hr
      rcases hr with rfl | rfl | rfl <;>
        exact seqSlot_halt hturn hop (by simp [knownOp, bits]) ((seqForm_of_zero hzero).trans (hc _))
    exact ⟨fun hend => hanswer _ fun _ => branch_of_end hi hend,
      fun hend hout => hanswer _ fun _ => branch_of_range hi hend hout,
      fun l q hend hlo hhi hloops hexit => hanswer _ fun _ => branch_of_exit hi hend hlo hhi hloops hexit⟩
  case leave =>
    exact seqSlot_halt hturn hop (by decide) ((seqForm_of_zero hzero).trans (seqLeave_of_none hloops))
  case loop =>
    have hanswer := seqLoop_of_inside hi hbun hend hbody hcode hloop
    refine seqSlot_halt hturn hop (by decide) (hanswer.trans ?_)
    exact (if_neg hcount).trans (if_pos hdepth)

end Sys2Proof.Proofs
end

section
/-! SUPPORT and proof of O46 and O47. What the issue of a slot leaves of its bundle: what stands last in a context, the
item that runs on undisturbed, and the end of the bundle (07 R210, R212, R221). -/

namespace Sys2Proof.Proofs

open Sys2Proof Sys2Proof.Machine

/-! ### The last write counts -/

/-- A write below every key of a table stands in front. -/
theorem tput_of_above {α : Type} [DecidableEq α] {d v : α} {k : Nat} {t : Tab α} (h : above k t = true) :
    tput d k v t = if v = d then t else (k, v) :: t := by
  cases t with
  | nil => rfl
  | cons e r =>
    have hlt : k < e.1 := by simpa using (List.all_eq_true.mp h) e List.mem_cons_self
    simp [tput, hlt]

/-- Of two writes of one entry the second counts. -/
theorem tput_tput_same {α : Type} [DecidableEq α] (d : α) (k : Nat) (u v : α) (t : Tab α) (h : twf d t = true) :
    tput d k v (tput d k u t) = tput d k v t := by
  induction t with
  | nil => by_cases hu : u = d <;> simp [tput, hu]
  | cons e r ih =>
    obtain ⟨k', v'⟩ := e
    obtain ⟨-, ha, hr⟩ := (twf_cons d k' v' r).mp h
    rcases lt_trichotomy k k' with hlt | rfl | hgt
    · by_cases hu : u = d <;> simp [tput, hlt, hu]
    · by_cases hu : u = d
      · simp [tput, hu, tput_of_above ha]
      · simp [tput, hu]
    · have hnot : ¬(k < k') := not_lt_of_gt hgt
      simp [tput, hnot, Nat.ne_of_gt hgt, ih hr]

/-- Of two writes of one context the second counts. -/
theorem setCtx_setCtx_same {s : State} {x : Nat} {c d : Ctx} (h : twf {} s.ctxs = true) :
    setCtx (setCtx s x c) x d = setCtx s x d := by
  simp only [setCtx, tput_tput_same {} x c d s.ctxs h]

/-! ### An undisturbed context -/

section

variable {s t : State} {x : Nat} {i : Item}

/-- An executing item is one of the work items. -/
theorem mem_of_itemOf (hi : itemOf s x = some i) : i ∈ s.items := List.mem_of_find?_eq_some hi

/-- An element of a list in which a takes another's place is a or was there before. -/
theorem mem_updFirst {α : Type} {p : α → Bool} {a b : α} {l : List α} (h : b ∈ updFirst p (fun _ => a) l) :
    b = a ∨ b ∈ l := by
  induction l with
  | nil => exact .inr h
  | cons e r ih =>
    unfold updFirst at h
    split at h
    · exact (List.mem_cons.mp h).imp_right (List.mem_cons_of_mem e)
    · rcases List.mem_cons.mp h with rfl | h
      · exact .inr List.mem_cons_self
      · exact (ih h).imp_right (List.mem_cons_of_mem e)

/-- Whether a context runs on undisturbed depends on the work items alone. -/
theorem undisturbed_of_items (h : Undisturbed s x) (ht : t.items = s.items) : Undisturbed t x :=
  fun i hi => h i (ht ▸ hi)

/-- Putting back an item that is there disturbs nothing. -/
theorem undisturbed_setItem (h : Undisturbed s x) (hi : i ∈ s.items) : Undisturbed (setItem s i) x := by
  intro j hj
  rcases mem_updFirst hj with rfl | hj
  · exact h j hi
  · exact h j hj

/-- A context that runs on undisturbed does not settle. -/
theorem settle_of_undisturbed (h : Undisturbed s x) : settle s x = s := by
  unfold settle
  cases hw : winItemOf s x with
  | none => rfl
  | some i =>
    have hfound : (inWindow i && i.ctx == x) = true := List.find?_some (p := fun i => inWindow i && i.ctx == x) hw
    have hctx : i.ctx = x := eq_of_beq (Bool.and_eq_true_iff.mp hfound).2
    obtain ⟨hreason, hstop⟩ := h i (List.mem_of_find?_eq_some hw) hctx
    simp [hreason, hstop]

/-- A slot that leaves its context undisturbed has issued without a completion. -/
theorem issued_of_undisturbed (hend : endSlot s x = t) (h : Undisturbed t x) : issued x s = .next t := by
  rw [issued, hend, settle_of_undisturbed h]

end

/-! ### The issue of a slot -/

/-- What is left of bundle b when its slot j has issued before the slots `rest`. -/
def leftBun (b : Bun) (j : SlotK) (rest : List SlotK) : Bun :=
  { b with rest := rest, words := b.words.drop (slotWords j) }

/-- A context in which a slot has issued and left b of its bundle. -/
def afterSlot (c : Ctx) (b : Bun) : Ctx := { c with bun := some b, issued := true, cause := 14 }

section

variable {s : State} {x : Nat} {b : Bun} {j k : SlotK} {rest : List SlotK}

/-- After a slot that is not the last, the context goes on with what is left of the bundle. -/
theorem endSlot_of_more (hbun : (getCtx s x).bun = some b) (hrest : b.rest = j :: k :: rest) :
    endSlot s x = setCtx s x (afterSlot (getCtx s x) (leftBun b j (k :: rest))) := by
  simp [endSlot, afterSlot, leftBun, hbun, hrest]

/-- The last slot ends its bundle, unless it has halted the context. -/
theorem endSlot_of_last (hbun : (getCtx s x).bun = some b) (hrest : b.rest = [j])
    (hhalt : (getCtx s x).halted = false) :
    endSlot s x = endBundle (setCtx s x (afterSlot (getCtx s x) (leftBun b j []))) x (leftBun b j []) := by
  simp [endSlot, afterSlot, leftBun, hbun, hrest, hhalt]

/-- The issue of a slot that is not the last and whose effect is a write into its context. -/
theorem issued_updCtx_of_more {g : Ctx → Ctx} (hwf : twf {} s.ctxs = true) (hrun : Undisturbed s x)
    (hbun : (g (getCtx s x)).bun = some b) (hrest : b.rest = j :: k :: rest) :
    issued x (updCtx s x g) = .next (setCtx s x (afterSlot (g (getCtx s x)) (leftBun b j (k :: rest)))) := by
  have hget : getCtx (updCtx s x g) x = g (getCtx s x) := getCtx_setCtx_same s x _ hwf
  refine issued_of_undisturbed ?_ (undisturbed_of_items hrun rfl)
  rw [endSlot_of_more (hget ▸ hbun) hrest, hget, updCtx, setCtx_setCtx_same hwf]

end

/-! ### A SEQ slot that is not the last of its bundle -/

/-- What a SEQ slot with the outcome `out` leaves of s, where the slots k :: rest of the bundle b of context x come
after its slot j: it writes at most the counter cd, or at most the comparator kd. -/
def SlotFrame (s : State) (x : Nat) (b : Bun) (j k : SlotK) (rest : List SlotK) (counter : Bool) (cd kd : Nat)
    (out : Out) : Prop :=
  ∃ t, out = .next t ∧ let c := getCtx s x; let d := getCtx t x
    (∀ n, (n ≠ cd ∨ counter = false) → tget 0 n d.c = tget 0 n c.c) ∧
    (∀ n, n < 8 → (n ≠ kd ∨ counter = true) → d.k.getLsbD n = c.k.getLsbD n) ∧
    t = setCtx s x { c with
      c := d.c, k := d.k, issued := true, cause := 14,
      bun := some { b with rest := k :: rest, words := b.words.drop (slotWords j) } } ∧
    ∀ y, y ≠ x → getCtx t y = getCtx s y

/-- A comparator keeps its value when another is written. -/
theorem getLsbD_writeBit_other {m : BitVec 8} {n d : Nat} {v : Bool} (hn : n < 8) (hne : n ≠ d) :
    (if v then m ||| BitVec.ofNat 8 (2 ^ d) else m &&& ~~~(BitVec.ofNat 8 (2 ^ d))).getLsbD n = m.getLsbD n := by
  have hbit : (BitVec.ofNat 8 (2 ^ d)).getLsbD n = false := by
    rw [BitVec.getLsbD_ofNat, Nat.testBit_two_pow_of_ne hne.symm, Bool.and_false]
  cases v
  · rw [if_neg Bool.false_ne_true, BitVec.getLsbD_and, BitVec.getLsbD_not, hbit, decide_eq_true hn, Bool.not_false,
      Bool.and_true, Bool.and_true]
  · rw [if_pos rfl, BitVec.getLsbD_or, hbit, Bool.or_false]

section

variable {s : State} {x : Nat} {b : Bun} {j k : SlotK} {rest : List SlotK} {counter : Bool} {cd kd : Nat} {out : Out}
  (hwf : twf {} s.ctxs = true) (hrun : Undisturbed s x) (hbun : (getCtx s x).bun = some b)
  (hrest : b.rest = j :: k :: rest)
include hwf hrun hbun hrest

/-- The frame of a slot whose effect is a write of the context's counters cs and comparators ks. -/
theorem slotFrame_of_writes {cs : Tab Word} {ks : BitVec 8}
    (hout : out = issued x (updCtx s x fun c => { c with c := cs, k := ks }))
    (hcs : ∀ n, (n ≠ cd ∨ counter = false) → tget 0 n cs = tget 0 n (getCtx s x).c)
    (hks : ∀ n, n < 8 → (n ≠ kd ∨ counter = true) → ks.getLsbD n = (getCtx s x).k.getLsbD n) :
    SlotFrame s x b j k rest counter cd kd out := by
  refine ⟨_, hout.trans (issued_updCtx_of_more hwf hrun hbun hrest), ?_⟩
  intro c d
  have hd : d = _ := getCtx_setCtx_same s x _ hwf
  rw [hd]
  exact ⟨hcs, hks, rfl, fun y hy => getCtx_setCtx_other s x y _ hy⟩

/-- A slot that writes a counter changes that counter alone. -/
theorem slotFrame_putC {v : Word} (hout : out = issued x (putC s x cd v)) :
    SlotFrame s x b j k rest true cd kd out :=
  slotFrame_of_writes hwf hrun hbun hrest hout
    (fun n hn => tget_tput_other 0 n cd v _ (hn.resolve_right (by decide))) fun _ _ _ => rfl

/-- A slot that writes a comparator changes that comparator alone. -/
theorem slotFrame_putK {v : Bool} (hout : out = issued x (putK s x kd v)) :
    SlotFrame s x b j k rest false cd kd out :=
  slotFrame_of_writes hwf hrun hbun hrest hout (fun _ _ => rfl)
    fun n hlt hn => getLsbD_writeBit_other hlt (hn.resolve_right (by decide))

end

/-- Settles O46: down the table, the counter or the comparator that O37 says is the slot's only write. -/
theorem sequencerSlotFrame : Obligations.SequencerSlotFrame := by
  intro x r hr s s1 w ofs b j k rest hturn hop hzero hrun hwf hbun hrest _
  have hC := fun v (h : exec r.1 s = issued x.val (putC s1 x.val (bits w 9 6) v)) =>
    slotFrame_putC (kd := bits w 8 6) hwf hrun hbun hrest h
  have hK := fun v (h : exec r.1 s = issued x.val (putK s1 x.val (bits w 8 6) v)) =>
    slotFrame_putK (cd := bits w 9 6) hwf hrun hbun hrest h
  obtain ⟨-, hseq⟩ := sequencerResults
  obtain ⟨-, hldi, hldih, haddi, hadd, hsub, hand, hor, hshli, hshri, hcmp, hcmpi, hrdastat, -⟩ :=
    hseq s s1 x w ofs hturn
  simp only [List.mem_cons, List.not_mem_nil, or_false] at hr
  rcases hr with rfl | rfl | rfl | rfl | rfl | rfl | rfl | rfl | rfl | rfl | rfl | rfl
  exacts [hC _ (hldi hop hzero), hC _ (hldih hop hzero), hC _ (haddi hop), hC _ (hadd hop hzero),
    hC _ (hsub hop hzero), hC _ (hand hop hzero), hC _ (hor hop hzero), hC _ (hshli hop hzero), hC _ (hshri hop hzero),
    hK _ (hcmp hop hzero), hK _ (hcmpi hop hzero), hC _ (hrdastat hop hzero)]

/-! ### The last slot of a bundle -/

section

variable {s : State} {x : Nat} {i : Item} {b : Bun}

/-- Without a loop that ends at a bundle, its end goes back to no loop. -/
theorem loopBack_of_outside {ofs : Nat} {ls : List LoopE} (h : ls.all (fun l => l.endOfs != ofs) = true) :
    loopBack ofs ls = (none, ls, none) := by
  cases ls with
  | nil => rfl
  | cons l r =>
    have hne : l.endOfs ≠ ofs := by simpa using (List.all_eq_true.mp h) l List.mem_cons_self
    simp [loopBack, hne]

/-- A bundle without a yield point makes no image switch. -/
theorem switchAt_of_plain {c : Ctx} (h : b.yield = false) : switchAt s i b c = none := if_pos (.inl h)

/-- The end of a bundle without a yield point, in a context that stands as c, without a loop that ends there. -/
theorem endBundle_setCtx_of_plain {c : Ctx} (hwf : twf {} s.ctxs = true) (hi : itemOf s x = some i)
    (hyield : b.yield = false) (hloops : c.loops.all (fun l => l.endOfs != b.ofs) = true) :
    endBundle (setCtx s x c) x b = setItem (setCtx s x { c with
      pc := (c.goto.getD (b.ofs + 4 * b.len, false)).1, stepOver := (c.goto.getD (0, false)).2, bun := none,
      goto := none, bundles := c.bundles + 1, beat := timeNow s, issued := true, cause := 14,
      trace := (c.trace ++ [(b.ofs, i.img, s.clk)]).drop (c.trace.length - 63) }) i := by
  have hget : getCtx (setCtx s x c) x = c := getCtx_setCtx_same s x c hwf
  have hitem : itemOf (setCtx s x c) x = some i := hi
  have hswitch : (if i.ended then none else switchAt (setCtx s x c) i b c) = none := by
    rw [switchAt_of_plain hyield, ite_self]
  cases hgoto : c.goto <;>
    simp [endBundle, hitem, hget, loopBack_of_outside hloops, hswitch, hyield, hgoto, setCtx_setCtx_same hwf, timeNow]

end

/-- Settles O47: the last slot ends its bundle, whose end makes no loop and no image switch. -/
theorem bundleEndAdvances : Obligations.BundleEndAdvances := by
  intro s x i b j hrun hi hbun hrest hyield hhalt hwf hloops
  refine issued_of_undisturbed ?_ (undisturbed_setItem (undisturbed_of_items hrun rfl) (mem_of_itemOf hi))
  exact (endSlot_of_last hbun hrest hhalt).trans (endBundle_setCtx_of_plain hwf hi hyield hloops)

end Sys2Proof.Proofs
end

section
/-! SUPPORT and proof of O45. Entering a bundle: what the next slot says of the state it stands in, and what a request
for a code line changes (07 R209, R212, R223, R242). -/

namespace Sys2Proof.Proofs

open Sys2Proof Sys2Proof.Machine

/-! ### Requests for a line -/

/-- Caldera c's request for a line stands. -/
def requested (s : State) (c : Nat) (img : BitVec 16) (line : Nat) : State :=
  setCal s c { getCal s c with fetches := (getCal s c).fetches ++ [⟨img, line, 0⟩] }

section

variable (s : State) (c : Nat) (img : BitVec 16) (line : Nat)

/-- A line is asked for at most once, and of the backing store only when it can be read there (07 R242, R243). -/
theorem askLine_cases : askLine s c img line = s ∨ askLine s c img line = requested s c img line ∨
    ∃ p, linePlace (requested s c img line) img line = some p ∧
      askLine s c img line = addJob (requested s c img line) (.fetch c img line) [readBursts p.1 p.2 256] := by
  unfold askLine
  dsimp only
  split
  · exact .inl rfl
  · split
    · exact .inr (.inl rfl)
    · unfold readLine
      split
      · exact .inr (.inl rfl)
      · exact .inr (.inr ⟨_, ‹_›, rfl⟩)

/-- A request for a line leaves the contexts alone. -/
theorem askLine_ctxs : (askLine s c img line).ctxs = s.ctxs := by
  obtain h | h | ⟨p, -, h⟩ := askLine_cases s c img line
  · rw [h]
  · rw [h]; rfl
  · obtain ⟨_, _, _, _, _, hports⟩ := portsOnly_addJob (requested s c img line) (.fetch c img line)
      [readBursts p.1 p.2 256]
    rw [h, hports]; rfl

/-- Beside its ports, a request for a line changes the Calderas as it stands. -/
theorem askLine_cals : (askLine s c img line).cals = s.cals ∨
    (askLine s c img line).cals = (requested s c img line).cals := by
  obtain h | h | ⟨p, -, h⟩ := askLine_cases s c img line
  · exact .inl (by rw [h])
  · exact .inr (by rw [h])
  · exact .inr (by rw [h, addJob_cals])

end

/-! ### Calderas that differ in their fetches -/

theorem sameButFetch_refl (k : Cal) : SameButFetch k k := ⟨_, _, rfl⟩

theorem sameButFetch_trans {k k' k'' : Cal} (h : SameButFetch k k') (h' : SameButFetch k' k'') :
    SameButFetch k k'' := by
  obtain ⟨_, _, rfl⟩ := h
  obtain ⟨_, _, rfl⟩ := h'
  exact ⟨_, _, rfl⟩

/-- Every Caldera stands as before when one is set that differs in its fetches. -/
theorem sameButFetch_setCal {s : State} {c : Nat} {v : Cal} (hwf : twf {} s.cals = true)
    (hv : SameButFetch (getCal s c) v) (y : Nat) : SameButFetch (getCal s y) (getCal (setCal s c v) y) := by
  rw [getCal_setCal s c y v hwf]
  split
  · subst y
    exact hv
  · exact sameButFetch_refl _

theorem sameButFetch_touchLines {s : State} (hwf : twf {} s.cals = true) (c : Nat) (img : BitVec 16) (ofs n y : Nat) :
    SameButFetch (getCal s y) (getCal (touchLines s c img ofs n) y) :=
  sameButFetch_setCal hwf ⟨_, _, rfl⟩ y

theorem sameButFetch_askLine {s : State} (hwf : twf {} s.cals = true) (c : Nat) (img : BitVec 16) (line y : Nat) :
    SameButFetch (getCal s y) (getCal (askLine s c img line) y) := by
  unfold getCal
  obtain h | h := askLine_cals s c img line <;> rw [h]
  · exact sameButFetch_refl _
  · exact sameButFetch_setCal hwf ⟨_, _, rfl⟩ y

/-! ### The next slot of a context -/

/-- A context that stands at the bundle b (07 R209, R212, R223). -/
def entered (c : Ctx) (b : Bun) : Ctx :=
  { c with pc := b.ofs, stepOver := false, bun := some b, cPrev := c.c, goto := none, dbgStep := false,
           loops := meetEnds c.loops b.ofs }

/-- Context x stands at the bundle b of an image, whose lines are the most recent of the cache (07 R241). -/
def atBundle (s : State) (x : Nat) (img : BitVec 16) (b : Bun) : State :=
  touchLines (setCtx s x (entered (getCtx s x) b)) (ctxCal x) img b.ofs (4 * b.len)

section

variable {s s1 : State} {x pc w ofs cs : Nat} {img : BitVec 16} {k : SlotK} {b : Bun}

/-- The next slot inside a bundle is the first that is left of it. -/
theorem turnIn_slot (h : turnIn s b = .slot s1 k w ofs) : s1 = s ∧ b.ofs = ofs ∧ b.rest.head? = some k := by
  unfold turnIn at h
  split at h
  · cases h
  · cases h
    exact ⟨rfl, rfl, by simp [*]⟩

/-- A slot of a bundle that is entered: the context stands at the bundle, and the next line may be asked for. -/
theorem enterBundle_slot (h : enterBundle s x pc img cs = .slot s1 k w ofs) :
    ∃ b, b.ofs = ofs ∧ b.rest.head? = some k ∧ b.outer = (getCtx s x).loops.isEmpty ∧
      (s1 = atBundle s x img b ∨ s1 = askLine (atBundle s x img b) (ctxCal x) img (ofs / 256 + 1)) := by
  unfold enterBundle at h
  dsimp only at h
  iterate 5
    split at h
    · cases h
  obtain ⟨rfl, rfl, hhead⟩ := turnIn_slot h
  refine ⟨_, rfl, hhead, rfl, ?_⟩
  split
  · exact .inl rfl
  · exact .inr rfl

/-- Stepping over a bundle leads to no slot. -/
theorem overBundle_no_slot {c : Nat} : overBundle s c img cs pc ≠ .error (.slot s1 k w ofs) := by
  unfold overBundle
  repeat' split
  all_goals simp

/-- What has the next slot: the bundle that the context is inside, or one that it enters. -/
theorem nextTurn_slot (h : nextTurn s x = .slot s1 k w ofs) : ∃ i, itemOf s x = some i ∧
    ((∃ b, (getCtx s x).bun = some b ∧ turnIn s b = .slot s1 k w ofs) ∨
      (getCtx s x).bun = none ∧ ∃ pc, enterBundle s x pc i.img (imgOf s i.img).codeSize = .slot s1 k w ofs) := by
  unfold nextTurn at h
  split at h
  · cases h
  next i hi =>
    refine ⟨i, hi, ?_⟩
    dsimp only at h
    split at h
    · cases h
    split at h
    next b hbun => exact .inl ⟨b, hbun, h⟩
    next hbun =>
      refine .inr ⟨hbun, ?_⟩
      split at h
      · cases h
      split at h
      · split at h
        next t hover => exact absurd (h ▸ hover) overBundle_no_slot
        next pc hover => exact ⟨pc, h⟩
      · exact ⟨_, h⟩

/-- Standing at a bundle is the one change of the contexts. -/
theorem atBundle_or_askLine_ctxs {line : Nat}
    (h : s1 = atBundle s x img b ∨ s1 = askLine (atBundle s x img b) (ctxCal x) img line) :
    s1.ctxs = tput {} x (entered (getCtx s x) b) s.ctxs := by
  rcases h with rfl | rfl
  · rfl
  · exact askLine_ctxs ..

/-- Standing at a bundle, and asking for a line, changes the fetches of the Calderas alone. -/
theorem sameButFetch_of_entry {line : Nat} (hwf : twf {} s.cals = true)
    (h : s1 = atBundle s x img b ∨ s1 = askLine (atBundle s x img b) (ctxCal x) img line) (y : Nat) :
    SameButFetch (getCal s y) (getCal s1 y) := by
  have hat : SameButFetch (getCal s y) (getCal (atBundle s x img b) y) :=
    sameButFetch_touchLines (s := setCtx s x (entered (getCtx s x) b)) hwf ..
  rcases h with rfl | rfl
  · exact hat
  · exact sameButFetch_trans hat (sameButFetch_askLine (twf_tput _ _ _ _ hwf) ..)

end

/-- Settles O45: a context goes on inside its bundle, or stands at the one it enters, and the request for the next line
adds nothing but a request. -/
theorem bundleEntryFrame : Obligations.BundleEntryFrame := by
  refine ⟨fun s s1 x k w ofs hsound hturn => ?entry, askLine_cases⟩
  obtain ⟨-, -, -, -, -, hctxs, hcals, -⟩ := hsound
  obtain ⟨i, hi, ⟨b, hbun, hin⟩ | ⟨hbun, pc, henter⟩⟩ := nextTurn_slot hturn
  · obtain ⟨rfl, rfl, -⟩ := turnIn_slot hin
    refine ⟨fun b' hb' => ?_, fun hnone => ?_⟩
    · obtain rfl : b = b' := Option.some.inj (hbun.symm.trans hb')
      exact ⟨rfl, rfl⟩
    · exact absurd (hbun.symm.trans hnone) (Option.some_ne_none b)
  · obtain ⟨b, rfl, hhead, houter, hs1⟩ := enterBundle_slot henter
    have hput := atBundle_or_askLine_ctxs hs1
    refine ⟨fun b' hb' => absurd (hb'.symm.trans hbun) (Option.some_ne_none b'), fun _ => ⟨fun y hy => ?_,
      sameButFetch_of_entry hcals hs1, i, b, hi, rfl, hhead, houter, ?_, hs1⟩⟩
    · rw [getCtx, hput, tget_tput_other _ _ _ _ _ hy, getCtx]
    · rw [getCtx, hput, tget_tput_same _ _ _ _ hctxs]
      rfl

end Sys2Proof.Proofs
end

section
/-! SUPPORT and proof of O21. DESC_WRITE, the reads that it waits for, the writes that a context puts off, and a halt
request (07 R239, R257; 09 R298, R305). -/

namespace Sys2Proof.Proofs

open Sys2Proof Sys2Proof.Machine

/-! ### Reads of a region -/

section

variable {s : State} {n k : Nat} {h : BitVec 16} {o z : Nat} {u : User} {host : Bool} {rs : List (Nat × Nat)}

/-- A mailbox that reads already goes on with its reads (09 R298). -/
theorem regGot_of_reads (hwait : (getMb s n).wait = .reads) :
    regGot s n k h o z =
      fwRead s (.mbox n k) (getRegion s (regIdx h)).host [((getRegion s (regIdx h)).base + o, z)] := by
  simp only [regGot, if_pos hwait]

/-- A read for which no job stands starts one. -/
theorem fwRead_of_none (hjob : jobOf s u = none) :
    fwRead s u host rs = .wait (addJob s u [rs.flatMap fun r => readBursts host r.1 r.2]) := by
  simp only [fwRead, hjob]

/-- A read for which a job stands answers when the job is done. -/
theorem fwRead_of_job {j : Job} (hjob : jobOf s u = some j) :
    fwRead s u host rs = if jobDone s u = false then .wait s else if j.err then .bad else .here j.rx := by
  simp only [fwRead, hjob]

end

/-- A mailbox command that reads a region when its checks have passed: it is not answered while it waits, acts on the
bytes when they are here, and is refused after a port fault (09 R298). -/
theorem eci_of_regRead {s : State} {m : Mb} {op k : Nat} {h : BitVec 16} {o z : Nat}
    {g : State → Nat → Nat → Except Refused Ans} {f : Mem → Except Refused Ans} (hready : cmdReady op m.val s)
    (hlisted : listedOp op = true) (hg : g s m.val (partOf s m.val) = regRead s m.val k h o z f) :
    (∀ t, regGot s m.val k h o z = .wait t → eci op m g s = .next t) ∧
    (∀ d a, regGot s m.val k h o z = .here d → f d = .ok a → eci op m g s = .next (answered m.val a)) ∧
    (regGot s m.val k h o z = .bad →
      let st := if (getRegion s (regIdx h)).host = true ∧ hostUp s = false then stHostLost else stFaulted
      eci op m g s = .next (respond s m.val st 0 [])) := by
  refine ⟨fun t hwait => ?_, fun d a hhere ha => ?_, fun hbad => ?_⟩
  · exact eci_ok (a := .silent t) hready hlisted (hg.trans (by simp only [regRead, hwait]))
  · exact eci_ok hready hlisted (hg.trans (by simp only [regRead, hhere, ha]))
  · intro st
    have href : regRead s m.val k h o z f = .error (st, 0) := by simp only [regRead, hbad, st]
    exact eci_refused (e := (st, 0)) hready hlisted (hg.trans href)

/-! ### DESC_WRITE -/

/-- A condition that a command needs holds when it is not refused for it. -/
theorem of_need_ok {c : Prop} [Decidable c] {st fd : Nat} {a : Unit} (h : need c st fd = .ok a) : c := by
  by_contra hc
  rw [need_false st fd hc] at h
  cases h

/-- A check that has passed leaves those that follow it. -/
theorem bind_of_ok {α β : Type} (a : α) (f : α → Except Refused β) : (Except.ok a >>= f) = f a := rfl

/-- A context handle that is accepted names a context. -/
theorem le_of_needCtx {s : State} {p x : Nat} (hctx : needCtx s p x = .ok ()) : x ≤ 63 := by
  obtain ⟨_, hx, -⟩ := Except.bind_ok hctx
  exact of_need_ok hx

/-- The answer of DESC_WRITE with the bytes d that hold its descriptors from address a on (09 R305). -/
def descAns (s : State) (n a : Nat) (d : Mem) : Except Refused Ans :=
  .ok (.done (ctxWrite (dropUsers s (mboxUser n)) (par s n 8 1)
    (.desc (par s n 10 2) (loadBytes d a (64 * par s n 12 2)))) [])

section

variable {s : State} {m : Mb} (hready : cmdReady 0x32 m.val s) (hfirst : 1 ≤ par s m.val 10 2)
  (hcount : 1 ≤ par s m.val 12 2) (hfit : par s m.val 10 2 + par s m.val 12 2 ≤ 1024)
  (hctx : needCtx s (partOf s m.val) (par s m.val 8 1) = .ok ())
include hready hfirst hcount hfit hctx

/-- DESC_WRITE of at most three descriptors in its own bytes (09 R304). -/
theorem execDescWrite_own (hkind : par s m.val 14 1 = 0) (hfew : par s m.val 12 2 ≤ 3) :
    execDescWrite m s = okTo m.val (ctxWrite s (par s m.val 8 1)
      (.desc (par s m.val 10 2) (loadBytes (getMb s m.val).cmd 16 (64 * par s m.val 12 2)))) [] := by
  have hx := le_of_needCtx hctx
  have hlast : par s m.val 10 2 ≤ 1023 := by omega
  refine eci_ok (a := .done _ []) hready (by decide) ?_
  simp [hkind, hx, hfirst, hlast, hcount, hfew, hfit, hctx, bind_of_ok]

omit hready in
/-- DESC_WRITE of descriptors in a region reads them and answers with their bytes (09 R298, R304). -/
theorem execDescWrite_region (hkind : par s m.val 14 1 = 1) (halign : par s m.val 20 4 % 64 = 0)
    (hregion : needRegion s (partOf s m.val) (parReg s m.val 16) = .ok ())
    (hin : regFits s (parReg s m.val 16) (par s m.val 20 4) (64 * par s m.val 12 2) = true)
    (hlink : needLink s (parReg s m.val 16) = .ok ()) :
    ∃ g, execDescWrite m = eci 0x32 m g ∧ g s m.val (partOf s m.val) =
      regRead s m.val 0 (parReg s m.val 16) (par s m.val 20 4) (64 * par s m.val 12 2)
        (descAns s m.val ((getRegion s (regIdx (parReg s m.val 16))).base + par s m.val 20 4)) := by
  have hx := le_of_needCtx hctx
  have hlast : par s m.val 10 2 ≤ 1023 := by omega
  have hmost : par s m.val 12 2 ≤ 1023 := by omega
  refine ⟨_, rfl, ?_⟩
  unfold descAns
  simp [hkind, hx, hfirst, hlast, hcount, hmost, hfit, hctx, halign, hregion, hin, hlink, bind_of_ok]

end

/-! ### Writes into a context -/

/-- A write into a context whose item is in the window is put off (07 R239). -/
theorem ctxWrite_of_window {s : State} {x : Nat} {w : DefWrite} (hwin : (winItemOf s x).isSome = true) :
    ctxWrite s x w = setCtx s x { getCtx s x with defer := (getCtx s x).defer ++ [w] } := if_pos hwin

/-- A write into a context without an item in the window is made at once (09 R305). -/
theorem ctxWrite_of_idle {s : State} {x : Nat} {w : DefWrite} (hwin : winItemOf s x = none) :
    ctxWrite s x w = applyDefer (setCtx s x { getCtx s x with defer := (getCtx s x).defer ++ [w] }) x :=
  if_neg (by simp [hwin])

/-! ### HALT_REQUEST -/

/-- A halt request is taken at a bundle boundary of the executing item (07 R257). -/
theorem execHaltRequest_of_boundary {s : State} {x : Fin 64} {i : Item} (hi : itemOf s x.val = some i)
    (hreq : (getCtx s x.val).haltReq = true) (hbun : (getCtx s x.val).bun = none) (hended : i.ended = false)
    (hmay : mayIssue s x.val i = true) :
    execHaltRequest x s = .next (haltIssue (setCtx s x.val { getCtx s x.val with haltReq := false }) x.val
      (getCtx s x.val).pc 7 hHaltRequest 0) := by
  simp only [execHaltRequest, hi]
  exact if_pos ⟨hreq, hbun, hended, hmay⟩

/-- Settles O21: DESC_WRITE acts on its own bytes or on those that it reads, a write into a context is put off or made,
and a halt request is taken at a bundle boundary. -/
theorem descriptorsWrittenAndHaltsTaken : Obligations.DescriptorsWrittenAndHaltsTaken := by
  refine ⟨fun s m hready hfirst hcount hfit hctx => ⟨?own, ?region⟩, fun s n k h o z hwait => ⟨?none, ?job⟩,
    fun s x w => ⟨ctxWrite_of_window, ctxWrite_of_idle⟩,
    fun s x i hi hreq hbun hended hmay => execHaltRequest_of_boundary hi hreq hbun hended hmay⟩
  case own => exact execDescWrite_own hready hfirst hcount hfit hctx
  case region =>
    intro hkind h o halign hregion hin hlink got
    obtain ⟨g, hexec, hg⟩ := execDescWrite_region hfirst hcount hfit hctx hkind halign hregion hin hlink
    obtain ⟨hwait, hhere, hbad⟩ := eci_of_regRead hready (by decide) hg
    have hs : exec (.descWrite m) s = eci 0x32 m g s := congrFun hexec s
    exact ⟨fun t ht => hs.trans (hwait t ht), fun d hd => hs.trans (hhere d _ hd rfl),
      fun hgot => ⟨_, hs.trans (hbad hgot)⟩⟩
  case none =>
    intro hjob
    rw [regGot_of_reads hwait, fwRead_of_none hjob, List.flatMap_singleton]
  case job =>
    intro j hjob
    rw [regGot_of_reads hwait, fwRead_of_job hjob]

end Sys2Proof.Proofs
end

section
/-! SUPPORT and proof of O13. An addition to a semaphore (08 R271): an event changes its partition alone, so that the
semaphore reads as the addition left it. -/

namespace Sys2Proof.Proofs

open Sys2Proof Sys2Proof.Machine

section

variable {s : State} {k n : Nat}

/-- An event, queued or lost, leaves every semaphore (09 R316). -/
@[simp] theorem getSem_postEvent (p : Nat) (code : BitVec 16) (b : List Byte) (j : Nat) :
    getSem (postEvent s p code b) j = getSem s j := by
  unfold postEvent
  dsimp only
  split
  case isTrue => exact getSem_setPart ..
  case isFalse => exact getSem_setPart ..

/-- Past 65,535 the value stays there, and SEM_SATURATED goes to the semaphore's partition. -/
theorem semAdd_of_over (h : 65535 < (getSem s k).value + n) : semAdd s k n =
    postEvent (setSem s k { getSem s k with value := 65535, sat := true }) (getSem s k).part 0x0006 (semPayload k) :=
  if_pos h

/-- Up to 65,535 the value is the sum. -/
theorem semAdd_of_fits (h : (getSem s k).value + n ≤ 65535) :
    semAdd s k n = setSem s k { getSem s k with value := (getSem s k).value + n } := if_neg (Nat.not_lt.mpr h)

end

/-- Settles O13: the addition's two cases, read back past the event of the first. -/
theorem semaphoreAdditionSaturates : Obligations.SemaphoreAdditionSaturates := by
  refine fun s k n hwf => ⟨fun hover => ⟨?saturates, semAdd_of_over hover⟩,
    fun hfits => ⟨semAdd_of_fits hfits, ?fits⟩⟩
  case saturates => rw [semAdd_of_over hover, getSem_postEvent, getSem_setSem_same s k _ hwf]
  case fits => rw [semAdd_of_fits hfits, getSem_setSem_same s k _ hwf]

end Sys2Proof.Proofs
end

section
/-! SUPPORT and proof of O26. The table commands (08 R282 to R285): what each answers when its checks have passed, and
how a pending reload ends. -/

namespace Sys2Proof.Proofs

open Sys2Proof Sys2Proof.Machine

/-- A table index that is accepted is in range. -/
theorem le_of_needTable {s : State} {p t : Nat} (htab : needTable s p t = .ok ()) : t ≤ 63 := by
  obtain ⟨_, ht, -⟩ := Except.bind_ok htab
  exact of_need_ok ht

/-! ### TABLE_REGISTER, TABLE_RELOAD and TABLE_RELEASE -/

section

variable {s : State} {m : Mb}

/-- TABLE_REGISTER gives the lowest free index to a table of generation 1 (08 R282, R283). -/
theorem execTableRegister_of_free {k : Nat} (hready : cmdReady 0x70 m.val s) (hmin : 1 ≤ par s m.val 8 2)
    (hmax : par s m.val 8 2 ≤ 64) (hrows : 1 ≤ par s m.val 12 4) (hbypass : par s m.val 16 1 ≤ 1)
    (hfields : locFields s m.val = .ok ())
    (hplace : locPlace s (partOf s m.val) (locOf s m.val) (64 * par s m.val 8 2 * par s m.val 12 4) = .ok ())
    (hfree : freeIdx 64 (fun j => (getTable s j).live) = some k) :
    execTableRegister m s = okTo m.val (setTable s k {
      live := true, part := partOf s m.val, rowBytes := 64 * par s m.val 8 2, rows := par s m.val 12 4,
      bypass := par s m.val 16 1 == 1, gen := 1, loc := locOf s m.val }) [(8, 1, k), (9, 1, 1)] := by
  refine eci_ok (a := .done _ [(8, 1, k), (9, 1, 1)]) hready (by decide) ?_
  simp [hmin, hmax, hrows, hbypass, hfields, hplace, hfree, bind_of_ok]

section

variable {t : Nat} (ht : t = par s m.val 8 1) (hready : cmdReady 0x71 m.val s) (hfields : locFields s m.val = .ok ())
  (htab : needTable s (partOf s m.val) t = .ok ())
  (hplace : locPlace s (partOf s m.val) (locOf s m.val) ((getTable s t).rowBytes * (getTable s t).rows) = .ok ())
  (hpend : (getTable s t).pend = none)
include ht hready hfields htab hplace hpend

/-- A reload waits while its table's older generation is resident and held (08 R285). -/
theorem execTableReload_of_held (hold : (getTable s t).old.isSome = true)
    (hheld : genHeld s t (getTable s t).oldGen = true) : execTableReload m s =
      .next (waitOn (setTable s t { getTable s t with pend := some (locOf s m.val, m.val) }) m.val (.reload t)) := by
  subst ht
  have hle := le_of_needTable htab
  refine eci_ok (a := .wait _ (.reload _)) hready (by decide) ?_
  simp [hle, hfields, htab, hplace, hpend, hold, hheld, bind_of_ok]

/-- A reload takes effect at once when no older generation is resident, or nothing holds it (08 R285). -/
theorem execTableReload_of_unheld (hfree : (getTable s t).old = none ∨ genHeld s t (getTable s t).oldGen = false) :
    execTableReload m s =
      okTo m.val (reloadNow s t (locOf s m.val)) [(8, 1, nextTabGen (getTable s t).gen)] := by
  subst ht
  have hle := le_of_needTable htab
  have hgo : ¬((getTable s (par s m.val 8 1)).old.isSome = true ∧
      genHeld s (par s m.val 8 1) (getTable s (par s m.val 8 1)).oldGen = true) := by
    rintro ⟨hold, hheld⟩
    rcases hfree with hnone | hunheld
    · simp [hnone] at hold
    · simp [hunheld] at hheld
  refine eci_ok (a := .done _ [(8, 1, nextTabGen _)]) hready (by decide) ?_
  simp only [need_true, hle, hfields, htab, hplace, hpend, if_neg hgo, bind_of_ok, Option.isSome_none]
  rfl

end

/-- TABLE_RELEASE of a table of which no generation is held frees its index and its sectors. -/
theorem execTableRelease_of_unheld {t : Nat} (ht : t = par s m.val 8 1) (hready : cmdReady 0x72 m.val s)
    (htab : needTable s (partOf s m.val) t = .ok ()) (hgen : genHeld s t (getTable s t).gen = false)
    (hold : genHeld s t (getTable s t).oldGen = false) (hpend : (getTable s t).pend = none) :
    execTableRelease m s =
      okTo m.val { setTable s t {} with tephra := s.tephra.filter fun e => e.1.1 ≠ t } [] := by
  subst ht
  refine eci_ok (a := .done _ []) hready (by decide) ?_
  simp [htab, hgen, hold, hpend, bind_of_ok]

end

/-! ### The end of a pending reload -/

section

variable {s : State} {t : Fin 64} {l : Loc} {m : Nat} (hpend : (getTable s t.val).pend = some (l, m))
include hpend

/-- A pending reload takes effect once nothing holds the older generation (08 R285). -/
theorem execTableReloadEffect_of_unheld (hheld : genHeld s t.val (getTable s t.val).oldGen = false) :
    execTableReloadEffect t s =
      okTo m (reloadNow s t.val l) [(8, 1, nextTabGen (getTable s t.val).gen)] := by
  simp [execTableReloadEffect, hpend, hheld, okTo]

/-- A pending reload whose time is over is answered with TABLE_BUSY (08 R285). -/
theorem execTableTimeout_of_pending :
    execTableTimeout t s =
      .next (respond (setTable s t.val { getTable s t.val with pend := none }) m stTableBusy 0 []) := by
  simp only [execTableTimeout, hpend]

end

/-- Settles O26: each table command answers as its own rule says, and so do the two events that end a pending reload. -/
theorem tableCommandsAnswer : Obligations.TableCommandsAnswer := by
  refine ⟨fun s m => ⟨?register, ?reload, ?release⟩, fun s t l m hpend => ⟨?effect, ?timeout⟩⟩
  case register => exact fun hready k => execTableRegister_of_free hready
  case reload =>
    intro hready v hfields htab hplace hpend
    exact ⟨execTableReload_of_held rfl hready hfields htab hplace hpend,
      execTableReload_of_unheld rfl hready hfields htab hplace hpend⟩
  case release => exact execTableRelease_of_unheld rfl
  case effect => exact execTableReloadEffect_of_unheld hpend
  case timeout => exact execTableTimeout_of_pending hpend

end Sys2Proof.Proofs
end

section
/-! SUPPORT and proof of O27. The semaphore and gradient-set commands (05 R174; 08 R270; 09 R304, R307): what each
answers when its checks have passed. -/

namespace Sys2Proof.Proofs

open Sys2Proof Sys2Proof.Machine

section

variable {s : State} {m : Mb}

/-! ### Semaphores -/

section

variable {k : Nat} (hk : k = parSem s m.val) (hsem : needSem s m.val (partOf s m.val) = .ok ())
include hk hsem

section

variable (hready : cmdReady 0x80 m.val s) (hunbound : (getSem s k).bind = 0)
include hready hunbound

/-- SEM_BIND to a context, of the semaphore's own Caldera unless the semaphore is the block's (08 R270). -/
theorem execSemBind_private (hkind : par s m.val 11 1 = 1)
    (hctx : needCtx s (partOf s m.val) (par s m.val 12 1) = .ok ())
    (hcal : par s m.val 9 1 = 1 ∨ ctxCal (par s m.val 12 1) = par s m.val 10 1) :
    execSemBind m s = okTo m.val (setSem s k
      { value := par s m.val 20 2, bind := 1, ctx := par s m.val 12 1, part := partOf s m.val }) [] := by
  subst hk
  have hx := le_of_needCtx hctx
  refine eci_ok (a := .done _ []) hready (by decide) ?_
  simp [hsem, hkind, hx, hcal, hctx, hunbound, bind_of_ok]

section

variable (hkind : par s m.val 11 1 = 2) (hprod : needChan s (partOf s m.val) (par s m.val 14 2) = .ok ())
  (hcons : needChan s (partOf s m.val) (par s m.val 16 2) = .ok ())
include hkind hprod hcons

/-- SEM_BIND to a pair of channels whose edge closes no cycle (09 R307). -/
theorem execSemBind_shared (hacyclic : closesCycle s (partOf s m.val) (chanIdx (par s m.val 14 2))
      (chanIdx (par s m.val 16 2)) = false) :
    execSemBind m s = okTo m.val (setSem s k
      { value := par s m.val 20 2, bind := 2, part := partOf s m.val, prod := chanIdx (par s m.val 14 2),
        cons := chanIdx (par s m.val 16 2) }) [] := by
  subst hk
  refine eci_ok (a := .done _ []) hready (by decide) ?_
  simp [hsem, hkind, hprod, hcons, hunbound, hacyclic, bind_of_ok]

/-- SEM_BIND to a pair of channels whose edge would close a cycle is refused (09 R307). -/
theorem execSemBind_cycle (hcycle : closesCycle s (partOf s m.val) (chanIdx (par s m.val 14 2))
      (chanIdx (par s m.val 16 2)) = true) : execSemBind m s = .next (respond s m.val stGraphCycle 0 []) := by
  subst hk
  refine eci_refused (e := (stGraphCycle, 0)) hready (by decide) ?_
  simp [hsem, hkind, hprod, hcons, hunbound, hcycle, bind_of_ok]

end

end

/-- SEM_UNBIND leaves the value, SATURATED and the pointer of a semaphore that no item uses (log entry 81). -/
theorem execSemUnbind_of_idle (hready : cmdReady 0x81 m.val s) (hbound : (getSem s k).bind ≠ 0)
    (hpart : (getSem s k).part = partOf s m.val) (hidle : semBusy s k = false) :
    execSemUnbind m s = okTo m.val (setSem s k
      { value := (getSem s k).value, sat := (getSem s k).sat, ptr := (getSem s k).ptr }) [] := by
  subst hk
  refine eci_ok (a := .done _ []) hready (by decide) ?_
  simp [hsem, hbound, hpart, hidle, updSem, bind_of_ok]

/-- SEM_QUERY answers the word of 08 Table 08.3. -/
theorem execSemQuery_of_seen (hready : cmdReady 0x82 m.val s)
    (hseen : (getSem s k).bind = 0 ∨ (getSem s k).part = partOf s m.val) :
    execSemQuery m s = okTo m.val s [(8, 4, (getSem s k).value + 65536 * (getSem s k).bind +
      262144 * (if (getSem s k).bind = 1 then (getSem s k).ctx else 0) + 16777216 * b2n (getSem s k).sat)] := by
  subst hk
  refine eci_ok (a := .done _ [(8, 4, _)]) hready (by decide) ?_
  simp [hsem, hseen, bind_of_ok]

end

/-! ### Gradient sets -/

/-- GRADSET_ALLOC of frames that a training channel's tiles lie in and no other set has taken: the lowest free set takes
them, zeroed (09 R304). -/
theorem execGradsetAlloc_of_free {j h : Nat} {fr : BitVec 32} {im : Image} (hh : h = par s m.val 8 2)
    (hfr : fr = BitVec.ofNat 32 (par s m.val 12 4)) (him : im = imgOf s (getChan s (chanIdx h)).img)
    (hready : cmdReady 0x90 m.val s) (hchan : needChan s (partOf s m.val) h = .ok ()) (htrain : im.training = true)
    (hcover : (im.tiles.all fun t => (tileFrames t).all fun f => fr.getLsbD f) = true)
    (huntaken : fr &&& takenFrames s (partOf s m.val) = 0)
    (hfree : freeIdx 16 (fun j => (getGset s j).live) = some j) :
    execGradsetAlloc m s = okTo m.val (zeroFrames (setGset s j {
      gen := nextGen 4 (getGset s j).gen, live := true, part := partOf s m.val, chan := chanIdx h,
      chanGen := (getChan s (chanIdx h)).gen, frames := fr }) (partOf s m.val) fr)
      [(8, 1, j + 16 * nextGen 4 (getGset s j).gen)] := by
  subst him hfr hh
  refine eci_ok (a := .done _ [(8, 1, _)]) hready (by decide) ?_
  simp only [need_true, hchan, htrain, hcover, huntaken, hfree, bind_of_ok]
  rfl

section

variable {g : Nat} (hg : g = par s m.val 8 1 % 16) (hset : needGset s (partOf s m.val) (par s m.val 8 1) = .ok ())
include hg hset

/-- GRADSET_ZERO clears the frames of a set and its damage (05 R174). -/
theorem execGradsetZero_of_live (hready : cmdReady 0x91 m.val s) :
    execGradsetZero m s = okTo m.val (zeroFrames (setGset s g { getGset s g with corrupt := false }) (partOf s m.val)
      (getGset s g).frames) [] := by
  subst hg
  refine eci_ok (a := .done _ []) hready (by decide) ?_
  simp [hset]

/-- GRADSET_RELEASE of a set whose channel has no training item frees it; its generation stays (09 R301). -/
theorem execGradsetRelease_of_unused (hready : cmdReady 0x92 m.val s)
    (hunused : (s.items.any fun i => ofChan s (getGset s g) i.ch && trainingItem s i) = false) :
    execGradsetRelease m s = okTo m.val (setGset s g { gen := (getGset s g).gen }) [] := by
  subst hg
  refine eci_ok (a := .done _ []) hready (by decide) ?_
  simp only [need_true, hset, hunused, bind_of_ok]
  rfl

end

end

/-- Settles O27: each semaphore and gradient-set command answers as its own rule says. -/
theorem sharedObjectCommandsAnswer : Obligations.SharedObjectCommandsAnswer := by
  intro s m
  refine ⟨?bindPrivate, ?bindShared, ?bindCycle, ?unbind, ?query, ?alloc, ?zero, ?release⟩
  case bindPrivate =>
    exact fun hready hsem hkind hctx hcal hunbound => execSemBind_private rfl hsem hready hunbound hkind hctx hcal
  case bindShared =>
    exact fun hready hsem hkind hprod hcons hunbound => execSemBind_shared rfl hsem hready hunbound hkind hprod hcons
  case bindCycle =>
    exact fun hready hsem hkind hprod hcons hunbound => execSemBind_cycle rfl hsem hready hunbound hkind hprod hcons
  case unbind => exact fun hready hsem => execSemUnbind_of_idle rfl hsem hready
  case query => exact fun hready hsem => execSemQuery_of_seen rfl hsem hready
  case alloc => exact fun hready j => execGradsetAlloc_of_free rfl rfl rfl hready
  case zero => exact fun hready hset => execGradsetZero_of_live rfl hset hready
  case release => exact fun hready hset => execGradsetRelease_of_unused rfl hset hready

end Sys2Proof.Proofs
end

section
/-! SUPPORT and proof of O49. Movement events: what each does where it is due (07 R243; 08 R260, R272, R278, R287, R288,
R289). -/

namespace Sys2Proof.Proofs

open Sys2Proof Sys2Proof.Machine

/-! ### Transfers -/

section

variable {s : State} {e : Eng}

/-- An engine without a transfer takes one that the prefetch unit holds for it (08 R279). -/
theorem execTransferComplete_of_empty (hempty : engList s (engKey e) = []) :
    execTransferComplete e s = .next (enterAhead s (engKey e)) := by
  simp only [execTransferComplete, hempty]

section

variable {t : Xfer} {r : List Xfer} (hfirst : engList s (engKey e) = t :: r)
include hfirst

/-- The first transfer of an engine completes when nothing of it is outstanding (08 R260). -/
theorem execTransferComplete_of_ready (hready : xferReady s t = true) :
    execTransferComplete e s = .next (settle (completeXfer s (engKey e) t) t.ctx) := by
  simp only [execTransferComplete, hfirst, if_pos hready]

/-- The next element of the first ADD of an engine, whose data has been read, reaches its atomic unit (08 R289). -/
theorem execAtomicAdd_of_read (hstarted : t.started = true) (hadd : t.add = true) (herr : t.err = false)
    (hspace : t.dst.space ≠ 4) (hacks : t.acks = 0) (hdone : jobDone s (.xfer t.id) = true)
    (hgood : jobErr s (.xfer t.id) = false) (hmore : t.adds < (xferElems t).length) :
    execAtomicAdd e s = .next (settle (addNext s (engKey e) t) t.ctx) := by
  simp only [execAtomicAdd, hfirst]
  exact if_pos ⟨hstarted, hadd, herr, hspace, hacks, hdone, hgood, hmore⟩

end

end

/-! ### Lookups -/

section

variable {s : State} {c : Fin 4} {n : Fin 16} {l : Lookup} (hl : (getCal s c.val).lookups[n.val]? = some l)
include hl

/-- A lookup with something outstanding, or behind another one at the cache's read port, stays as it is (08 R287; 11
Table 11.1). -/
theorem execLookupComplete_of_waiting (hwait : lookReady s l = false ∨ lookLoses s c.val n.val l = true) :
    execLookupComplete c n s = .next s := by
  simp only [execLookupComplete, hl, if_pos hwait]

section

variable (hready : lookReady s l = true) (hwins : lookLoses s c.val n.val l = false)
include hready hwins

/-- A lookup that has its turn reads again the rows that it misses, unless it has failed; else it completes (08
R288). -/
theorem execLookupComplete_of_turn : execLookupComplete c n s =
    if l.err = false ∧ jobErr s (.look l.id) = false ∧ missRows s l ≠ [] then
      .next (settle (readAgain s c.val l) l.ctx)
    else .next (settle (completeLook { s with tephraPtr := (16 * c.val + n.val + 1) % 64 } c.val l) l.ctx) := by
  have hturn : ¬(lookReady s l = false ∨ lookLoses s c.val n.val l = true) := by simp [hready, hwins]
  simp only [execLookupComplete, hl, if_neg hturn]

/-- A lookup that has its turn completes when its rows are at hand, or when it has failed (08 R287). -/
theorem execLookupComplete_of_found (hfound : missRows s l = [] ∨ l.err = true ∨ jobErr s (.look l.id) = true) :
    execLookupComplete c n s =
      .next (settle (completeLook { s with tephraPtr := (16 * c.val + n.val + 1) % 64 } c.val l) l.ctx) := by
  rw [execLookupComplete_of_turn hl hready hwins, if_neg]
  rintro ⟨herr, hgood, hmiss⟩
  rcases hfound with hrows | hfail | hfault
  · exact hmiss hrows
  · exact Bool.eq_false_iff.mp herr hfail
  · exact Bool.eq_false_iff.mp hgood hfault

/-- A lookup that has its turn reads again the rows whose sectors have left the cache (08 R288). -/
theorem execLookupComplete_of_missing (hmiss : missRows s l ≠ []) (herr : l.err = false)
    (hgood : jobErr s (.look l.id) = false) :
    execLookupComplete c n s = .next (settle (readAgain s c.val l) l.ctx) := by
  rw [execLookupComplete_of_turn hl hready hwins, if_pos ⟨herr, hgood, hmiss⟩]

end

end

/-! ### Prefetch and code lines -/

/-- The MOV slot n bundles ahead is prefetched: its context's attempt runs, fewer than 4 slots are prefetched, and this
one is not (08 R278, R279). -/
theorem execPrefetch_of_due {s : State} {x : Fin 64} {n no w : Nat} {p q : Walk} {i : Item}
    (hi : winItemOf s x.val = some i) (hstopped : i.stopped = false) (hhalted : (getCtx s x.val).halted = false)
    (hended : i.ended = false) (hattempt : i.attempt ≠ 0) (hroom : (getCtx s x.val).pre.length < 4)
    (hstart : walkStart (getCtx s x.val) = some (p, no))
    (hwalk : walkTo s (ctxCal x.val) i.img (imgOf s i.img).codeSize n p = some (q, w))
    (hnew : ((getCtx s x.val).pre.any fun e => e.ofs == q.pc && e.seqNo == no + n) = false) :
    execPrefetch x n s = .next (prefetchSlot s x.val i q (no + n) w) := by
  have hruns : ¬(i.stopped = true ∨ (getCtx s x.val).halted = true ∨ i.ended = true ∨ i.attempt = 0 ∨
      4 ≤ (getCtx s x.val).pre.length) := by
    simp [hstopped, hhalted, hended, hattempt, hroom]
  simp only [execPrefetch, hi, if_neg hruns, hstart, hwalk, if_neg (ne_true_of_eq_false hnew)]

/-- A line that a Caldera asked for arrives (07 R243). -/
theorem execLineFill_of_asked {s : State} {c : Fin 4} {img : BitVec 16} {line : Nat} {ok : Bool} {f : Fetch}
    (hf : (getCal s c.val).fetches.find? (fun f => f.img == img && f.line == line) = some f) :
    execLineFill c img line ok s = .next (arriveLine s c.val f ok) := by
  simp only [execLineFill, hf]

/-- Settles O49: each event does, where it is due, what its rule says. -/
theorem movementEventsAct : Obligations.MovementEventsAct := by
  refine ⟨fun s e => execTransferComplete_of_empty, fun s e t r hfirst => ⟨?complete, ?add⟩,
    fun s c n l hl hready hwins => ⟨?found, ?missing⟩, fun s c n l => execLookupComplete_of_waiting, ?prefetch,
    fun s k => rfl, fun s c img line ok f => execLineFill_of_asked⟩
  case complete => exact execTransferComplete_of_ready hfirst
  case add => exact execAtomicAdd_of_read hfirst
  case found => exact execLookupComplete_of_found hl hready hwins
  case missing => exact execLookupComplete_of_missing hl hready hwins
  case prefetch =>
    rintro s x n _ q w i hi hstopped hhalted hended hattempt hroom ⟨⟨p, no⟩, hstart, rfl, hwalk⟩ hnew
    exact execPrefetch_of_due hi hstopped hhalted hended hattempt hroom hstart hwalk hnew

end Sys2Proof.Proofs
end

section
/-! SUPPORT and proof of O30, O31 and O32. The register window (09 R293 to R297, R309): FORCE_ESC, the doorbells, the
status registers, and which bytes of a mailbox's command buffer a write reaches. -/

namespace Sys2Proof.Proofs

open Sys2Proof Sys2Proof.Machine

section

variable {s : State}

/-- An access does nothing while the window does not answer (09 R294). -/
theorem access_of_dead {g : State → State} (hdead : windowLive s = false) : access g s = .next s := by
  simp [access, hdead]

/-- In power-on reset the window does not answer. -/
theorem windowLive_of_held (hheld : s.life.phase = .held) : windowLive s = false := by
  simp [windowLive, hheld]

/-- In RETAIN or OFF, END apart, the window does not answer while CRP_PWR_SAFE reads 1 (log entry 99). -/
theorem windowLive_of_safe (hsafe : s.life.pwrSafe = true) (hlc : s.life.lc ≠ 7)
    (hlow : s.life.pstate = .retain ∨ s.life.pstate = .off) : windowLive s = false := by
  have hend : decide (s.life.lc = 7) = false := decide_eq_false hlc
  rcases hlow with hretain | hoff
  · rw [windowLive, hsafe, hend, hretain]
    exact Bool.and_false _
  · rw [windowLive, hsafe, hend, hoff]
    exact Bool.and_false _

/-! ### FORCE_ESC -/

/-- The key and the level's code start the level's step (09 R296). -/
theorem forceEsc_of_key {level : Nat} {w : Word} (hkey : w.toNat / 65536 = 0xE5C4) (hlevel : w.toNat % 8 = level) :
    forceEsc level w s = startStep s level 0 2 none [] := if_pos ⟨hkey, hlevel⟩

/-- Without the key, or with another code, nothing starts. -/
theorem forceEsc_of_other {level : Nat} {w : Word} (hother : w.toNat / 65536 ≠ 0xE5C4 ∨ w.toNat % 8 ≠ level) :
    forceEsc level w s = s := if_neg (not_and_or.mpr hother)

/-! ### Doorbells -/

section

variable {i : Nat} {prod : BitVec 16}

/-- The doorbell of an index without a channel moves PROD alone. -/
theorem sqDoorbell_of_dead (hdead : (getChan s i).live = false) :
    sqDoorbell i prod s = setChan s i { getChan s i with sqProd := prod } := if_pos hdead

section

variable (hlive : (getChan s i).live = true)
include hlive

/-- An advance past the free entries is an overflow (09 R309). -/
theorem sqDoorbell_of_overflow (hover : sqFree (getChan s i) < ringDist prod (getChan s i).sqProd) :
    sqDoorbell i prod s = postEvent (setChan s i { getChan s i with sqProd := prod, st := .ringError })
      (getChan s i).part 0x0040 (leBytes 2 (chanHandle s i)) := by
  simp [sqDoorbell, hlive, hover]

/-- A lost channel, or one in RING_ERROR, stamps no entry. -/
theorem sqDoorbell_of_stopped (hfits : ringDist prod (getChan s i).sqProd ≤ sqFree (getChan s i))
    (hst : (getChan s i).st = .hostLost ∨ (getChan s i).st = .ringError) :
    sqDoorbell i prod s = setChan s i { getChan s i with sqProd := prod } := by
  simp [sqDoorbell, hlive, Nat.not_lt.mpr hfits, hst]

/-- A live channel stamps each entry that the doorbell covers first (10 R326). -/
theorem sqDoorbell_of_running (hfits : ringDist prod (getChan s i).sqProd ≤ sqFree (getChan s i))
    (hhost : (getChan s i).st ≠ .hostLost) (hring : (getChan s i).st ≠ .ringError) :
    sqDoorbell i prod s = setChan s i { getChan s i with
      sqProd := prod
      stamps := (getChan s i).stamps ++ List.replicate (ringDist prod (getChan s i).sqProd) (timeNow s) } := by
  simp [sqDoorbell, hlive, Nat.not_lt.mpr hfits, hhost, hring]

end

end

/-! ### Register writes -/

section

variable {a n : Nat} {d : BitVec 512} {be : BitVec 64}

/-- A write with good parity acts on the window (12 R379). -/
theorem execRegisterWrite_of_good {ofs : BitVec 24} {v : WinData} (hlive : windowLive s = true) :
    execRegisterWrite ofs n v true s = .next (windowWrite ofs.toNat n v.data v.be s) := access_live _ hlive

/-- A write with bad parity is reported alone (12 R379). -/
theorem execRegisterWrite_of_bad {ofs : BitVec 24} {v : WinData} (hlive : windowLive s = true) :
    execRegisterWrite ofs n v false s = .next (report s none 0x21 0 none none 0) := access_live _ hlive

/-- An unaligned write is ignored. -/
theorem windowWrite_of_unaligned (hpart : a % n ≠ 0) : windowWrite a n d be s = s := if_pos hpart

/-- Outside the command buffers a write of another size than a whole word is ignored (log entry 162). -/
theorem windowWrite_of_partial (hreg : cmdBuffer a = none) (hword : n ≠ 4 ∨ be.toNat % 16 ≠ 15) :
    windowWrite a n d be s = s := by
  by_cases hpart : a % n = 0
  · have hnot : ¬(n = 4 ∧ be.toNat % 16 = 15) := not_and_or.mpr hword
    simp [windowWrite, hpart, hreg, hnot]
  · exact windowWrite_of_unaligned hpart

/-- A whole word outside the command buffers is a register's. -/
theorem windowWrite_of_word (halign : a % 4 = 0) (hreg : cmdBuffer a = none) (hbe : be.toNat % 16 = 15) :
    windowWrite a 4 d be s = wordWrite a (d.setWidth 32) s := by
  simp [windowWrite, halign, hreg, hbe]

/-- The registers below FATAL_STATUS are read-only (09 Table 09.1). -/
theorem windowWrite_of_readOnly (hlow : a < 0x10) : windowWrite a 4 d be s = s := by
  have hreg : cmdBuffer a = none := if_neg (by omega)
  by_cases halign : a % 4 = 0
  case neg => exact windowWrite_of_unaligned halign
  case pos =>
    by_cases hbe : be.toNat % 16 = 15
    case neg => exact windowWrite_of_partial hreg (.inr hbe)
    case pos =>
      rw [windowWrite_of_word halign hreg hbe, wordWrite]
      simp only [show a ≠ 0x10 by omega, show a ≠ 0x14 by omega, show a ≠ 0x20 by omega, show a ≠ 0x24 by omega,
        show ¬(0x100 ≤ a ∧ a < 0x140) by omega, show ¬(0x20000 ≤ a ∧ a < 0x20400) by omega,
        show ¬(0x30000 ≤ a ∧ a < 0x30400) by omega, show ¬(0x40000 ≤ a ∧ a < 0x40010) by omega, if_false]

/-- Byte o of mailbox m's command buffer (09 Table 09.1). -/
theorem cmdBuffer_of_mailbox {m o : Nat} (hm : m < 16) (ho : o < 0x100) :
    cmdBuffer (0x10000 + 0x200 * m + o) = some (m, o) := by
  have hbox : (0x10000 + 0x200 * m + o - 0x10000) / 0x200 = m := by omega
  have hbyte : (0x10000 + 0x200 * m + o) % 0x200 = o := by omega
  rw [cmdBuffer, hbox, hbyte]
  exact if_pos (by omega)

section

variable {m o : Nat} (hbuf : cmdBuffer a = some (m, o))
include hbuf

/-- The command buffer of a BUSY mailbox takes no write (09 R297). -/
theorem windowWrite_of_busy (hbusy : (getMb s m).st = .busy) : windowWrite a n d be s = s := by
  by_cases hpart : a % n = 0
  · simp [windowWrite, hpart, hbuf, hbusy]
  · exact windowWrite_of_unaligned hpart

/-- The command buffer of another mailbox takes the bytes whose enables are 1 (12 R371). -/
theorem windowWrite_of_buffer (halign : a % n = 0) (hsize : bufferSize n = true) (hfree : (getMb s m).st ≠ .busy) :
    windowWrite a n d be s =
      setMb s m { getMb s m with cmd := storeEnabled (getMb s m).cmd o (leBytes n d.toNat) be } := by
  simp [windowWrite, halign, hbuf, hsize, hfree, updMb]

end

end

end

/-- The offset of byte o of mailbox m's command buffer, as the bus carries it. -/
theorem toNat_cmdOffset {m : Mb} {o : Nat} (ho : o < 0x100) :
    (BitVec.ofNat 24 (0x10000 + 0x200 * m.val + o)).toNat = 0x10000 + 0x200 * m.val + o := by
  have := m.isLt
  rw [BitVec.toNat_ofNat, Nat.mod_eq_of_lt (by omega)]

/-- Clearing bits [4:0] leaves LAST_STEP, bits [10:8] (09 Table 09.5). -/
theorem lastStep_of_fatalWrite (f w : Word) : (f &&& ~~~(w &&& 0x1F)) &&& 0x700 = f &&& 0x700 := by
  have hdisjoint : ~~~(w &&& 0x1F) &&& 0x700 = (0x700 : Word) := by
    ext j hj
    interval_cases j <;> simp
  rw [BitVec.and_assoc, hdisjoint]

/-! ### Byte enables -/

/-- One byte of a write with byte enables: written when its enable is 1 (12 R371). -/
def enabledByte (a : Nat) (be : BitVec 64) (m : Mem) (e : Byte × Nat) : Mem :=
  if be.getLsbD e.2 then storeByte m (a + e.2) e.1 else m

/-- A write with byte enables writes one byte after the other. -/
theorem storeEnabled_eq_foldl (m : Mem) (a : Nat) (bs : List Byte) (be : BitVec 64) :
    storeEnabled m a bs be = bs.zipIdx.foldl (enabledByte a be) m := rfl

section

variable {a : Nat} {be : BitVec 64}

theorem memWf_enabledByte {m : Mem} (e : Byte × Nat) (hm : memWf m = true) : memWf (enabledByte a be m e) = true := by
  unfold enabledByte
  split
  · exact memWf_storeByte m _ _ hm
  · exact hm

theorem loadByte_enabledByte_other {m : Mem} {e : Byte × Nat} {c : Nat} (hc : c ≠ a + e.2) :
    loadByte (enabledByte a be m e) c = loadByte m c := by
  unfold enabledByte
  split
  · exact loadByte_storeByte_other m _ c _ hc
  · rfl

theorem loadByte_enabledByte_same {m : Mem} {e : Byte × Nat} (hm : memWf m = true) :
    loadByte (enabledByte a be m e) (a + e.2) = if be.getLsbD e.2 then e.1 else loadByte m (a + e.2) := by
  unfold enabledByte
  split
  · exact loadByte_storeByte_same m _ _ hm
  · rfl

/-- What a byte reads after the bytes from number k on have been written with their enables. -/
theorem loadByte_foldl_enabledByte (bs : List Byte) (k c : Nat) {m : Mem} (hm : memWf m = true) :
    loadByte ((bs.zipIdx k).foldl (enabledByte a be) m) c =
      if a + k ≤ c ∧ be.getLsbD (c - a) = true then (bs[c - a - k]?).getD (loadByte m c) else loadByte m c := by
  induction bs generalizing m k with
  | nil => simp
  | cons b r ih =>
    rw [List.zipIdx_cons, List.foldl_cons, ih (k + 1) (memWf_enabledByte (b, k) hm)]
    rcases Nat.lt_trichotomy c (a + k) with hlt | rfl | hgt
    · rw [loadByte_enabledByte_other (e := (b, k)) (by simpa using by omega), if_neg (by omega), if_neg (by omega)]
    · rw [loadByte_enabledByte_same (e := (b, k)) hm, if_neg (by omega)]
      simp
    · have hnext : c - a - k = c - a - (k + 1) + 1 := by omega
      rw [loadByte_enabledByte_other (e := (b, k)) (by simpa using by omega), hnext, List.getElem?_cons_succ]
      simp only [show a + (k + 1) ≤ c by omega, show a + k ≤ c by omega]

/-- A write with byte enables keeps the canonical form. -/
theorem memWf_storeEnabled (bs : List Byte) {m : Mem} (hm : memWf m = true) : memWf (storeEnabled m a bs be) = true :=
  memWf_foldl (enabledByte a be) bs.zipIdx m hm fun _ e h => memWf_enabledByte e h

/-- A byte whose enable is 1 reads as written, every other one as before (12 R371). -/
theorem loadByte_storeEnabled (bs : List Byte) (c : Nat) {m : Mem} (hm : memWf m = true) :
    loadByte (storeEnabled m a bs be) c =
      if a ≤ c ∧ be.getLsbD (c - a) = true then (bs[c - a]?).getD (loadByte m c) else loadByte m c :=
  loadByte_foldl_enabledByte bs 0 c hm

end

/-- Settles O30: the key and the code decide, and a window that does not answer lets no write through. -/
theorem forceEscalationNeedsKey : Obligations.ForceEscalationNeedsKey := by
  intro s w hlive
  refine ⟨fun hkey hlevel => ?block, fun hkey hlevel => ?cycle, fun hother => ?noBlock, fun hother => ?noCycle,
    fun u hu => ?dead⟩
  case block => exact (access_live _ hlive).trans (congrArg _ (forceEsc_of_key hkey hlevel))
  case cycle => exact (access_live _ hlive).trans (congrArg _ (forceEsc_of_key hkey hlevel))
  case noBlock => exact (access_live _ hlive).trans (congrArg _ (forceEsc_of_other hother))
  case noCycle => exact (access_live _ hlive).trans (congrArg _ (forceEsc_of_other hother))
  case dead =>
    have hdead : windowLive u = false := hu.elim windowLive_of_held fun ⟨hsafe, hlc, hlow⟩ =>
      windowLive_of_safe hsafe hlc hlow
    exact ⟨hdead, access_of_dead hdead, access_of_dead hdead⟩

/-- Settles O31: the four cases of an SQ doorbell, and CONS of the other two. -/
theorem doorbellsMoveIndices : Obligations.DoorbellsMoveIndices := by
  intro s i w hlive
  refine ⟨⟨fun hchan hfits hhost hring => ?running, fun hchan hfits hst => ?stopped, fun hchan hover => ?overflow,
    fun hchan => ?dead⟩, access_live _ hlive, fun p => access_live _ hlive⟩
  case running => exact (access_live _ hlive).trans (congrArg _ (sqDoorbell_of_running hchan hfits hhost hring))
  case stopped => exact (access_live _ hlive).trans (congrArg _ (sqDoorbell_of_stopped hchan hfits hst))
  case overflow => exact (access_live _ hlive).trans (congrArg _ (sqDoorbell_of_overflow hchan hover))
  case dead => exact (access_live _ hlive).trans (congrArg _ (sqDoorbell_of_dead hchan))

/-- Settles O32: what each write of the window reaches, and the bytes that enables choose. -/
theorem registerWindowActs : Obligations.RegisterWindowActs := by
  refine ⟨fun s w d hlive => ⟨access_live _ hlive, access_live _ hlive, lastStep_of_fatalWrite _ w,
    access_live _ hlive, fun hbe => ?intEnable, fun m o n ho hn halign hfree => ?buffer, fun a n hpart => ?unaligned,
    fun a n hreg hword => ?piece, fun a hlow => ?readOnly, fun a n => execRegisterWrite_of_bad hlive⟩,
    fun m a bs be hm => ⟨memWf_storeEnabled bs hm, fun c => loadByte_storeEnabled bs c hm⟩⟩
  case intEnable =>
    exact (execRegisterWrite_of_good hlive).trans (congrArg _ (windowWrite_of_word (by decide) (by decide) hbe))
  case buffer =>
    have hsize : bufferSize n = true := by rcases hn with rfl | rfl | rfl | rfl | rfl <;> rfl
    have hpage : (0x10000 + 0x200 * m.val) % n = 0 := by rcases hn with rfl | rfl | rfl | rfl | rfl <;> omega
    have hat : (0x10000 + 0x200 * m.val + o) % n = 0 := by rw [Nat.add_mod, hpage, halign, Nat.zero_add, Nat.zero_mod]
    refine (execRegisterWrite_of_good hlive).trans (congrArg _ ?_)
    rw [toNat_cmdOffset ho]
    exact windowWrite_of_buffer (cmdBuffer_of_mailbox m.isLt ho) hat hsize hfree
  case unaligned => exact (execRegisterWrite_of_good hlive).trans (congrArg _ (windowWrite_of_unaligned hpart))
  case piece => exact (execRegisterWrite_of_good hlive).trans (congrArg _ (windowWrite_of_partial hreg hword))
  case readOnly => exact (execRegisterWrite_of_good hlive).trans (congrArg _ (windowWrite_of_readOnly hlow))

end Sys2Proof.Proofs
end

section
/-! SUPPORT and proof of O10, O28 and O29. Responses of a mailbox (09 R297, R302, Table 09.11): little-endian numbers
in a byte memory, what a response writes and leaves, the refusals of a command, and the mailbox rules. -/

namespace Sys2Proof.Proofs

open Sys2Proof Sys2Proof.Machine

/-! ### Little-endian numbers -/

@[simp] theorem length_leBytes (n w : Nat) : (leBytes n w).length = n := by simp [leBytes]

@[simp] theorem length_loadBytes (m : Mem) (a n : Nat) : (loadBytes m a n).length = n := by simp [loadBytes]

/-- The lowest byte goes first (00 R3). -/
theorem leBytes_succ (n w : Nat) : leBytes (n + 1) w = BitVec.ofNat 8 w :: leBytes n (w / 256) := by
  simp only [leBytes, List.range_succ_eq_map, List.map_cons, List.map_map, pow_zero, Nat.div_one]
  congr 1
  refine List.map_congr_left fun i _ => ?_
  rw [Function.comp_apply, Nat.succ_eq_add_one, Nat.pow_succ', Nat.div_div_eq_div_mul]

/-- A number reads back from its n low bytes modulo 256 ^ n. -/
theorem ofLe_leBytes (n w : Nat) : ofLe (leBytes n w) = w % 256 ^ n := by
  induction n generalizing w with
  | zero => simp [leBytes, ofLe, Nat.mod_one]
  | succ n ih => rw [leBytes_succ, ofLe, ih, BitVec.toNat_ofNat, Nat.pow_succ' (m := 256), Nat.mod_mul]

/-- n bytes hold a number below 256 ^ n. -/
theorem ofLe_lt (bs : List Byte) : ofLe bs < 256 ^ bs.length := by
  induction bs with
  | nil => simp [ofLe]
  | cons b r ih =>
    have hb : b.toNat < 256 := b.isLt
    rw [ofLe, List.length_cons, pow_succ]
    omega

theorem load_lt (m : Mem) (a n : Nat) : load m a n < 256 ^ n := by
  have hlt := ofLe_lt (loadBytes m a n)
  rwa [length_loadBytes] at hlt

/-- Two memories that agree on a range load the same bytes from it. -/
theorem loadBytes_congr {m m' : Mem} {a n : Nat} (h : ∀ i, i < n → loadByte m (a + i) = loadByte m' (a + i)) :
    loadBytes m a n = loadBytes m' a n :=
  List.map_congr_left fun i hi => h i (List.mem_range.mp hi)

/-- Stored bytes read back. -/
theorem loadBytes_storeBytes (m : Mem) (a : Nat) (bs : List Byte) (hm : memWf m = true) :
    loadBytes (storeBytes m a bs) a bs.length = bs := by
  refine List.ext_getElem (length_loadBytes _ _ _) fun i _ hi => ?_
  simpa [loadBytes, hi] using loadByte_storeBytes_in m a i bs hm hi

/-- A stored number of n bytes reads back. -/
theorem load_store_same {m : Mem} {a n w : Nat} (hm : memWf m = true) (hw : w < 256 ^ n) :
    load (store m a n w) a n = w := by
  have hback := loadBytes_storeBytes m a (leBytes n w) hm
  rw [length_leBytes] at hback
  rw [load, store, hback, ofLe_leBytes, Nat.mod_eq_of_lt hw]

/-- A number beside the stored one reads as before. -/
theorem load_store_other {m : Mem} {a n w b k : Nat} (hout : b + k ≤ a ∨ a + n ≤ b) :
    load (store m a n w) b k = load m b k := by
  refine congrArg ofLe (loadBytes_congr fun i hi => loadByte_storeBytes_out m a _ _ ?_)
  rw [length_leBytes]
  omega

/-! ### What a response writes -/

/-- The first 8 bytes of a response: opcode, tag, status and FIELD (09 Table 09.11). -/
def rspHead (s : State) (m status field : Nat) : Mem :=
  store (store (store (store [] 0 2 (par s m 0 2)) 2 2 (par s m 2 2)) 4 1 status) 6 2 field

/-- A response buffer: the first 8 bytes, and the results behind them. -/
def rspOf (s : State) (m status field : Nat) (results : List (Nat × Nat × Nat)) : Mem :=
  results.foldl (fun r e => store r e.1 e.2.1 e.2.2) (rspHead s m status field)

/-- A value other than the default is found under its key, whatever form the table has. -/
theorem tget_tput_of_ne {α : Type} [DecidableEq α] {d v : α} (k : Nat) (t : Tab α) (hv : v ≠ d) :
    tget d k (tput d k v t) = v := by
  induction t with
  | nil => simp [tput, tget, hv]
  | cons e r ih =>
    obtain ⟨j, w⟩ := e
    rcases Nat.lt_trichotomy k j with hlt | rfl | hgt
    · simp [tput, tget, hlt, hv]
    · simp [tput, tget, hv]
    · simp [tput, tget, Nat.not_lt.mpr hgt.le, hgt.ne, hgt.ne', ih]

section

variable (s : State) (m status field : Nat) (results : List (Nat × Nat × Nat))

/-- The mailbox that is answered. -/
theorem getMb_respond_same : getMb (respond s m status field results) m =
    { getMb s m with st := .done, rsp := rspOf s m status field results, wait := .none } :=
  tget_tput_of_ne m s.mbs fun h => nomatch congrArg Mailbox.st h

/-- A response leaves the other mailboxes. -/
theorem getMb_respond_other {n : Nat} (hn : n ≠ m) : getMb (respond s m status field results) n = getMb s n :=
  getMb_setMb_other s m n _ hn

/-- A response changes its mailbox, the firmware's order and INT_STATUS. -/
theorem respond_eq : respond s m status field results =
    { setMb s m { getMb s m with st := .done, rsp := rspOf s m status field results, wait := .none } with
      mbOrder := s.mbOrder.filter (· ≠ m), cp := { s.cp with intStatus := s.cp.intStatus ||| 8 } } := rfl

variable {results}

/-- Results from byte 8 on leave the numbers below. -/
theorem load_rspOf (hresults : ∀ e ∈ results, 8 ≤ e.1) {a k : Nat} (ha : a + k ≤ 8) :
    load (rspOf s m status field results) a k = load (rspHead s m status field) a k := by
  unfold rspOf
  generalize rspHead s m status field = b
  induction results generalizing b with
  | nil => rfl
  | cons e r ih =>
    have he : 8 ≤ e.1 := hresults e List.mem_cons_self
    rw [List.foldl_cons, ih (fun q hq => hresults q (List.mem_cons_of_mem _ hq)), load_store_other (.inl (by omega))]

variable {s m status field}

theorem rspHead_opcode : load (rspHead s m status field) 0 2 = par s m 0 2 := by
  rw [rspHead, load_store_other (by omega), load_store_other (by omega), load_store_other (by omega)]
  exact load_store_same rfl (load_lt _ _ _)

theorem rspHead_tag : load (rspHead s m status field) 2 2 = par s m 2 2 := by
  rw [rspHead, load_store_other (by omega), load_store_other (by omega)]
  exact load_store_same (memWf_store _ _ _ _ rfl) (load_lt _ _ _)

theorem rspHead_status (hstatus : status < 256) : load (rspHead s m status field) 4 1 = status := by
  rw [rspHead, load_store_other (by omega)]
  exact load_store_same (memWf_store _ _ _ _ (memWf_store _ _ _ _ rfl)) (by simpa using hstatus)

theorem rspHead_field (hfield : field < 65536) : load (rspHead s m status field) 6 2 = field :=
  load_store_same (memWf_store _ _ _ _ (memWf_store _ _ _ _ (memWf_store _ _ _ _ rfl))) (by simpa using hfield)

end

/-- Settles O10: the four numbers below byte 8 are those of Table 09.11, and the rest is the frame of a response. -/
theorem responseEchoesCommand : Obligations.ResponseEchoesCommand := by
  intro s m status field results _ hstatus hfield hresults t
  have hmb : getMb t m = _ := getMb_respond_same s m status field results
  have hlow : ∀ a k, a + k ≤ 8 → load (getMb t m).rsp a k = load (rspHead s m status field) a k := by
    rw [hmb]
    exact fun a k ha => load_rspOf s m status field hresults ha
  refine ⟨by rw [hmb], ?opcode, ?tag, ?status, ?field, rfl, ?order, ?others, ?frame⟩
  case opcode => rw [hlow 0 2 (by decide), rspHead_opcode]
  case tag => rw [hlow 2 2 (by decide), rspHead_tag]
  case status => rw [hlow 4 1 (by decide), rspHead_status hstatus]
  case field => rw [hlow 6 2 (by decide), rspHead_field hfield]
  case order => exact fun hm => of_decide_eq_true (List.mem_filter.mp hm).2 rfl
  case others => exact fun n hn => getMb_respond_other s m status field results hn
  case frame => rw [hmb]; exact respond_eq s m status field results

/-! ### Refusals -/

section

variable {s : State} {m : Mb} {op : Nat} {g : State → Nat → Nat → Except Refused Ans} (htakes : fwTakes s m.val = true)
include htakes

/-- An opcode that is not listed is refused whichever row asks (09 R302, 1). -/
theorem eci_of_unlisted (hunlisted : listedOp (par s m.val 0 2) = false) :
    eci op m g s = .next (respond s m.val stBadCommand 0 []) := by
  simp [eci, htakes, hunlisted]

/-- A command that fails step 2 or 3 answers that status and byte (09 R302). -/
theorem eci_of_check {e : Nat × Nat} (hop : par s m.val 0 2 = op) (hlisted : listedOp op = true)
    (hcheck : cmdCheck s m.val op = some e) : eci op m g s = .next (respond s m.val e.1 e.2 []) := by
  simp [eci, htakes, hop, hlisted, hcheck]

end

/-- Settles O28: the three ways a command is refused, and the frame of the response that refuses it. -/
theorem refusalsLeaveTheRest : Obligations.RefusalsLeaveTheRest := by
  intro op m g s htakes
  exact ⟨eci_of_unlisted htakes, fun e => eci_of_check htakes, fun e hready hlisted => eci_refused hready hlisted,
    fun st fd => ⟨_, _, _, respond_eq s m.val st fd []⟩⟩

/-! ### Mailbox control -/

section

variable {s : State} {m : Nat}

/-- RING of a mailbox that is not BUSY puts it behind those rung before it (09 R297). -/
theorem mbRing_of_free (hfree : (getMb s m).st ≠ .busy) : mbRing m s =
    { setMb s m { getMb s m with st := .busy, rsp := [], wait := .none } with mbOrder := s.mbOrder ++ [m] } :=
  if_neg hfree

/-- RING of a BUSY mailbox sets OVERRUN. -/
theorem mbRing_of_busy (hbusy : (getMb s m).st = .busy) :
    mbRing m s = setMb s m { getMb s m with overrun := true } := if_pos hbusy

/-- RELEASE of a DONE mailbox. -/
theorem mbRelease_of_done (hdone : (getMb s m).st = .done) :
    mbRelease m s = setMb s m { getMb s m with st := .idle } := if_pos hdone

/-- RELEASE of another mailbox. -/
theorem mbRelease_of_other (hother : (getMb s m).st ≠ .done) : mbRelease m s = s := if_neg hother

end

/-! ### The mailboxes after a block reset -/

/-- Every mailbox at reset: none is listed but mailbox 0, which the management owns (09 Table 09.8). -/
def MailboxesReset (s : State) : Prop := s.mbs = [(0, { owner := 0xF })] ∧ s.mbOrder = []

theorem mailboxesReset_wiped (s : State) (powerOn : Bool) : MailboxesReset (wiped s powerOn) := ⟨rfl, rfl⟩

/-- The sampling of phase 3 leaves the mailboxes. -/
theorem mailboxesReset_samplePhase {s : State} (h : MailboxesReset s) : MailboxesReset (samplePhase s) := by
  unfold samplePhase
  repeat' split
  all_goals exact h

/-- A block reset, or the secure wipe that takes over from it, resets the mailboxes (15 R445). -/
theorem mailboxesReset_blockReset (s : State) : MailboxesReset (blockReset s) := by
  rw [blockReset, dueWipe]
  cases s.life.wipe with
  | none =>
    rw [Option.map_none, Option.getD_none, blockWipe]
    split
    · exact mailboxesReset_wiped s false
    · exact mailboxesReset_samplePhase (mailboxesReset_wiped s false)
  | some lv =>
    rw [Option.map_some, Option.getD_some]
    split
    · exact mailboxesReset_wiped s false
    · cases lv <;> exact mailboxesReset_samplePhase (mailboxesReset_wiped s false)

/-- A mailbox at reset is IDLE with empty buffers. -/
theorem getMb_of_reset {s : State} (h : MailboxesReset s) (k : Nat) :
    (getMb s k).st = .idle ∧ (getMb s k).cmd = [] ∧ (getMb s k).rsp = [] := by
  rw [getMb, h.1, tget]
  split
  · exact ⟨rfl, rfl, rfl⟩
  · exact ⟨rfl, rfl, rfl⟩

/-- A block reset that has not wiped the block does so (14 R432). -/
theorem execBlockReset_of_due {s : State} {q : LStep} (hq : running s 4 0 = some q) (hdue : q.wiped = false) :
    execBlockReset s = .next (blockStep s) := by
  simp [execBlockReset, hq, hdue]

/-- Settles O29: the control writes, the frame of a response, and the wipe of a block reset. -/
theorem mailboxControlActs : Obligations.MailboxControlActs := by
  refine ⟨fun s m hlive => ⟨fun hfree => ?ring, fun hbusy => ?overrun, fun hdone => ?release, fun hother => ?still,
    access_live _ hlive, fun hbusy o n d ho => ?busy⟩, fun s m status field results _ => ?response,
    fun s q hq hdue => ?reset⟩
  case ring => exact (access_live _ hlive).trans (congrArg _ (mbRing_of_free hfree))
  case overrun => exact (access_live _ hlive).trans (congrArg _ (mbRing_of_busy hbusy))
  case release => exact (access_live _ hlive).trans (congrArg _ (mbRelease_of_done hdone))
  case still => exact (access_live _ hlive).trans (congrArg _ (mbRelease_of_other hother))
  case busy =>
    refine (execRegisterWrite_of_good hlive).trans (congrArg _ ?_)
    rw [toNat_cmdOffset ho]
    exact windowWrite_of_busy (cmdBuffer_of_mailbox m.isLt ho) hbusy
  case response =>
    intro t
    have hmb : getMb t m.val = _ := getMb_respond_same s m.val status field results
    rw [hmb]
    exact ⟨rfl, rfl⟩
  case reset =>
    have hreset : MailboxesReset (blockStep s) := mailboxesReset_blockReset s
    exact ⟨_, execBlockReset_of_due hq hdue, hreset.2, getMb_of_reset hreset⟩

end Sys2Proof.Proofs
end

section
/-! SUPPORT and proof of O11. Events (09 R316, Table 09.16): the queue of a partition, the ring that takes its records,
and where a record holds LOST. -/

namespace Sys2Proof.Proofs

open Sys2Proof Sys2Proof.Machine

/-! ### The queue -/

section

variable {s : State} {p : Nat} {code : BitVec 16} {b : List Byte}

/-- An event that finds the queue and the ring full is counted alone. -/
theorem postEvent_of_full (hfull : 256 + evRoom (getPart s p) ≤ (getPart s p).queue.length) :
    postEvent s p code b =
      setPart s p { getPart s p with lost := min ((getPart s p).lost + 1) 0xFFFFFFFF } := if_pos hfull

/-- Any other event is queued last, with the count of those lost before it. -/
theorem postEvent_of_room (hroom : (getPart s p).queue.length < 256 + evRoom (getPart s p)) :
    postEvent s p code b = setPart s p { getPart s p with
      queue := (getPart s p).queue ++ [⟨code, (getPart s p).lost, timeNow s, b⟩], lost := 0 } :=
  if_neg (Nat.not_le.mpr hroom)

/-- An event is a write of its partition. -/
theorem postEvent_eq_setPart (s : State) (p : Nat) (code : BitVec 16) (b : List Byte) :
    ∃ q, postEvent s p code b = setPart s p q := by
  rcases Nat.lt_or_ge (getPart s p).queue.length (256 + evRoom (getPart s p)) with hroom | hfull
  · exact ⟨_, postEvent_of_room hroom⟩
  · exact ⟨_, postEvent_of_full hfull⟩

end

/-! ### The ring -/

section

variable {s : State} {p : Fin 4} {e : EvRec} {r : List EvRec} (hqueue : (getPart s p.val).queue = e :: r)
  (hrun : s.life.phase = .running)
include hqueue hrun

/-- While no record is on its way, the oldest one goes to a ring that has room. -/
theorem execEventPost_of_open (hjob : jobOf s (.event p.val) = none) (hopen : ringOpen s p.val = true) :
    execEventPost p s = .next (addJob s (.event p.val) [regWrites s (getPart s p.val).ringReg
      (eqPlace (getPart s p.val))
      (eventBytes e (phaseBit (getPart s p.val).wrote (getPart s p.val).ringLog))]) := by
  simp [execEventPost, hqueue, hrun, hjob, hopen]

/-- Without room in the ring nothing happens. -/
theorem execEventPost_of_shut (hjob : jobOf s (.event p.val) = none) (hshut : ringOpen s p.val = false) :
    execEventPost p s = .next s := by
  simp [execEventPost, hqueue, hrun, hjob, hshut]

section

variable (hjob : (jobOf s (.event p.val)).isSome = true)
include hjob

/-- A record whose WRITE has not ended is waited for. -/
theorem execEventPost_of_waiting (hwait : jobDone s (.event p.val) = false) : execEventPost p s = .next s := by
  simp [execEventPost, hqueue, hrun, hjob, hwait]

section

variable (hdone : jobDone s (.event p.val) = true)
include hdone

/-- A record that met a port fault is written again (log entry 161). -/
theorem execEventPost_of_fault (herr : jobErr s (.event p.val) = true) :
    execEventPost p s = .next (dropJob s (.event p.val)) := by
  simp [execEventPost, hqueue, hrun, hjob, hdone, herr]

/-- Once its WRITE has ended the record leaves the queue and PROD advances. -/
theorem execEventPost_of_written (hgood : jobErr s (.event p.val) = false) :
    execEventPost p s = .next (eventPosted s p.val) := by
  simp [execEventPost, hqueue, hrun, hjob, hdone, hgood]

end

end

end

/-- The part of a list of bytes that stands behind n of them. -/
theorem take_drop_take_append {α : Type} {a l t : List α} {n k z : Nat} (ha : a.length = n) (hl : l.length = k)
    (hz : n + k ≤ z) : (((a ++ (l ++ t)).take z).drop n).take k = l := by
  rw [List.drop_take, List.take_take, Nat.min_eq_left (by omega), List.drop_left' ha, List.take_left' hl]

/-- Bytes 4 to 7 of an event record hold LOST (09 Table 09.16). -/
theorem eventBytes_lost (e : EvRec) (ph : Nat) : ((eventBytes e ph).drop 4).take 4 = leBytes 4 e.lost := by
  rw [eventBytes, List.append_assoc, List.append_assoc, List.append_assoc]
  exact take_drop_take_append (by simp) (by simp) (by decide)

/-- Settles O11: an event is counted or queued, its record goes through the ring's port, and it carries LOST. -/
theorem eventsQueueOrCount : Obligations.EventsQueueOrCount := by
  refine ⟨fun s p code b hwf => ⟨fun hfull => ?full, fun hroom => ?room, fun n hn => ?others, ?frame⟩,
    fun s p e r hqueue hrun => ⟨execEventPost_of_open hqueue hrun, execEventPost_of_shut hqueue hrun,
      execEventPost_of_waiting hqueue hrun, execEventPost_of_fault hqueue hrun, fun hjob hdone hgood => ?posted⟩,
    eventBytes_lost⟩
  case full => rw [postEvent_of_full hfull, getPart_setPart_same s p _ hwf]; exact ⟨rfl, rfl⟩
  case room => rw [postEvent_of_room hroom, getPart_setPart_same s p _ hwf]; exact ⟨rfl, rfl⟩
  case others =>
    obtain ⟨q, hq⟩ := postEvent_eq_setPart s p code b
    rw [hq, getPart_setPart_other s p n q hn]
  case frame =>
    obtain ⟨q, hq⟩ := postEvent_eq_setPart s p code b
    exact ⟨_, hq⟩
  case posted =>
    refine (execEventPost_of_written hqueue hrun hjob hdone hgood).trans (congrArg _ ?_)
    rw [eventPosted, hqueue]
    rfl

end Sys2Proof.Proofs
end

section
/-! SUPPORT and proof of O33. Ring entries (09 R310 to R312): the row that takes an entry, the two reads that it waits
for, and what the checks decide. -/

namespace Sys2Proof.Proofs

open Sys2Proof Sys2Proof.Machine

/-- The firmware's read of a channel's next entry (09 R310). -/
def entryGot (s : State) (i : Nat) : Got :=
  fwRead s (.entry i 0) (getRegion s (regIdx (getChan s i).sqReg)).host [(sqPlace s i, 64)]

/-- The firmware's read of an entry's stream list (09 R312). -/
def listGot (s : State) (i : Nat) (b : List Byte) : Got :=
  fwRead s (.entry i 1) (getRegion s (regIdx (listsOf b).lreg)).host [listAt s b]

/-! ### Taking an entry -/

section

variable {s : State} {i type : Nat} {f : State → Nat → List Byte → State} (htakes : takes s i = true)
include htakes

/-- The row waits for the read of the entry. -/
theorem takeEntry_of_wait {t : State} (hwait : entryGot s i = .wait t) : takeEntry type f i s = .next t := by
  rw [entryGot] at hwait
  simp [takeEntry, htakes, hwait]

/-- After a port fault the entry is read again (log entry 161). -/
theorem takeEntry_of_bad (hbad : entryGot s i = .bad) :
    takeEntry type f i s = .next (dropUsers s (entryUser i)) := by
  rw [entryGot] at hbad
  simp [takeEntry, htakes, hbad]

section

variable {m : Mem} {b : List Byte} (hhere : entryGot s i = .here m) (hb : b = loadBytes m (sqPlace s i) 64)
include hhere hb

/-- An unlisted TYPE is refused whichever row takes it (log entry 102). -/
theorem takeEntry_of_unlisted (hunlisted : 2 < hdrN b 0 1) :
    takeEntry type f i s = .next (refuseEntry (advance s i) i stBadCommand b) := by
  rw [entryGot] at hhere
  subst hb
  simp [takeEntry, htakes, hhere, hunlisted]

/-- The row of the entry's TYPE acts on it. -/
theorem takeEntry_of_type (htype : hdrN b 0 1 = type) (hlisted : type ≤ 2) :
    takeEntry type f i s = .next (f s i b) := by
  rw [entryGot] at hhere
  subst hb htype
  simp [takeEntry, htakes, hhere, Nat.not_lt.mpr hlisted]

end

end

/-- The rows of a ring all take an entry in the one way. -/
theorem exec_eq_takeEntry {i : Fin 256} {c : Instr} (hc : c ∈ [Instr.nop i, .runChunk i, .runTask i]) (s : State) :
    ∃ type f, exec c s = takeEntry type f i.val s := by
  simp only [List.mem_cons, List.not_mem_nil, or_false] at hc
  rcases hc with rfl | rfl | rfl
  · exact ⟨0, fun s i _ => advance s i, rfl⟩
  · exact ⟨1, runEntry, rfl⟩
  · exact ⟨2, runEntry, rfl⟩

/-! ### The checks -/

section

variable {s : State} {i st : Nat} {b : List Byte} {hs : List Word} {w : Slotting}

/-- The checks of an entry begin with those of its fields (09 R312). -/
theorem entryCheck_of_refused (hrefused : entryFields s i b = .error st) : entryCheck s i b hs = .error st := by
  rw [entryCheck, hrefused]
  rfl

/-- An entry that passes its checks passes those of its fields. -/
theorem entryFields_of_passed (hpassed : entryCheck s i b hs = .ok w) : entryFields s i b = .ok () := by
  obtain ⟨_, hfields, -⟩ := Except.bind_ok hpassed
  exact hfields

/-- An entry whose lists are here and that passes is accepted. -/
theorem runListed_of_passed (hpassed : entryCheck s i b hs = .ok w) :
    runListed s i b hs = acceptEntry (advance s i) i b hs w := by
  simp only [runListed, hpassed]

/-- An entry whose lists are here and that fails is refused. -/
theorem runListed_of_failed (hfailed : entryCheck s i b hs = .error st) :
    runListed s i b hs = refuseEntry (advance s i) i st b := by
  simp only [runListed, hfailed]

/-- An entry whose fields fail is refused before its stream list is read. -/
theorem runEntry_of_refused (hrefused : entryFields s i b = .error st) :
    runEntry s i b = refuseEntry (advance s i) i st b := by
  simp only [runEntry, hrefused]

/-- A task has no stream list. -/
theorem runEntry_of_task (hfields : entryFields s i b = .ok ()) (htask : hdrN b 0 1 = 2) :
    runEntry s i b = runListed s i b [] := by
  simp [runEntry, hfields, listsOf, htask]

/-- A task that fails is refused with the status of its first failure. -/
theorem runEntry_of_failed_task (htask : hdrN b 0 1 = 2) (hfailed : entryCheck s i b [] = .error st) :
    runEntry s i b = refuseEntry (advance s i) i st b := by
  cases hfields : entryFields s i b with
  | error st' =>
    obtain rfl : st' = st := Except.error.inj ((entryCheck_of_refused hfields).symm.trans hfailed)
    exact runEntry_of_refused hfields
  | ok a => rw [runEntry_of_task hfields htask, runListed_of_failed hfailed]

section

variable (hfields : entryFields s i b = .ok ()) (hchunk : hdrN b 0 1 = 1)
include hfields hchunk

/-- A chunk waits for the read of its stream list. -/
theorem runEntry_of_wait {t : State} (hwait : listGot s i b = .wait t) : runEntry s i b = t := by
  rw [listGot] at hwait
  simp [runEntry, hfields, show (listsOf b).chunk = true by simp [listsOf, hchunk], hwait]

/-- A port fault of that read refuses the chunk (log entry 161). -/
theorem runEntry_of_bad (hbad : listGot s i b = .bad) :
    runEntry s i b = refuseEntry (advance s i) i stFaulted b := by
  rw [listGot] at hbad
  simp [runEntry, hfields, show (listsOf b).chunk = true by simp [listsOf, hchunk], hbad]

/-- A chunk whose stream list is here goes through its checks. -/
theorem runEntry_of_here {m : Mem} (hhere : listGot s i b = .here m) :
    runEntry s i b = runListed s i b (streamList s b m) := by
  rw [listGot] at hhere
  simp [runEntry, hfields, show (listsOf b).chunk = true by simp [listsOf, hchunk], hhere]

end

end

/-! ### A refused entry -/

/-- A refused entry takes the channel's next sequence number (09 R311). -/
theorem getChan_refuseEntry_same {s : State} {i st : Nat} {b : List Byte} (hwf : twf {} s.chans = true) :
    getChan (refuseEntry s i st b) i = { getChan s i with nextSeq := (getChan s i).nextSeq + 1 } :=
  getChan_setChan_same s i _ hwf

/-- A refused entry leaves the other channels. -/
theorem getChan_refuseEntry_other {s : State} {i j st : Nat} {b : List Byte} (hj : j ≠ i) :
    getChan (refuseEntry s i st b) j = getChan s j :=
  getChan_setChan_other s i j _ hj

/-- Settles O33: the row waits for the entry, then for a chunk's stream list, and the checks accept or refuse it. -/
theorem ringEntriesTaken : Obligations.RingEntriesTaken := by
  refine ⟨fun s i htakes c hc => ?reads, fun s i m htakes hhere => ⟨fun hnop => ?nop,
    fun hunlisted c hc => ?unlisted, fun htask => ⟨fun w hpassed => ?taskPassed, fun st hfailed => ?taskFailed⟩,
    fun hchunk => ⟨fun st hrefused => ?chunkRefused, fun hfields => ⟨fun t hwait => ?chunkWaits,
      fun hbad => ?chunkFault, fun l hl => ⟨fun w hpassed => ?chunkPassed, fun st hfailed => ?chunkFailed⟩⟩⟩⟩,
    fun s i st b hwf _ => ?refused⟩
  case reads =>
    obtain ⟨type, f, hexec⟩ := exec_eq_takeEntry hc s
    rw [hexec]
    exact ⟨fun t hwait => takeEntry_of_wait htakes hwait, fun hbad => takeEntry_of_bad htakes hbad⟩
  case nop => exact takeEntry_of_type (f := fun s i _ => advance s i) htakes hhere rfl hnop (by decide)
  case unlisted =>
    obtain ⟨type, f, hexec⟩ := exec_eq_takeEntry hc s
    rw [hexec]
    exact takeEntry_of_unlisted htakes hhere rfl hunlisted
  case taskPassed =>
    refine (takeEntry_of_type htakes hhere rfl htask (by decide)).trans (congrArg _ ?_)
    rw [runEntry_of_task (entryFields_of_passed hpassed) htask, runListed_of_passed hpassed]
  case taskFailed =>
    exact (takeEntry_of_type htakes hhere rfl htask (by decide)).trans
      (congrArg _ (runEntry_of_failed_task htask hfailed))
  case chunkRefused =>
    exact (takeEntry_of_type htakes hhere rfl hchunk (by decide)).trans (congrArg _ (runEntry_of_refused hrefused))
  case chunkWaits =>
    exact (takeEntry_of_type htakes hhere rfl hchunk (by decide)).trans
      (congrArg _ (runEntry_of_wait hfields hchunk hwait))
  case chunkFault =>
    exact (takeEntry_of_type htakes hhere rfl hchunk (by decide)).trans
      (congrArg _ (runEntry_of_bad hfields hchunk hbad))
  case chunkPassed =>
    refine (takeEntry_of_type htakes hhere rfl hchunk (by decide)).trans (congrArg _ ?_)
    rw [runEntry_of_here hfields hchunk hl, runListed_of_passed hpassed]
  case chunkFailed =>
    refine (takeEntry_of_type htakes hhere rfl hchunk (by decide)).trans (congrArg _ ?_)
    rw [runEntry_of_here hfields hchunk hl, runListed_of_failed hfailed]
  case refused =>
    intro t
    have hsame : getChan t i = _ := getChan_refuseEntry_same hwf
    exact ⟨by rw [hsame], fun j hj => getChan_refuseEntry_other hj, _, rfl, rfl, rfl, rfl, rfl⟩

end Sys2Proof.Proofs
end

section
/-! SUPPORT and proof of O36. Completion records (09 R311, R314; 12 R365, R376): the steps of posting, the WRITEs that
carry a record, and what the end of a fence confirms. -/

namespace Sys2Proof.Proofs

open Sys2Proof Sys2Proof.Machine

/-! ### The steps of posting -/

section

variable {s : State} {i : Nat} {w q : Bool}

/-- A port fault of a record or of its fence comes first. -/
theorem postStep_of_fault (hbad : jobErr s (.post i 1) = true ∨ jobErr s (.post i 2) = true) :
    postStep s i w q = unconfirmed s i := by
  simp only [postStep, postEnded, if_pos hbad]

section

variable (hgood : ¬(jobErr s (.post i 1) = true ∨ jobErr s (.post i 2) = true))
include hgood

/-- A fence that has ended confirms its records. -/
theorem postStep_of_fenced (hfenced : postsFrom s i 3 ≠ []) (hdone : jobDone s (.post i 2) = true) :
    postStep s i w q = confirm s i := by
  have hended : (postsFrom s i 3).isEmpty = false ∧ jobDone s (.post i 2) = true :=
    ⟨by simpa using hfenced, hdone⟩
  simp only [postStep, postEnded, if_neg hgood, if_pos hended]

section

variable (hrest : ¬(postsFrom s i 3 ≠ [] ∧ jobDone s (.post i 2) = true))
include hrest

/-- Nothing has ended. -/
theorem postEnded_of_rest : postEnded s i = none := by
  have hended : ¬((postsFrom s i 3).isEmpty = false ∧ jobDone s (.post i 2) = true) := by simpa using hrest
  rw [postEnded, if_neg hgood, if_neg hended]

/-- The oldest record not written has its data fenced first (12 R365). -/
theorem postStep_of_unfenced {o : Post}
    (ho : (s.posts.find? fun o => o.ch == i && decide (o.stage ≤ 1)) = some o) (hstage : o.stage = 0) :
    postStep s i true q = addJob (nextPost s i 0) (.post i 0) [dataFence o] := by
  have hdue : dueRecord s i = some o := by rw [dueRecord, ho, Option.filter_some_pos (by simp [hstage])]
  simp only [postStep, postEnded_of_rest hgood hrest, if_true, hdue, hstage]

/-- Behind that fence it goes to the CQ's port, when there is room for it. -/
theorem postStep_of_fencedData {o : Post}
    (ho : (s.posts.find? fun o => o.ch == i && decide (o.stage ≤ 1)) = some o) (hstage : o.stage = 1)
    (hdone : jobDone s (.post i 0) = true)
    (hroom : writable s (getChan s i).cqReg (cqPlace (getChan s i) (postsFrom s i 2).length) 64 = true) :
    postStep s i true q = writeRecord s i o := by
  have hdue : dueRecord s i = some o := by rw [dueRecord, ho, Option.filter_some_pos (by simp [hdone, hroom])]
  have hwrite : ¬o.stage = 0 := by omega
  simp only [postStep, postEnded_of_rest hgood hrest, if_true, hdue, if_neg hwrite]

/-- When no record takes a step, the CQ may be fenced. -/
theorem postStep_of_none (hnone : w = false ∨ dueRecord s i = none) :
    postStep s i w q = if q = true ∧ fenceDue s i = true then fenceRecords s i else s := by
  have hdue : (if w then dueRecord s i else none) = none := by rcases hnone with rfl | hnone <;> simp [*]
  simp only [postStep, postEnded_of_rest hgood hrest, hdue]

end

end

/-- Posting goes on while the block runs. -/
theorem execCompletionPost_of_running {i : Fin 256} (hrun : s.life.phase = .running) :
    execCompletionPost i w q s = .next (postStep s i.val w q) := if_pos hrun

end

/-! ### Writing a record -/

/-- A record that meets its deadline goes to the CQ's port, and no event is posted (09 R314). -/
theorem writeRecord_of_timely {s : State} {i : Nat} {o : Post} (htimely : timeNow s ≤ o.deadline) :
    writeRecord s i o = moreJob (dropJob (nextPost s i 1) (.post i 0)) (.post i 1)
      (regWrites s (getChan s i).cqReg (cqPlace (getChan s i) (postsFrom s i 2).length)
        (recordOf o (if jobErr s (.post i 0) = true ∧ hostCq s i = true then stHostLost else o.status)
          (phaseBit ((getChan s i).wrote + (postsFrom s i 2).length) (getChan s i).cqLog) 0 (timeNow s))) := by
  simp only [writeRecord, if_neg (Nat.not_lt.mpr htimely)]

/-- A completion record has 64 bytes (09 Table 09.15). -/
theorem length_recordOf (o : Post) (status phase late now : Nat) :
    (recordOf o status phase late now).length = 64 := by simp [recordOf]

/-- Bytes stored one part behind the other. -/
theorem storeBytes_append (m : Mem) (a : Nat) (xs ys : List Byte) :
    storeBytes m a (xs ++ ys) = storeBytes (storeBytes m a xs) (a + xs.length) ys := by
  induction xs generalizing m a with
  | nil => rfl
  | cons x r ih =>
    rw [List.cons_append, storeBytes, ih, storeBytes, List.length_cons, Nat.add_right_comm, Nat.add_assoc]

/-- The pieces of a WRITE land as the whole would (12 R362). -/
theorem foldl_splitBursts (host : Bool) (fuel a : Nat) (bs : List Byte) (m : Mem) (hfuel : bs.length < fuel) :
    (splitBursts .write host fuel a bs bs.length).foldl (fun m b => storeBytes m b.addr b.data) m =
      storeBytes m a bs := by
  induction fuel generalizing a bs m with
  | zero => omega
  | succ fuel ih =>
    rcases Nat.eq_zero_or_pos bs.length with hnil | hpos
    · rw [List.length_eq_zero_iff.mp hnil]
      rfl
    · have hpiece : 0 < min bs.length (256 - a % 256) := by omega
      have hlen : (bs.drop (min bs.length (256 - a % 256))).length = bs.length - min bs.length (256 - a % 256) :=
        List.length_drop
      rw [splitBursts, if_neg (by omega)]
      dsimp only
      rw [List.foldl_cons, ← hlen, ih _ _ _ (by omega)]
      conv_rhs => rw [← List.take_append_drop (min bs.length (256 - a % 256)) bs]
      rw [storeBytes_append, List.length_take, Nat.min_eq_left (Nat.min_le_left _ _)]

/-- The WRITEs of bytes into a region land as the bytes at their place. -/
theorem foldl_regWrites (s : State) (h : BitVec 16) (ofs : Nat) (bs : List Byte) (m : Mem) :
    (regWrites s h ofs bs).foldl (fun m b => storeBytes m b.addr b.data) m =
      storeBytes m ((getRegion s (regIdx h)).base + ofs) bs :=
  foldl_splitBursts _ _ _ bs m (Nat.lt_succ_self _)

/-! ### The end of a fence -/

/-- From s to t the channel of index i and the records stay, and no mailbox waits for that channel's destruction. -/
def Spared (i : Nat) (s t : State) : Prop :=
  getChan t i = getChan s i ∧ t.posts = s.posts ∧ ∀ m, (getMb t m).wait ≠ .chDestroy i

/-- A response ends its mailbox's wait. -/
theorem spared_respond {s t : State} {i m st fd : Nat} {r : List (Nat × Nat × Nat)} (h : Spared i s t) :
    Spared i s (respond t m st fd r) := by
  obtain ⟨hchan, hposts, hwait⟩ := h
  refine ⟨hchan, hposts, fun n => ?_⟩
  by_cases hn : n = m
  · subst hn
    rw [getMb_respond_same]
    exact Wait.noConfusion
  · rw [getMb_respond_other t m st fd r hn]
    exact hwait n

/-- Channels whose destruction a mailbox waits for go; another one stays (09 R315). -/
theorem spared_resolveChDestroy {s : State} {i : Nat} (hwait : ∀ m, (getMb s m).wait ≠ .chDestroy i) :
    Spared i s (resolveChDestroy s) := by
  unfold resolveChDestroy
  refine List.foldlRecOn _ _ ⟨rfl, rfl, hwait⟩ fun t ht m _ => ?_
  dsimp only
  split
  case h_1 ch _ hch =>
    have hne : i ≠ ch := by
      rintro rfl
      exact ht.2.2 m hch
    split
    · exact spared_respond ⟨(getChan_setChan_other (dropChan t ch) ch i _ hne).trans ht.1, ht.2⟩
    · exact ht
  case h_2 => exact ht

/-- What a fence's end does before destructions that wait for it are resolved (12 R376). -/
theorem confirm_eq_resolve {s : State} {i : Nat} (hwf : twf {} s.chans = true) :
    ∃ u, confirm s i = resolveChDestroy u ∧ getChan u i = { getChan s i with
      cqProd := (getChan s i).cqProd + BitVec.ofNat 16 (postsFrom s i 3).length
      wrote := (getChan s i).wrote + (postsFrom s i 3).length
      lastConf := (((postsFrom s i 3).getLast?).map (·.seq)).getD (getChan s i).lastConf } ∧
    u.posts = s.posts.filter (fun o => !(o.ch == i && decide (o.stage = 3))) ∧ u.mbs = s.mbs := by
  unfold confirm
  dsimp only
  refine ⟨_, rfl, ?_⟩
  split
  · exact ⟨getChan_setChan_same _ i _ hwf, rfl, rfl⟩
  · exact ⟨getChan_setChan_same _ i _ hwf, rfl, rfl⟩

/-- A port fault of a record or a fence on the host link loses the channel (12 R381). -/
theorem reqFault_post_host {s : State} {i k : Nat} {unit : BitVec 8} {loc : Word} {halt : Bool} {a st : Nat}
    (hk : k ≠ 0) (hhost : hostCq s i = true) :
    reqFault s (.post i k) unit loc halt a st = loseChan (report s none unit 0 none none loc) i := if_pos ⟨hk, hhost⟩

/-- Settles O36: the step that posting takes next, the bytes that a record's WRITEs leave, and what a fence's end and a
fault do. -/
theorem recordsReachTheirRings : Obligations.RecordsReachTheirRings := by
  refine ⟨fun s i w q hrun => ⟨fun hbad => ?fault, fun hgood ⟨hfenced, hdone⟩ => ?fenced, fun hgood hrest =>
      ⟨fun o hw ho => ⟨fun hstage => ?dataFence, fun hstage hdone hroom => ?record⟩,
        fun hnone => ⟨fun hq hdue => ?fence, fun hstop => ?rest⟩⟩⟩,
    fun s n o => writeRecord_of_timely, length_recordOf, fun s h ofs bs m hm => ?bytes,
    fun s i hwf _ hwait => ?confirmed, fun s i j => rfl, fun s i k unit loc halt a st => reqFault_post_host⟩
  case fault => exact (execCompletionPost_of_running hrun).trans (congrArg _ (postStep_of_fault hbad))
  case fenced => exact (execCompletionPost_of_running hrun).trans (congrArg _ (postStep_of_fenced hgood hfenced hdone))
  case dataFence =>
    subst hw
    exact (execCompletionPost_of_running hrun).trans (congrArg _ (postStep_of_unfenced hgood hrest ho hstage))
  case record =>
    subst hw
    exact (execCompletionPost_of_running hrun).trans
      (congrArg _ (postStep_of_fencedData hgood hrest ho hstage hdone hroom))
  case fence =>
    exact (execCompletionPost_of_running hrun).trans
      (congrArg _ ((postStep_of_none hgood hrest hnone).trans (if_pos ⟨hq, hdue⟩)))
  case rest =>
    refine (execCompletionPost_of_running hrun).trans
      (congrArg _ ((postStep_of_none hgood hrest hnone).trans (if_neg ?_)))
    rintro ⟨rfl, hdue⟩
    simp [hdue] at hstop
  case bytes =>
    rw [foldl_regWrites]
    exact ⟨loadBytes_storeBytes m _ bs hm, fun x hx => loadByte_storeBytes_out m _ x bs hx⟩
  case confirmed =>
    obtain ⟨u, hu, hchan, hposts, hmbs⟩ := confirm_eq_resolve (i := i) hwf
    obtain ⟨hkept, hleft, -⟩ := spared_resolveChDestroy (s := u) (i := i) (by simpa only [getMb, hmbs] using hwait)
    rw [hu, hkept, hleft, hchan]
    exact ⟨rfl, rfl, rfl, hposts⟩

end Sys2Proof.Proofs
end

section
/-! SUPPORT and proof of O20. The context commands (07 R239, R257; 09 R301, R303, R305): what each answers when its
checks have passed. -/

namespace Sys2Proof.Proofs

open Sys2Proof Sys2Proof.Machine

section

variable {s : State} {m : Mb}

/-- CONTEXT_CREATE of the lowest free context of a Caldera, or of a free one that it names (09 R301). -/
theorem execContextCreate_of_free {k : Nat} (hready : cmdReady 0x30 m.val s) (hcal : par s m.val 8 1 ≤ 3)
    (hpart : (getCal s (par s m.val 8 1)).part = partOf s m.val)
    (hfree : par s m.val 9 1 = 0xFF ∧ freeIdx 16 (fun j => (getCtx s (16 * par s m.val 8 1 + j)).exist) = some k ∨
      par s m.val 9 1 = k ∧ k ≤ 15 ∧ (getCtx s (16 * par s m.val 8 1 + k)).exist = false) :
    execContextCreate m s =
      okTo m.val (newCtx s (16 * par s m.val 8 1 + k)) [(8, 1, 16 * par s m.val 8 1 + k)] := by
  refine eci_ok (a := .done _ [(8, 1, _)]) hready (by decide) ?_
  rcases hfree with ⟨hlowest, hk⟩ | ⟨rfl, hk, hexist⟩
  case inl => simp [hcal, hpart, hlowest, hk, bind_of_ok]
  case inr =>
    have hnamed : ¬par s m.val 9 1 = 0xFF := by omega
    simp [hcal, hpart, hk, hnamed, hexist, bind_of_ok]

section

variable (hctx : needCtx s (partOf s m.val) (par s m.val 8 1) = .ok ())
include hctx

/-- CONTEXT_DESTROY of a context without an item in a window keeps its stall counters alone (log entry 74). -/
theorem execContextDestroy_of_idle (hready : cmdReady 0x31 m.val s) (hidle : winItemOf s (par s m.val 8 1) = none) :
    execContextDestroy m s = okTo m.val (wipeTable (setCtx s (par s m.val 8 1)
      { stalls := (getCtx s (par s m.val 8 1)).stalls }) (par s m.val 8 1)) [] := by
  refine eci_ok (a := .done _ []) hready (by decide) ?_
  simp [hctx, hidle, bind_of_ok]

/-- CONTEXT_QUERY reports the context, and then clears its stall counters when it is asked to (09 R305). -/
theorem execContextQuery_of_live (hready : cmdReady 0x33 m.val s) : execContextQuery m s = okTo m.val
    (if bit (par s m.val 9 1) 0 then
      setCtx s (par s m.val 8 1) { getCtx s (par s m.val 8 1) with stalls := [] } else s)
    (ctxReport s (par s m.val 8 1)) := by
  refine eci_ok (a := .done _ (ctxReport s _)) hready (by decide) ?_
  simp only [hctx, bind_of_ok]
  rfl

/-- CONTEXT_SET writes ASTAT (09 R305). -/
theorem execContextSet_of_live (hready : cmdReady 0x34 m.val s) : execContextSet m s =
    okTo m.val (ctxWrite s (par s m.val 8 1) (.astat (BitVec.ofNat 32 (par s m.val 12 4)))) [] := by
  refine eci_ok (a := .done _ []) hready (by decide) ?_
  simp only [hctx, bind_of_ok]
  rfl

/-- CONTEXT_SEED writes the stochastic rounding state (06 R186). -/
theorem execContextSeed_of_live (hready : cmdReady 0x35 m.val s) : execContextSeed m s =
    okTo m.val (ctxWrite s (par s m.val 8 1) (.seed (BitVec.ofNat 32 (par s m.val 12 4)))) [] := by
  refine eci_ok (a := .done _ []) hready (by decide) ?_
  simp only [hctx, bind_of_ok]
  rfl

/-- CONTEXT_HALT asks for the halt, and answers whether an item is in a window (07 R257). -/
theorem execContextHalt_of_live (hready : cmdReady 0x36 m.val s) : execContextHalt m s =
    okTo m.val (askHalt s (par s m.val 8 1)) [(8, 1, b2n (winItemOf s (par s m.val 8 1)).isSome)] := by
  refine eci_ok (a := .done _ [(8, 1, _)]) hready (by decide) ?_
  simp only [hctx, bind_of_ok]
  rfl

end

end

/-- Settles O20: each context command answers as its own rule says. -/
theorem contextCommandsAnswer : Obligations.ContextCommandsAnswer := by
  intro s m
  refine ⟨?create, ?destroy, ?query, ?set, ?seed, ?halt⟩
  case create => exact fun hready k hcal hpart hfree => execContextCreate_of_free hready hcal hpart hfree
  case destroy => exact fun hready hctx hidle => execContextDestroy_of_idle hctx hready hidle
  case query => exact fun hready hctx => execContextQuery_of_live hctx hready
  case set => exact fun hready hctx => execContextSet_of_live hctx hready
  case seed => exact fun hready hctx => execContextSeed_of_live hctx hready
  case halt => exact fun hready hctx => execContextHalt_of_live hctx hready

end Sys2Proof.Proofs
end

section
/-! SUPPORT and refutations of O19 and O23. Commands that end an access of the firmware.

EVENT_RING gives a partition another ring, and CHANNEL_DESTROY and CHANNEL_RESUME take a channel's rings away. A record
on its way into the ring before, or a read of its next entry, then belongs to nothing: the model drops it, with the jobs
of the users concerned (12 R374 to R377; log entry 161). The statements have each command change the partition, or the
channel, and nothing else, which leaves such an access under way. -/

namespace Sys2Proof.Proofs

open Sys2Proof Sys2Proof.Machine

/-- The block with partition 0, an event that waits for its ring, and channel 0 with an entry in its SQ, all rings in
region 0; mailbox 0 holds a command, and an access of the firmware has ended that it has not taken up yet. -/
def accessing (cmd : Mem) (u : User) : State :=
  { State.reset with
    life := { phase := .running }
    cp := { fwState := .running }
    parts := [(0, { exist := true, queue := [⟨6, 0, 0, []⟩], ring := true, ringReg := 0x400, ringLog := 4 })]
    mbs := [(0, { owner := 0xF, st := .busy, cmd := cmd })]
    mbOrder := [0]
    regions := [(0, { gen := 1, live := true, base := 0x10000, size := 0x10000 })]
    chans := [(0, { gen := 1, live := true, st := .admitted, sqReg := 0x400, sqOfs := 0x400, sqLog := 4, sqProd := 1,
                    cqReg := 0x400, cqOfs := 0x800, cqLog := 4 })]
    jobs := [{ user := u, stages := [], err := false }] }

/-- EVENT_RING of 16 records at offset 0x1000 of region 0, while a record is on its way into the ring before. -/
def ringChanging : State :=
  accessing (store (store (store (store [] 0 2 0x11) 8 2 0x400) 12 4 0x1000) 16 1 4) (.event 0)

/-- CHANNEL_DESTROY of channel 0 with FORCE, while the firmware reads the channel's next entry. -/
def chanDestroying : State := accessing (store (store (store [] 0 2 0x52) 8 2 0x100) 10 1 1) (.entry 0 0)

/-- Accesses under way after a command. -/
def jobsAfter : Out → List Job
  | .next t => t.jobs
  | _ => []

/-- A response leaves the accesses that are under way. -/
theorem jobsAfter_okTo (m : Nat) (s : State) (r : List (Nat × Nat × Nat)) : jobsAfter (okTo m s r) = s.jobs := rfl

/-- Refutes O19: EVENT_RING drops the record on its way into the ring before, where the statement has the partition
change alone. -/
theorem not_partitionCommandsAnswer : ¬ Obligations.PartitionCommandsAnswer := by
  intro h
  obtain ⟨-, hring, -⟩ := h ringChanging 0
  have hready : cmdReady 0x11 0 ringChanging := by unfold cmdReady; decide +kernel
  have hanswer := hring hready (by decide +kernel) (by decide +kernel) (by decide +kernel) (by decide +kernel)
    (by decide +kernel) (by decide +kernel)
  have hdropped : jobsAfter (exec (.eventRing 0) ringChanging) = [] := by decide +kernel
  rw [hanswer, jobsAfter_okTo] at hdropped
  exact List.cons_ne_nil _ _ hdropped

/-- Refutes O23: CHANNEL_DESTROY drops the read of the channel's next entry, where the statement has the channel change
alone. -/
theorem not_channelCommandsAnswer : ¬ Obligations.ChannelCommandsAnswer := by
  intro h
  obtain ⟨-, -, hdestroy, -⟩ := h chanDestroying 0
  have hready : cmdReady 0x52 0 chanDestroying := by unfold cmdReady; decide +kernel
  obtain ⟨hfree, -⟩ := hdestroy hready (by decide +kernel) (by decide +kernel) (by decide +kernel)
  have hanswer := hfree (by decide +kernel) (by decide +kernel)
  have hdropped : jobsAfter (exec (.channelDestroy 0) chanDestroying) = [] := by decide +kernel
  rw [hanswer, jobsAfter_okTo] at hdropped
  exact List.cons_ne_nil _ _ hdropped

end Sys2Proof.Proofs
end

section
/-! SUPPORT and proof of O2, O8 and O53. The time base and one ACLK cycle (10 R318 to R323; 08 R281; 11 R345): the
operations that leave the time base alone, what a cycle does to each context and to the restores, and what a sample
does to TIME. -/

namespace Sys2Proof.Proofs

open Sys2Proof Sys2Proof.Machine

/-! ### Operations that leave the time base alone -/

/-- A fold whose every step leaves the time base alone does. -/
theorem foldl_tb {α : Type} {f : State → α → State} (hf : ∀ s a, (f s a).tb = s.tb) (l : List α) (s : State) :
    (l.foldl f s).tb = s.tb :=
  List.foldlRecOn (motive := fun t => t.tb = s.tb) l f rfl fun t ht a _ => (hf t a).trans ht

section

variable (s : State)

@[simp] theorem postEvent_tb (p : Nat) (code : BitVec 16) (b : List Byte) : (postEvent s p code b).tb = s.tb := by
  obtain ⟨q, hq⟩ := postEvent_eq_setPart s p code b
  rw [hq, setPart_tb]

@[simp] theorem postBlockEvent_tb (code : BitVec 16) (b : List Byte) : (postBlockEvent s code b).tb = s.tb :=
  foldl_tb (fun t p => postEvent_tb t p code b) _ s

@[simp] theorem tickCtx_tb (x : Nat) : (tickCtx s x).tb = s.tb := by
  unfold tickCtx
  split <;> rfl

@[simp] theorem slotWrite_tb (c : Nat) : (slotWrite s c).tb = s.tb := by
  have himg (t : State) (u : RowImg) (bs : Item → List Byte) (ht : t.tb = s.tb) :
      ((winItemOf s u.ctx).elim t fun i => putImg t i u (bs i)).tb = s.tb := by
    cases winItemOf s u.ctx <;> exact ht
  unfold slotWrite
  dsimp only
  split
  · exact himg _ _ _ rfl
  · exact himg _ _ _ rfl
  · rfl

@[simp] theorem portCycle_tb (q : Nat) : (portCycle s q).tb = s.tb := by
  unfold portCycle
  repeat' split
  all_goals rfl

@[simp] theorem restCycle_tb : (restCycle s).tb = s.tb := by
  refine (foldl_tb portCycle_tb _ _).trans (foldl_tb (fun t c => ?_) _ s)
  split <;> simp

end

/-! ### One cycle -/

section

variable {s : State}

/-- In power-on reset a cycle changes nothing. -/
theorem tick_of_held (hheld : s.life.phase = .held) : tick s = s := if_pos hheld

/-- Out of power-on reset the clock, the time base and the power settle, then the contexts and the restores go on. -/
theorem tick_of_live (hlive : s.life.phase ≠ .held) :
    tick s = restCycle ((List.range 64).foldl tickCtx
      { s with clk := s.clk + 5, tb := tickTime s.tb, life := settlePower s.life }) := if_neg hlive

/-- A cycle changes the time base by its own tick alone. -/
theorem tick_tb_of_live (hlive : s.life.phase ≠ .held) : (tick s).tb = tickTime s.tb := by
  rw [tick_of_live hlive, restCycle_tb, foldl_tb tickCtx_tb]

/-- An empty queue lets a cycle pass. -/
theorem step_of_empty (hempty : s.pending = []) : step s = .next (tick s) := by
  simp only [step, hempty]

variable {x : Nat}

/-- A context without an item is left alone. -/
theorem tickCtx_of_none (hnone : winItemOf s x = none) : tickCtx s x = s := by
  simp only [tickCtx, hnone]

/-- A context with an item counts the cycle under its stall code (08 R281). -/
theorem tickCtx_of_item {i : Item} (hitem : winItemOf s x = some i) : let c := getCtx s x; let n := stallCode c i
    tickCtx s x = setCtx s x { c with issued := false, stalls := tput 0 n (tget 0 n c.stalls + 1) c.stalls } := by
  simp only [tickCtx, hitem, updCtx]

/-- A Caldera without a restore under way has no row-image to write. -/
theorem slotWrite_of_idle {c : Nat} (hrest : (getCal s c).rest = []) (hbuf : (getCal s c).rbuf = []) :
    slotWrite s c = s := by
  simp [slotWrite, hrest, hbuf]

/-- A Caldera without a row-image to collect asks for no port. -/
theorem asksPort_of_idle {c : Nat} (q : Nat) (hrest : (getCal s c).rest = []) : asksPort s q c = false := by
  simp [asksPort, crossImg, hrest]

/-- A port that no Caldera asks for carries nothing. -/
theorem portCycle_of_idle (q : Nat) (hidle : ∀ c, c < 4 → (getCal s c).rest = []) : portCycle s q = s := by
  have hnone : portWinner s q = none := by
    have hfilter : (List.range 4).filter (asksPort s q) = [] := by
      simpa using fun c hc => asksPort_of_idle q (hidle c hc)
    simp [portWinner, hfilter]
  simp [portCycle, hnone]

/-- Without a restore under way a cycle of the restores changes nothing. -/
theorem restCycle_of_idle (hidle : ∀ c, c < 4 → (getCal s c).rest = [] ∧ (getCal s c).rbuf = []) :
    restCycle s = s := by
  have hwrites : (List.range 4).foldl (fun s c => if planeFree s c then slotWrite (slotWrite s c) c else s) s = s := by
    refine List.foldlRecOn (motive := (· = s)) _ _ rfl fun t ht c hc => ?_
    obtain ⟨hrest, hbuf⟩ := hidle c (List.mem_range.mp hc)
    rw [ht, slotWrite_of_idle hrest hbuf, slotWrite_of_idle hrest hbuf, ite_self]
  have hports : (List.range 4).foldl portCycle s = s :=
    List.foldl_fixed' (fun q => portCycle_of_idle q fun c hc => (hidle c hc).1) _
  simp only [restCycle, hwrites, hports]

end

/-- Settles O2: an empty queue lets one cycle pass, whose parts act as their equations say. -/
theorem emptyQueueIsOneCycle : Obligations.EmptyQueueIsOneCycle := by
  refine ⟨fun s hempty => ⟨fun hheld => ?_, fun hlive => ?_⟩,
    fun s x => ⟨tickCtx_of_none, fun i => tickCtx_of_item⟩, fun s => restCycle_of_idle⟩
  · rw [step_of_empty hempty, tick_of_held hheld]
  · rw [step_of_empty hempty, tick_of_live hlive]

/-! ### What a sample does to the time base -/

section

variable {t : TimeBase} {v : Nat}

/-- The first sample, or one not behind TIME, is TIME from now on. -/
theorem locked_of_step (hstep : t.st = .unset ∨ t.t12 / 12 ≤ v) :
    locked t v = { t with t12 := 12 * v, hold12 := 0, st := .locked, backs := 0, left12 := 0, mark12 := 12 * v } := by
  simp only [locked, if_pos hstep]

/-- Behind TIME a sample makes TIME stand still for the difference (10 R322). -/
theorem locked_of_behind (hset : t.st ≠ .unset) (hback : v < t.t12 / 12) :
    locked t v =
      { t with hold12 := 12 * (t.t12 / 12 - v), st := .locked, backs := 0, left12 := 0, mark12 := t.t12 } := by
  have hstep : ¬ (t.st = .unset ∨ t.t12 / 12 ≤ v) := by simp [hset, hback]
  simp only [locked, if_neg hstep]

/-- An accepted sample does not take a set TIME back. -/
theorem time_le_locked (hset : t.st ≠ .unset) : t.t12 / 12 ≤ (locked t v).t12 / 12 := by
  rcases Nat.lt_or_ge v (t.t12 / 12) with hback | hahead
  · rw [locked_of_behind hset hback]
  · rw [locked_of_step (.inr hahead)]
    dsimp only
    omega

/-- A tick does not take the estimate back. -/
theorem le_tickTime (t : TimeBase) : t.t12 ≤ (tickTime t).t12 := by
  unfold tickTime
  split
  · exact le_rfl
  · exact Nat.le_add_right _ _

end

section

variable {s : State} {v : Nat}

/-- An accepted sample changes the time base as `locked` says, whatever events it posts. -/
@[simp] theorem sampleLock_tb (s : State) (v : Nat) : (sampleLock s v).tb = locked s.tb v := by
  unfold sampleLock
  split <;> simp

/-- The way to FAULT leaves the estimate and what the last samples left (10 R322). -/
theorem timeFault_tb (s : State) : (timeFault s).tb =
    { s.tb with st := .fault, left12 := if s.tb.st = .locked then 0 else s.tb.left12 } := by
  by_cases hlocked : s.tb.st = .locked <;> simp [timeFault, hlocked]

/-- A backward step is counted; TIME and the holdover timer go on. -/
theorem backStep_tb (s : State) : ∃ st left, (backStep s).tb =
    { s.tb with st, left12 := left, backs := s.tb.backs + 1 } := by
  unfold backStep
  dsimp only
  split
  · exact ⟨_, _, timeFault_tb _⟩
  · exact ⟨_, _, rfl⟩

/-- A sample is accepted when it is the first one, or not behind TIME by more than the tolerance. -/
theorem checkSample_of_near (hnear : s.tb.st = .unset ∨ timeNow s - v ≤ sampleTol s.tb) :
    (checkSample s v).tb = locked s.tb v := by
  unfold checkSample
  extract_lets now
  split
  · exact sampleLock_tb s v
  · split
    · rw [sampleLock_tb]
      split <;> simp
    · rw [if_pos (hnear.resolve_left ‹_›), sampleLock_tb]

/-- Any other sample is a backward step. -/
theorem checkSample_of_far (hset : s.tb.st ≠ .unset) (hfar : sampleTol s.tb < timeNow s - v) :
    checkSample s v = backStep s := by
  have hback : ¬ timeNow s ≤ v := by omega
  simp only [checkSample, if_neg hset, if_neg hback, if_neg (Nat.not_le.mpr hfar)]

/-- No sample takes a set TIME back. -/
theorem timeNow_le_checkSample (hset : s.tb.st ≠ .unset) : timeNow s ≤ timeNow (checkSample s v) := by
  rcases Nat.lt_or_ge (sampleTol s.tb) (timeNow s - v) with hfar | hnear
  · obtain ⟨st, left, htb⟩ := backStep_tb s
    rw [checkSample_of_far hset hfar, timeNow, timeNow, htb]
  · rw [timeNow, timeNow, checkSample_of_near (.inr hnear)]
    exact time_le_locked hset

/-- While the time base takes samples, two ticks are added to one and it is checked (10 R318). -/
theorem execTimeSample_of_sampling {v : BitVec 64} {b : Bool} (hsampling : sampling s = true)
    (hstrobe : s.straps.stepEn = true → b = true) : execTimeSample v b s = .next (checkSample s (v + 2).toNat) := by
  refine if_neg ?_
  rintro (hoff | ⟨hen, hb⟩)
  · simp [hsampling] at hoff
  · simp [hstrobe hen] at hb

/-- A sample that is not taken changes nothing. -/
theorem execTimeSample_cases (s : State) (v : BitVec 64) (b : Bool) :
    execTimeSample v b s = .next s ∨ execTimeSample v b s = .next (checkSample s (v + 2).toNat) :=
  ite_eq_or_eq _ _ _

/-- The holdover timer ends LOCKED once it has expired (10 R321). -/
theorem execHoldover_of_expired (hlocked : s.tb.st = .locked) (hout : s.tb.mark12 + 1200000 ≤ s.tb.t12) :
    execHoldover s =
      .next (postBlockEvent { s with tb := { s.tb with st := .holdover, left12 := 0 } } 0x0021 (leBytes 1 1)) :=
  if_pos ⟨hlocked, decide_eq_true hout⟩

/-- Before that it runs on. -/
theorem execHoldover_of_running (hin : s.tb.t12 < s.tb.mark12 + 1200000) : execHoldover s = .next s :=
  if_neg fun h => absurd (of_decide_eq_true h.2) (Nat.not_le.mpr hin)

end

/-- Settles O8: the estimate never goes back in a tick, and a sample that is behind a set TIME leaves TIME. -/
theorem timeNeverDecreases : Obligations.TimeNeverDecreases := by
  refine ⟨fun s => ?_, fun s t v b hset hexec => ?_⟩
  · by_cases hheld : s.life.phase = .held
    · rw [tick_of_held hheld]
    · rw [timeNow, timeNow, tick_tb_of_live hheld]
      exact Nat.div_le_div_right (le_tickTime s.tb)
  · rcases execTimeSample_cases s v b with hkept | htaken
    · cases hkept.symm.trans hexec
      exact le_rfl
    · cases htaken.symm.trans hexec
      exact timeNow_le_checkSample hset

/-- Settles O53: the cases of the check of R322, and the two sides of the holdover timer. -/
theorem timeSamplesSetTime : Obligations.TimeSamplesSetTime := by
  refine ⟨?_, fun s hlocked => ⟨execHoldover_of_expired hlocked, execHoldover_of_running⟩⟩
  intro s v b hsampling hstrobe w
  have hexec : exec (.timeSample v b) s = .next (checkSample s w) := execTimeSample_of_sampling hsampling hstrobe
  refine ⟨fun hunset => ⟨_, hexec, ?first⟩, fun hset hahead => ⟨_, hexec, ?ahead⟩,
    fun hset hback htol => ⟨_, hexec, ?near⟩, fun hset hback hfar => ⟨_, hexec, ?far⟩⟩
  case first =>
    rw [timeNow, checkSample_of_near (.inl hunset), locked_of_step (.inl hunset)]
    exact ⟨Nat.mul_div_cancel_left w (by decide), rfl, rfl⟩
  case ahead =>
    have hnear : timeNow s - w ≤ sampleTol s.tb := by omega
    rw [timeNow, checkSample_of_near (.inr hnear), locked_of_step (.inr hahead)]
    exact ⟨Nat.mul_div_cancel_left w (by decide), rfl, rfl, rfl⟩
  case near =>
    rw [timeNow, checkSample_of_near (.inr htol), locked_of_behind hset hback]
    exact ⟨rfl, rfl, rfl, rfl⟩
  case far =>
    obtain ⟨st, left, htb⟩ := backStep_tb s
    rw [checkSample_of_far hset hfar, timeNow, htb]
    exact ⟨rfl, rfl, rfl⟩

end Sys2Proof.Proofs
end

section
/-! SUPPORT and proof of O34. The rows of a work item's way through the window (10 R328; 11 R340 to R342; 01 R36, R40):
what each does where it is due. -/

namespace Sys2Proof.Proofs

open Sys2Proof Sys2Proof.Machine

section

variable {s : State} {c : Fin 4} {i j : Item}

/-- An item of the queue becomes eligible once TIME has reached its window's start (10 R328). -/
theorem execEntryEligible_of_due {n : Fin 256} {q : Word} {t : Item}
    (hitem : (s.items.find? fun t => t.ch == n.val && t.seq == q && !t.eligible) = some t)
    (hdue : t.eligAt ≤ timeNow s) :
    execEntryEligible n q s = .next (setItem s { t with eligible := true }) := by
  simp only [execEntryEligible, hitem, if_pos hdue]

/-! ### DISPATCH_PLACE -/

section

variable {g : Grant} (hrun : s.life.phase = .running) (hfence : (getCal s c.val).fenced = false)
  (hheld : (getCal s c.val).held = false)
include hrun hfence hheld

/-- Nothing keeps the dispatcher of a running block from a Caldera that is neither fenced nor held. -/
theorem dispatcher_goes :
    ¬ (s.life.phase ≠ .running ∨ (getCal s c.val).fenced = true ∨ (getCal s c.val).held = true) := by
  simp [hrun, hfence, hheld]

/-- An item of the window that waits for its lists goes on with them. -/
theorem execDispatchPlace_of_loading
    (hwaits : ((windowOf s c.val).find? fun i => decide (i.loading ≠ 0) && !i.stopped) = some i) :
    execDispatchPlace c g s = .next (loadLists s i) := by
  simp only [execDispatchPlace, if_neg (dispatcher_goes hrun hfence hheld), hwaits]

section

variable (hwaits : ((windowOf s c.val).find? fun i => decide (i.loading ≠ 0) && !i.stopped) = none)
  (hroom : (windowOf s c.val).length < 2) (hawake : idling s = false) (hwin : winner s c.val = some i)
include hwaits hroom hawake hwin

/-- A winner of a damaged image completes with IMAGE_CHANGED. -/
theorem execDispatchPlace_of_damaged (hdamaged : (imgOf s (placeImg s i)).damaged = true) :
    execDispatchPlace c g s = .next (finishItem s i stImageChanged) := by
  have hstay : ¬ (2 ≤ (windowOf s c.val).length ∨ idling s = true) := by simp [hroom, hawake]
  simp only [execDispatchPlace, if_neg (dispatcher_goes hrun hfence hheld), hwaits, hwin, if_neg hstay,
    if_pos hdamaged]

/-- Any other winner is placed with a grant that fits it (02 R66, 11 R342). -/
theorem execDispatchPlace_of_winner (hwhole : (imgOf s (placeImg s i)).damaged = false)
    (hctx : (freeCtxs s c.val (getChan s i.ch).mask).contains g.ctx.val = true)
    (hgrant : grantOk (imgOf s (placeImg s i)) g (windowOf s c.val) = true) :
    execDispatchPlace c g s = .next (placeItem s c.val g i) := by
  have hstay : ¬ (2 ≤ (windowOf s c.val).length ∨ idling s = true) := by simp [hroom, hawake]
  simp only [execDispatchPlace, if_neg (dispatcher_goes hrun hfence hheld), hwaits, hwin, if_neg hstay, hwhole,
    Bool.false_eq_true, if_false, if_pos (And.intro hctx hgrant)]

end

end

/-! ### RESTORE_COMPLETE -/

/-- The restore of the executing item ends first. -/
theorem execRestoreComplete_of_own
    (hown : ((windowOf s c.val).find? fun i => i.restoring && decide (i.place = .exec)) = some j) :
    execRestoreComplete c s = .next (endRestore s j) := by
  simp only [execRestoreComplete, hown]

/-- The restore of the staged item ends unless an operation has the plane port that it still needs (11 R345). -/
theorem execRestoreComplete_of_staged
    (hown : ((windowOf s c.val).find? fun i => i.restoring && decide (i.place = .exec)) = none)
    (hany : (windowOf s c.val).find? (·.restoring) = some j) :
    execRestoreComplete c s =
      .next (if restLeft s j = true ∧ planeFree s c.val = false then s else endRestore s j) := by
  simp only [execRestoreComplete, hown, hany]
  exact (apply_ite _ _ _ _).symm

/-- With no restore outstanding a forward phase that is due ends (log entry 54). -/
theorem execRestoreComplete_of_forward (hitem : execItem s c.val = some i)
    (hany : (windowOf s c.val).find? (·.restoring) = none) (hdue : forwardDue s i = true) :
    execRestoreComplete c s = .next (saveChecked s i fun t => endForward t i) := by
  have hown : ((windowOf s c.val).find? fun i => i.restoring && decide (i.place = .exec)) = none := by
    simp only [List.find?_eq_none] at hany ⊢
    exact fun k hk h => hany k hk (Bool.and_eq_true_iff.mp h).1
  simp only [execRestoreComplete, hown, hany, hitem, if_pos hdue]

/-! ### EXECUTE_START and CHUNK_COMMIT -/

/-- The item that entered the window first starts once it is loaded and restored (11 R341). -/
theorem execExecuteStart_of_restored (hitem : execItem s c.val = some i) (hnew : i.entered = false)
    (hloaded : i.loading = 0) (hrestored : i.restoring = false) (hgoes : i.stopped = false)
    (hfence : (getCal s c.val).fenced = false) :
    execExecuteStart c s = .next (updCtx (setItem s { i with
      entered := true, imgs := if i.imgs.contains i.img then i.imgs else i.imgs ++ [i.img] }) i.ctx fun x =>
      { x with beat := timeNow s }) := by
  simp only [execExecuteStart, hitem, hnew, hloaded, hrestored, hgoes, hfence, and_self, if_true]

section

variable {bad : List (Fin 256)} (hitem : execItem s c.val = some i) (hdue : commitDue s i = true)
include hitem hdue

/-- A training item has saved its rows at the end of its forward phase, and commits. -/
theorem execChunkCommit_of_forwardDone (hdone : i.fwdDone = true) :
    execChunkCommit c bad s = .next (commitItem s i bad) := by
  simp [execChunkCommit, hitem, hdue, hdone]

/-- Any other item commits with a save that the parity check passes (02 R77). -/
theorem execChunkCommit_of_unsaved (hsave : i.fwdDone = false) :
    execChunkCommit c bad s = .next (saveChecked s i fun t => commitItem t i bad) := by
  simp [execChunkCommit, hitem, hdue, hsave]

end

end

/-- Settles O34: each row of the item's way acts where its condition holds. -/
theorem workItemsAdvance : Obligations.WorkItemsAdvance := by
  refine ⟨fun s n q t => execEntryEligible_of_due, ?place, ?window⟩
  case place =>
    intro s c g hrun hfence hheld waits
    exact ⟨fun i => execDispatchPlace_of_loading hrun hfence hheld, fun i hwaits hroom hawake hwin =>
      ⟨execDispatchPlace_of_damaged hrun hfence hheld hwaits hroom hawake hwin,
        execDispatchPlace_of_winner hrun hfence hheld hwaits hroom hawake hwin⟩⟩
  case window =>
    intro s c i hitem own any
    exact ⟨fun j => execRestoreComplete_of_own, fun j => execRestoreComplete_of_staged,
      execRestoreComplete_of_forward hitem, execExecuteStart_of_restored hitem, fun bad hdue =>
      ⟨execChunkCommit_of_forwardDone hitem hdue, execChunkCommit_of_unsaved hitem hdue⟩⟩

end Sys2Proof.Proofs
end

section
/-! SUPPORT and proof of O14. The dispatch window's arbiter (11 R342, Table 11.1): the candidates are the first of each
channel's items, and the winner is one whose key in the lexicographic order is least. -/

namespace Sys2Proof.Proofs

open Sys2Proof Sys2Proof.Machine

section

variable {l : List Item} {i j : Item}

/-! ### The first item of each channel -/

theorem ringFirst_append_singleton (l : List Item) (i : Item) : ringFirst (l ++ [i]) =
    if (ringFirst l).any (·.ch == i.ch) then ringFirst l else ringFirst l ++ [i] := by
  simp [ringFirst]

/-- Every channel that has an item has one among the candidates. -/
theorem any_ringFirst (l : List Item) (n : Nat) : (ringFirst l).any (·.ch == n) = l.any (·.ch == n) := by
  induction l using List.reverseRecOn with
  | nil => rfl
  | append_singleton l i ih =>
    rw [ringFirst_append_singleton]
    split
    case isTrue htaken =>
      by_cases hn : i.ch = n
      · simpa [← hn] using htaken
      · simpa [beq_false_of_ne hn] using ih
    case isFalse => simp only [List.any_append, ih]

/-- An item is a candidate just when no item of its channel stands before it. -/
theorem mem_ringFirst : j ∈ ringFirst l ↔ l.find? (·.ch == j.ch) = some j := by
  induction l using List.reverseRecOn with
  | nil => simp [ringFirst]
  | append_singleton l i ih =>
    rw [ringFirst_append_singleton, any_ringFirst, List.find?_append]
    by_cases hch : i.ch = j.ch
    case neg =>
      have hne : j ≠ i := fun h => hch (h ▸ rfl)
      split <;> simp [ih, beq_false_of_ne hch, hne]
    case pos =>
      cases hfirst : l.find? (·.ch == j.ch) with
      | none =>
        have hfree : l.any (·.ch == i.ch) = false := by simpa [hch] using hfirst
        rw [hfree]
        simp [ih, hfirst, hch, eq_comm (a := i)]
      | some k =>
        have htaken : l.any (·.ch == i.ch) = true :=
          List.any_eq_true.mpr ⟨k, List.mem_of_find?_eq_some hfirst, by simpa [hch] using List.find?_some hfirst⟩
        simp [htaken, ih, hfirst]

/-! ### The least key -/

/-- The key of an item as a value of the lexicographic order. -/
def lexKey (ptr : Nat) (i : Item) : ℕ ×ₗ ℕ ×ₗ ℕ :=
  let k := dispKey ptr i
  toLex (k.1, toLex k.2)

/-- The order of the keys is the lexicographic one. -/
theorem keyLt_dispKey_iff {ptr : Nat} :
    keyLt (dispKey ptr i) (dispKey ptr j) = true ↔ lexKey ptr i < lexKey ptr j := by
  simp [keyLt, lexKey, Prod.Lex.toLex_lt_toLex]

/-- The winner of the window is the first candidate with the least key. -/
theorem winner_eq_argmin (s : State) (c : Nat) :
    winner s c = (ringFirst (s.items.filter (asks s c))).argmin (lexKey (getCal s c).dispPtr) := by
  refine congrArg (List.foldl · none _) ?_
  funext best i
  cases best with
  | none => rfl
  | some b => simp only [List.argAux, keyLt_dispKey_iff]

end

/-- Settles O14: the winner is the candidate of the least key, and the candidates are the first of each channel. -/
theorem windowWinnerIsEarliest : Obligations.WindowWinnerIsEarliest := by
  intro s c i hwin l
  rw [winner_eq_argmin] at hwin
  have hfirst : l.find? (·.ch == i.ch) = some i := mem_ringFirst.mp (List.argmin_mem hwin)
  obtain ⟨hitem, hasks⟩ := List.mem_filter.mp (List.mem_of_find?_eq_some hfirst)
  refine ⟨hitem, hasks, hfirst, fun j hj => ?_⟩
  rw [Bool.eq_false_iff, ne_eq, keyLt_dispKey_iff]
  exact List.not_lt_of_mem_argmin (mem_ringFirst.mpr hj) hwin

end Sys2Proof.Proofs
end

section
/-! SUPPORT and proof of O22. The region and image commands (07 R247, R251 to R254; 09 R301, R303, R306; 12 R358,
R382): what each answers when its checks have passed. -/

namespace Sys2Proof.Proofs

open Sys2Proof Sys2Proof.Machine

/-- A command whose bytes are here is refused when what it does with them is. -/
theorem eci_of_refused_bytes {s : State} {m : Mb} {op k : Nat} {h : BitVec 16} {o z : Nat} {e : Refused} {d : Mem}
    {g : State → Nat → Nat → Except Refused Ans} {f : Mem → Except Refused Ans} (hready : cmdReady op m.val s)
    (hlisted : listedOp op = true) (hg : g s m.val (partOf s m.val) = regRead s m.val k h o z f)
    (hhere : regGot s m.val k h o z = .here d) (hrefused : f d = .error e) :
    eci op m g s = .next (respond s m.val e.1 e.2 []) :=
  eci_refused hready hlisted (hg.trans (by simp only [regRead, hhere, hrefused]))

section

variable {s : State} {m : Mb}

/-! ### Regions -/

/-- REGION_REGISTER of whole pages inside their address space: the lowest free index takes them under its next
generation (12 R358). -/
theorem execRegionRegister_of_free {k : Nat} (hready : cmdReady 0x20 m.val s)
    (hspace : par s m.val 8 1 = 2 ∨ par s m.val 8 1 = 3) (hbase : par s m.val 16 8 % 4096 = 0)
    (hpages : par s m.val 24 8 % 4096 = 0) (hsize : 0 < par s m.val 24 8)
    (hend : par s m.val 16 8 + par s m.val 24 8 ≤ spaceEnd (par s m.val 8 1 == 3))
    (hfree : freeIdx 1024 (fun j => (getRegion s j).live) = some k) :
    execRegionRegister m s = okTo m.val (setRegion s k {
      gen := nextGen 6 (getRegion s k).gen, live := true, part := partOf s m.val, host := par s m.val 8 1 == 3,
      ro := par s m.val 9 1 == 1, base := par s m.val 16 8, size := par s m.val 24 8, invalid := false })
      [(8, 2, k + 1024 * nextGen 6 (getRegion s k).gen)] := by
  refine eci_ok (a := .done _ [(8, 2, _)]) hready (by decide) ?_
  simp only [need_true, hspace, hbase, hpages, hsize, hend, hfree, and_self, bind_of_ok]
  rfl

/-- REGION_RELEASE of a region that is invalid or that nothing uses leaves its generation alone (09 R301, R303; 12
R382). -/
theorem execRegionRelease_of_unused {h : BitVec 16} (hh : h = parReg s m.val 8) (hready : cmdReady 0x21 m.val s)
    (hlive : regLive s (partOf s m.val) h = true)
    (hunused : (getRegion s (regIdx h)).invalid = true ∨ regionUsed s h = false) :
    execRegionRelease m s = okTo m.val (setRegion s (regIdx h) { gen := (getRegion s (regIdx h)).gen }) [] := by
  subst hh
  refine eci_ok (a := .done _ []) hready (by decide) ?_
  simp only [need_true, hlive, hunused, bind_of_ok]
  rfl

/-! ### Images -/

/-- An image handle is accepted when it names a live image of the partition (09 R301). -/
theorem needImage_of_live {p : Nat} {h : BitVec 16} (hlive : imgLive s h = true) (hpart : (imgOf s h).part = p) :
    needImage s p h = .ok () :=
  need_true _ _ ⟨hlive, hpart⟩

/-- The answer of IMAGE_PUBLISH after the publication (07 R247). -/
def publishAns : Except Nat (State × BitVec 16) → Except Refused Ans
  | .error st => .error (st, 0)
  | .ok q => .ok (.done q.1 [(8, 2, q.2.toNat)])

/-- IMAGE_PUBLISH reads the image, and then answers as its publication does (07 R247; 09 R298). -/
theorem execImagePublish_of_readable {h : BitVec 16} {o z : Nat} (hh : h = parReg s m.val 8)
    (ho : o = par s m.val 12 4) (hz : z = par s m.val 16 4) (halign : o % 256 = 0)
    (hregion : needRegion s (partOf s m.val) h = .ok ()) (hin : regFits s h o z = true)
    (hlink : needLink s h = .ok ()) :
    ∃ g, execImagePublish m = eci 0x40 m g ∧ g s m.val (partOf s m.val) = regRead s m.val 0 h o z fun d =>
      publishAns (publish (dropUsers s (mboxUser m.val)) (partOf s m.val) h o z d) := by
  subst hh ho hz
  refine ⟨_, rfl, ?_⟩
  simp only [need_true, halign, hregion, hin, hlink, bind_of_ok]
  rfl

/-- IMAGE_DESTROY of an image that no channel and no item names (07 R253). -/
theorem execImageDestroy_of_unused {h : BitVec 16} (hh : h = parReg s m.val 8) (hready : cmdReady 0x41 m.val s)
    (himage : needImage s (partOf s m.val) h = .ok ()) (hunused : imageUsed s h = false) :
    execImageDestroy m s = okTo m.val (dropImage s h) [] := by
  subst hh
  refine eci_ok (a := .done _ []) hready (by decide) ?_
  simp only [need_true, himage, hunused, bind_of_ok]
  rfl

/-- IMAGE_REPLACE of an image by one that agrees with it: the new one is named from now on, and the answer waits for
the contexts on the old one (07 R251, R252, R254). -/
theorem execImageReplace_of_compatible {old new : BitVec 16} (hold : old = parReg s m.val 8)
    (hnew : new = parReg s m.val 10) (hready : cmdReady 0x42 m.val s)
    (hfirst : needImage s (partOf s m.val) old = .ok ()) (hsecond : needImage s (partOf s m.val) new = .ok ())
    (hagree : compatible (imgOf s old) (imgOf s new) = true) :
    execImageReplace m s = .next (waitOn (renameImage s old new) m.val (.replace old new)) := by
  subst hold hnew
  refine eci_ok (a := .wait _ _) hready (by decide) ?_
  simp only [need_true, hfirst, hsecond, hagree, bind_of_ok]
  rfl

/-- A replacement that waits is answered with the contexts still on the old image (07 R254). -/
theorem execImageReplaceDone_of_waiting {old new : BitVec 16} (hbusy : (getMb s m.val).st = .busy)
    (hwait : (getMb s m.val).wait = .replace old new) :
    execImageReplaceDone m s = okTo m.val s [(8, 8, stillOn s old)] := by
  simp only [execImageReplaceDone, hbusy, hwait]
  rfl

end

/-- Settles O22: each region and image command answers as its own rule says. -/
theorem regionAndImageCommandsAnswer : Obligations.RegionAndImageCommandsAnswer := by
  intro s m
  refine ⟨?register, ?release, ?publish, ?destroy, ?replace, ?replaced⟩
  case register =>
    exact fun hready k hspace hbase hpages hsize hend hfree =>
      execRegionRegister_of_free hready hspace hbase hpages hsize hend hfree
  case release => exact fun hready hlive hunused => execRegionRelease_of_unused rfl hready hlive hunused
  case publish =>
    intro hready o z got halign hregion hin hlink
    obtain ⟨g, hexec, hg⟩ := execImagePublish_of_readable rfl rfl rfl halign hregion hin hlink
    obtain ⟨hwait, hhere, -⟩ := eci_of_regRead hready (by decide) hg
    have hs : exec (.imagePublish m) s = eci 0x40 m g s := congrFun hexec s
    refine ⟨fun t ht => hs.trans (hwait t ht), fun d q hd hpub => ?_, fun d st hd hpub => ?_⟩
    · exact hs.trans (hhere d (.done q.1 [(8, 2, q.2.toNat)]) hd (congrArg publishAns hpub))
    · exact hs.trans (eci_of_refused_bytes (e := (st, 0)) hready (by decide) hg hd (congrArg publishAns hpub))
  case destroy =>
    exact fun hready hlive hpart hunused =>
      execImageDestroy_of_unused rfl hready (needImage_of_live hlive hpart) hunused
  case replace =>
    exact fun hready hlive hpart hlive2 hpart2 hagree => execImageReplace_of_compatible rfl rfl hready
      (needImage_of_live hlive hpart) (needImage_of_live hlive2 hpart2) hagree
  case replaced => exact fun old new hbusy hwait => execImageReplaceDone_of_waiting hbusy hwait

end Sys2Proof.Proofs
end

section
/-! SUPPORT and proof of O56. The answers to the block's requests, the credits of the Memory Port, and the link events
of the Host Port (12 R363 to R368, R379 to R383): what each does where it is due. -/

namespace Sys2Proof.Proofs

open Sys2Proof Sys2Proof.Machine

/-! ### Memory Port -/

section

variable {s : State} {n : Fin 16} {g : Fin 256} {r : Req} (hreq : memReq s n.val g.val = some r)
include hreq

section

variable {st : Fin 4} {last : Bool} (hread : r.b.kind = .read)
include hread

/-- A beat of a READ with another status than OK ends it with a fault, unless it had ended before (12 R363). -/
theorem execMemResponse_of_fault (hbad : st ≠ 0) (hopen : r.retired = false) :
    execMemResponse n g st last s = .next (finishReq s r false last) := by
  have hfault : st.val ≠ 0 ∧ r.retired = false := ⟨Fin.val_ne_zero_iff.mpr hbad, hopen⟩
  simp only [execMemResponse, hreq, if_neg (not_not_intro hread), if_pos hfault]

/-- A beat of a READ that brings no fault ends it when it is the last one (12 R363). -/
theorem execMemResponse_of_good (hgood : st = 0 ∨ r.retired = true) :
    execMemResponse n g st last s = if last then .next (finishReq s r true true) else .next s := by
  have hfault : ¬(st.val ≠ 0 ∧ r.retired = false) := by
    rintro ⟨hbad, hopen⟩
    rcases hgood with rfl | hretired
    · exact hbad rfl
    · exact Bool.eq_false_iff.mp hopen hretired
  simp only [execMemResponse, hreq, if_neg (not_not_intro hread), if_neg hfault]

end

/-- The acknowledgment of a WRITE whose beats have all gone, or the completion of a fence, ends it (12 R365). -/
theorem execMemAck_of_sent {st : Fin 4} (hkind : r.b.kind ≠ .read) (hsent : r.wd = 0) :
    execMemAck n g st s = .next (finishReq s r (st.val == 0) true) := by
  have hdue : ¬(r.b.kind = .read ∨ 0 < r.wd) := by simp [hkind, hsent]
  simp only [execMemAck, hreq, if_neg hdue]

/-- A WRITE with beats to go is not acknowledged (12 R365). -/
theorem execMemAck_of_unsent {st : Fin 4} (hunsent : 0 < r.wd) : execMemAck n g st s = .next s := by
  simp only [execMemAck, hreq, if_pos (Or.inr hunsent)]

/-- A request without a response ends with a fault, and its tag is not free yet (12 R368). -/
theorem execMemTagTimeout_of_open (hopen : r.retired = false) :
    execMemTagTimeout n g s = .next (finishReq s r false false) := by
  simp only [execMemTagTimeout, hreq, if_neg (ne_true_of_eq_false hopen)]

end

/-- A credit of a channel counts, and lets beats and requests through, while the block is out of reset (12 R363). -/
theorem execMemCreditReturn_of_awake {s : State} {n : Fin 16} {wd : Bool} (hawake : awake s = true) :
    execMemCreditReturn n wd s = .next (goOn (sendBeats (setMemCh s n.val (if wd then
      { getMemCh s n.val with wdCrd := (getMemCh s n.val).wdCrd + 1, wdTotal := (getMemCh s n.val).wdTotal + 1 } else
      { getMemCh s n.val with
        reqCrd := (getMemCh s n.val).reqCrd + 1, reqTotal := (getMemCh s n.val).reqTotal + 1 })) n.val)) :=
  if_pos hawake

/-! ### Host Port completions -/

section

variable {s : State} {g : Fin 256} {r : Req} (hreq : hostReq s g.val = some r)
include hreq

/-- A completion ends its read or fence (12 R379). -/
theorem execHostCompletion_of_open {st : Fin 4} :
    execHostCompletion g st s = .next (finishReq s r (st.val == 0) true) := by
  simp only [execHostCompletion, hreq]

/-- A read without a completion ends with a fault, and its tag is not free yet (12 R379). -/
theorem execHostReadTimeout_of_open (hopen : r.retired = false) :
    execHostReadTimeout g s = .next (finishReq s r false false) := by
  simp only [execHostReadTimeout, hreq, if_neg (ne_true_of_eq_false hopen)]

end

/-! ### Link events -/

/-- During a retrain, inputs that stay as they are leave the block as it is. -/
theorem setLink_of_retrain {s : State} (hretrain : s.host.retrain = true) : setLink s s.host.up true = s := by
  rw [setLink, Bool.and_true, ← hretrain]

section

variable {s : State} (hawake : awake s = true)
include hawake

/-- A link event acts on the link's new inputs while the block is out of reset. -/
theorem linkEvent_of_awake (up retrain : Bool) (f : State → State) :
    linkEvent s up retrain f = .next (f (setLink s up retrain)) :=
  if_pos hawake

/-- The link goes down (12 R380). -/
theorem execLinkDown_of_up (hup : s.host.up = true) :
    execLinkDown s = .next (hostLoss (setLink s false s.host.retrain) 1) := by
  rw [execLinkDown, if_neg (ne_false_of_eq_true hup), linkEvent_of_awake hawake]

/-- The link comes up, and requests resume (12 R380). -/
theorem execLinkUp_of_down (hdown : s.host.up = false) :
    execLinkUp s = .next (goOn (postBlockEvent (setLink s true s.host.retrain) 0x0031 (leBytes 1 0))) := by
  rw [execLinkUp, if_neg (ne_true_of_eq_false hdown), linkEvent_of_awake hawake]

/-- A retrain starts (12 Table 12.6). -/
theorem execRetrainStart_of_trained (htrained : s.host.retrain = false) :
    execRetrainStart s = .next (postBlockEvent (setLink s s.host.up true) 0x0031 (leBytes 1 2)) := by
  rw [execRetrainStart, if_neg (ne_true_of_eq_false htrained), linkEvent_of_awake hawake]

section

variable (hretrain : s.host.retrain = true)
include hretrain

/-- A retrain ends in time (12 Table 12.6). -/
theorem execRetrainEnd_of_timely (htimely : s.host.expired = false) :
    execRetrainEnd s = .next (goOn (postBlockEvent (setLink s s.host.up false) 0x0031 (leBytes 1 3))) := by
  rw [execRetrainEnd, if_neg (ne_false_of_eq_true hretrain), if_neg (ne_true_of_eq_false htimely),
    linkEvent_of_awake hawake]

/-- A retrain that ends after its timeout posts nothing (log entry 119). -/
theorem execRetrainEnd_of_expired (hexpired : s.host.expired = true) :
    execRetrainEnd s = .next (goOn (setLink s s.host.up false)) := by
  rw [execRetrainEnd, if_neg (ne_false_of_eq_true hretrain), if_pos hexpired, linkEvent_of_awake hawake]

/-- A retrain that lasts too long is as a link down, until it ends (12 Table 12.6; log entry 119). -/
theorem execRetrainTimeout_of_timely (htimely : s.host.expired = false) :
    execRetrainTimeout s = .next (hostLoss { s with host := { s.host with expired := true } } 6) := by
  have hdue : ¬(s.host.retrain = false ∨ s.host.expired = true) := by simp [hretrain, htimely]
  rw [execRetrainTimeout, if_neg hdue, linkEvent_of_awake hawake, setLink_of_retrain hretrain]

end

/-- A hot reset ends a retrain and makes every space 3 region invalid (12 Table 12.6). -/
theorem execHotReset_of_awake :
    execHotReset s = .next (goOn (hostLoss (invalidateHost (setLink s s.host.up false)) 4)) :=
  linkEvent_of_awake hawake ..

/-- A function level reset makes every space 3 region invalid (12 Table 12.6). -/
theorem execFunctionLevelReset_of_awake :
    execFunctionLevelReset s = .next (goOn (hostLoss (invalidateHost (setLink s s.host.up s.host.retrain)) 5)) :=
  linkEvent_of_awake hawake ..

end

/-- Settles O56: each answer, credit and link event does, where it is due, what its rule says. -/
theorem portEventsAct : Obligations.PortEventsAct := by
  refine ⟨fun s n g r hreq => ⟨?fault, ?good, ?sent, ?unsent, ?silent⟩,
    fun s n wd => execMemCreditReturn_of_awake,
    fun s g r hreq => ⟨fun st => execHostCompletion_of_open hreq, execHostReadTimeout_of_open hreq⟩,
    fun s hawake => ⟨?down, ?up, ?start, ?timely, ?expired, ?timeout, ?hot, ?function⟩⟩
  case fault => exact fun st l hread hbad hopen => execMemResponse_of_fault hreq hread hbad hopen
  case good =>
    exact fun st hread hgood =>
      ⟨execMemResponse_of_good hreq hread hgood, execMemResponse_of_good (last := false) hreq hread hgood⟩
  case sent => exact fun st hkind hsent => execMemAck_of_sent hreq hkind hsent
  case unsent => exact fun st _ hunsent => execMemAck_of_unsent hreq hunsent
  case silent => exact execMemTagTimeout_of_open hreq
  case down => exact execLinkDown_of_up hawake
  case up => exact execLinkUp_of_down hawake
  case start => exact execRetrainStart_of_trained hawake
  case timely => exact execRetrainEnd_of_timely hawake
  case expired => exact execRetrainEnd_of_expired hawake
  case timeout => exact execRetrainTimeout_of_timely hawake
  case hot => exact execHotReset_of_awake hawake
  case function => exact execFunctionLevelReset_of_awake hawake

end Sys2Proof.Proofs
end

section
/-! SUPPORT and proof of O57 and O58. Received Plume frames (13 R392, R393): what becomes of a frame by its place in the
SEQ space of its class, and of a link-control frame. -/

namespace Sys2Proof.Proofs

open Sys2Proof Sys2Proof.Machine

/-- No SEQ comes before itself. -/
theorem before_self (a : Word) : before a a = false := by simp [before]

/-! ### Request and response frames -/

section

variable {type : BitVec 8} {rsp : Bool} {h : State → Nat → State} {p : Fin 2} {f : Frame} {s : State}

/-- A frame that does not fit its row changes nothing. -/
theorem recv_of_misfit (hmisfit : frameFits s p f type (if rsp then 1 else 0) = false) :
    recv type rsp h p f s = .next s := if_pos hmisfit

section

variable (hfits : frameFits s p f type (if rsp then 1 else 0) = true)
include hfits

/-- A frame of another session shows at most that its sender has restarted (R392, R407). -/
theorem recv_of_otherSession (hother : dsessOk (meet s f) f = false) : recv type rsp h p f s = .next (meet s f) := by
  rw [recv, if_neg (ne_false_of_eq_true hfits), if_pos hother]

variable (hdsess : dsessOk (meet s f) f = true)
include hdsess

/-- The frame expected next is accepted and acts, and LINK answers it when nothing is presented to its sender then
(R393). -/
theorem recv_of_expected (hseq : f.seq = (classOf (getPeer (meet s f) f.src.val) rsp).rx) :
    recv type rsp h p f s = .next (
      let s2 := took (meet s f) f.src.val rsp f
      let s3 := h (acked s2 f.src.val f) f.src.val
      if sentTo s3 f.src.val = sentTo s2 f.src.val then sendCtl s3 f.src.val 0xC1 else s3) := by
  rw [recv, if_neg (ne_false_of_eq_true hfits), if_neg (ne_false_of_eq_true hdsess), if_pos hseq]

/-- A frame above the expected SEQ brings a NAK at most (R392). -/
theorem recv_of_above (habove : before (classOf (getPeer (meet s f) f.src.val) rsp).rx f.seq = true) :
    recv type rsp h p f s = .next (nakOnce (meet s f) f.src.val rsp) := by
  have hseq : f.seq ≠ (classOf (getPeer (meet s f) f.src.val) rsp).rx := fun heq => by
    rw [heq, before_self] at habove
    exact Bool.false_ne_true habove
  rw [recv, if_neg (ne_false_of_eq_true hfits), if_neg (ne_false_of_eq_true hdsess), if_neg hseq, if_pos habove]

/-- A frame below the expected SEQ brings LINK (R392). -/
theorem recv_of_below (hseq : f.seq ≠ (classOf (getPeer (meet s f) f.src.val) rsp).rx)
    (hbelow : before (classOf (getPeer (meet s f) f.src.val) rsp).rx f.seq = false) :
    recv type rsp h p f s = .next (sendCtl (meet s f) f.src.val 0xC1) := by
  rw [recv, if_neg (ne_false_of_eq_true hfits), if_neg (ne_false_of_eq_true hdsess), if_neg hseq,
    if_neg (ne_true_of_eq_false hbelow)]

end

end

section

variable {s : State} {q : Nat} {rsp : Bool}

/-- After a NAK no other goes until a frame of the class is accepted (R392). -/
theorem nakOnce_of_sent (hsent : (classOf (getPeer s q) rsp).nak = true) : nakOnce s q rsp = s := if_pos hsent

/-- The first frame above the expected SEQ brings a NAK with that SEQ and the class (R392). -/
theorem nakOnce_of_unsent (hunsent : (classOf (getPeer s q) rsp).nak = false) :
    nakOnce s q rsp = ctlOver
      (setPeer s q (withClass (getPeer s q) rsp { classOf (getPeer s q) rsp with nak := true })) (portOf s q) q 0xC2
      (classOf (getPeer s q) rsp).rx (if rsp then 1 else 0) := if_neg (ne_true_of_eq_false hunsent)

end

/-- Settles O58, by the place of the frame's SEQ against the one expected. -/
theorem plumeOrderKept : Obligations.PlumeOrderKept := by
  intro type rsp h p f s
  refine ⟨recv_of_misfit, fun hfits => ⟨recv_of_otherSession hfits, ?again, ?first, recv_of_below hfits⟩⟩
  case again =>
    intro hdsess habove hsent
    rw [recv_of_above hfits hdsess habove, nakOnce_of_sent hsent]
  case first =>
    intro hdsess habove hunsent
    rw [recv_of_above hfits hdsess habove, nakOnce_of_unsent hunsent]

/-! ### Link control -/

section

variable {p : Fin 2} {f : Frame} {s : State} (hdsess : dsessOk (meet s f) f = true)
include hdsess

/-- A link-control frame of the session brings its acknowledgments and credits, and then acts (R393). -/
theorem recvCtl_of_fits {type : BitVec 8} {h : State → Nat → State} (hfits : frameFits s p f type 2 = true) :
    recvCtl type h p f s = .next (h (acked (meet s f) f.src.val f) f.src.val) := by
  rw [recvCtl, if_neg (ne_false_of_eq_true hfits), if_neg (ne_false_of_eq_true hdsess)]

/-- LINK acknowledges, and nothing else. -/
theorem execLink_of_fits (hfits : frameFits s p f 0xC1 2 = true) :
    execLink p f s = .next (acked (meet s f) f.src.val f) := by
  rw [execLink, recvCtl_of_fits hdsess hfits]

/-- NAK has the kept frames of its class sent again from its SEQ (R393). -/
theorem execNak_of_fits (hfits : frameFits s p f 0xC2 2 = true) :
    execNak p f s =
      .next (resendTo (acked (meet s f) f.src.val f) f.src.val (f.flags.getLsbD 0) f.seq) := by
  rw [execNak, recvCtl_of_fits hdsess hfits]

/-- PROBE is answered over the port that it came by, and a peer that is lost is probed too (log entries 112 and 163).
-/
theorem execProbe_of_fits (hfits : frameFits s p f 0xC3 2 = true) :
    execProbe p f s = .next (
      let s1 := ctlOver (acked (meet s f) f.src.val f) p.val f.src.val 0xC4 0 0
      if (getPeer (acked (meet s f) f.src.val f) f.src.val).lost then sendCtl s1 f.src.val 0xC3 else s1) := by
  rw [execProbe, recvCtl_of_fits hdsess hfits]

end

/-- Settles O57: each request and response row is by its definition a frame of its type, class and action, which is the
one expected next. -/
theorem plumeFramesAct : Obligations.PlumeFramesAct := by
  intro s p f q u hdsess acts
  refine ⟨fun hseq => ?request, fun hseq => ?response, execLink_of_fits hdsess, execNak_of_fits hdsess,
    execProbe_of_fits hdsess, recvCtl_of_fits hdsess⟩
  case request =>
    have act {type : BitVec 8} {h : State → Nat → State} (hfits : frameFits s p f type 0 = true) :
        recv type false h p f s = acts false h := recv_of_expected hfits hdsess hseq
    exact ⟨act, act, act, act, act, act⟩
  case response =>
    have act {type : BitVec 8} {h : State → Nat → State} (hfits : frameFits s p f type 1 = true) :
        recv type true h p f s = acts true h := recv_of_expected hfits hdsess hseq
    exact ⟨act, act, act, act, act⟩

end Sys2Proof.Proofs
end

section
/-! SUPPORT and proof of O59. Retry timeouts, the loss of a peer, and ports that go DOWN or come UP (13 R389, R393, R404
to R406). -/

namespace Sys2Proof.Proofs

open Sys2Proof Sys2Proof.Machine

/-! ### Retry timeouts counted -/

/-- A timeout that hits an unacknowledged frame after three others is the fourth. -/
theorem four_le_countTimeout {c : PClass} : 4 ≤ countTimeout c ↔ unacked c = true ∧ 3 ≤ c.timeouts := by
  by_cases hunacked : unacked c = true <;> simp [countTimeout, hunacked]

/-- A timeout counts for a class with an unacknowledged frame. -/
theorem countTimeout_ne_zero {c : PClass} (hunacked : unacked c = true) : countTimeout c ≠ 0 := by
  rw [countTimeout, if_pos hunacked]
  exact Nat.succ_ne_zero _

/-- A peer that is not as at reset reads as it was put there. -/
theorem getPeer_setPeer_of_ne {s : State} {q : Nat} {v : Peer} (hv : v ≠ {}) : getPeer (setPeer s q v) q = v :=
  tget_tput_of_ne q s.light.peers hv

section

variable {s : State} {q : Nat}

/-- While the port that serves a peer is DOWN its frames stay queued (R405). -/
theorem resendPeer_of_down {count : PClass → Nat} (hdown : portIsUp s (portOf s q) = false) :
    resendPeer s q count = s := if_pos hdown

/-- A class whose kept frames are sent again, with the retry timeout counted. -/
def retried (s : State) (q : Nat) (c : PClass) : PClass :=
  { resendAll (stamped s q (portOf s q)) c with timeouts := countTimeout c }

/-- A retry timeout sends the kept frames of both classes again, and counts (R393). -/
theorem resendPeer_of_up (hup : portIsUp s (portOf s q) = true) :
    resendPeer s q countTimeout = setPeer s q
      { getPeer s q with req := retried s q (getPeer s q).req, rsp := retried s q (getPeer s q).rsp } :=
  if_neg (ne_false_of_eq_true hup)

section

variable (hwaits : frameWaits s q = true)
include hwaits

/-- A peer whose frames have met a retry timeout is not as at reset. -/
theorem retried_ne_reset :
    { getPeer s q with req := retried s q (getPeer s q).req, rsp := retried s q (getPeer s q).rsp } ≠ ({} : Peer) := by
  intro heq
  have hreq : countTimeout (getPeer s q).req = 0 := congrArg (fun r : Peer => r.req.timeouts) heq
  have hrsp : countTimeout (getPeer s q).rsp = 0 := congrArg (fun r : Peer => r.rsp.timeouts) heq
  rcases (Bool.or_eq_true _ _).mp hwaits with hunacked | hunacked
  · exact countTimeout_ne_zero hunacked hreq
  · exact countTimeout_ne_zero hunacked hrsp

/-- Four timeouts in a row have hit a frame when three had hit one that waits still: only then, from the primary port
and with the other port UP, the pair is to move (R389). -/
theorem hitFour_resendPeer (hup : portIsUp s (portOf s q) = true) :
    hitFour (resendPeer s q countTimeout) q = true ↔
      ((unacked (getPeer s q).req = true ∧ 3 ≤ (getPeer s q).req.timeouts) ∨
        (unacked (getPeer s q).rsp = true ∧ 3 ≤ (getPeer s q).rsp.timeouts)) ∧
      (getPeer s q).alt = false ∧ portIsUp s (1 - primaryPort s q) = true := by
  have hother (v : Peer) : portIsUp (setPeer s q v) (1 - primaryPort (setPeer s q v) q) =
      portIsUp s (1 - primaryPort s q) := rfl
  rw [resendPeer_of_up hup, hitFour, getPeer_setPeer_of_ne (retried_ne_reset hwaits), hother]
  simp [retried, four_le_countTimeout, and_assoc]

end

end

/-! ### The rows -/

section

variable {s : State} {q : Fin 64} (hwaits : frameWaits s q.val = true)
include hwaits

/-- A retry timeout of a peer with an unacknowledged frame. -/
theorem execRetryTimeout_of_waits : execRetryTimeout q s = .next (
    if hitFour (resendPeer s q.val countTimeout) q.val then switchPort (resendPeer s q.val countTimeout) q.val
    else resendPeer s q.val countTimeout) :=
  if_neg (ne_false_of_eq_true hwaits)

/-- The fourth retry timeout in a row on one frame moves the pair from its primary port (R389). -/
theorem execRetryTimeout_of_fourth (hfour : hitFour (resendPeer s q.val countTimeout) q.val = true) :
    execRetryTimeout q s = .next (switchPort (resendPeer s q.val countTimeout) q.val) := by
  rw [execRetryTimeout_of_waits hwaits, if_pos hfour]

/-- Any other retry timeout sends the kept frames again (R393). -/
theorem execRetryTimeout_of_fewer (hfewer : ¬hitFour (resendPeer s q.val countTimeout) q.val = true) :
    execRetryTimeout q s = .next (resendPeer s q.val countTimeout) := by
  rw [execRetryTimeout_of_waits hwaits, if_neg hfewer]

/-- With the port that serves the pair DOWN, and no other to move to, a retry timeout changes nothing (R405). -/
theorem execRetryTimeout_of_down (hdown : portIsUp s (portOf s q.val) = false)
    (hstays : (getPeer s q.val).alt = true ∨ portIsUp s (1 - primaryPort s q.val) = false) :
    execRetryTimeout q s = .next s := by
  have hfewer : ¬hitFour s q.val = true := by
    rcases hstays with halt | hother
    · simp [hitFour, halt]
    · simp [hitFour, hother]
  have hkept : resendPeer s q.val countTimeout = s := resendPeer_of_down hdown
  rw [execRetryTimeout_of_fewer hwaits (hkept.symm ▸ hfewer), hkept]

/-- A peer that leaves a frame unacknowledged is lost (R406). -/
theorem execPeerLost_of_present (hpresent : (getPeer s q.val).lost = false) :
    execPeerLost q s = .next (losePeer s q.val) := by
  rw [execPeerLost, if_neg (ne_false_of_eq_true hwaits), if_neg (ne_true_of_eq_false hpresent)]

/-- A peer that is lost already loses the exports to it and the imports from it (R404; log entry 116). -/
theorem execPeerLost_of_lost (hlost : (getPeer s q.val).lost = true) :
    execPeerLost q s = .next (failExports (failImports s q.val) q.val) := by
  rw [execPeerLost, if_neg (ne_false_of_eq_true hwaits), if_pos hlost]

end

section

variable {s : State} {p : Fin 2}

/-- A port that goes DOWN is reported, and the pairs it served move to the other port (R387, R405). -/
theorem execPortDown_of_up (hup : portIsUp s p.val = true) :
    execPortDown p s = .next (presentPort
      ((List.range 64).foldl (fun s q => if portOf s q = p.val then movePair s q else s)
        (report (setPort s p.val false) none 0x22 0 none none (BitVec.ofNat 32 p.val))) (1 - p.val)) :=
  if_neg (ne_false_of_eq_true hup)

/-- A port that comes UP in a block out of reset takes the pairs that no port serves (R389, R405). -/
theorem execPortUp_of_down (hawake : awake s = true) (hdown : portIsUp s p.val = false) :
    execPortUp p s = .next (presentPort
      ((List.range 64).foldl (fun s q => portRisen p.val s q) (setPort s p.val true)) p.val) :=
  if_neg (by simp [hawake, hdown])

end

/-- Settles O59: the fourth timeout in a row is told from the others by the counts of both classes; every other row
acts on one condition. -/
theorem lightTimersAct : Obligations.LightTimersAct := by
  refine fun s => ⟨fun q hwaits => ⟨fun hup => ⟨?fourth, ?fewer⟩, ?down, ?lost, ?again⟩,
    fun p => ⟨execPortDown_of_up, execPortUp_of_down⟩⟩
  case fourth =>
    exact fun hfour halt hother =>
      execRetryTimeout_of_fourth hwaits ((hitFour_resendPeer hwaits hup).mpr ⟨hfour, halt, hother⟩)
  case fewer =>
    intro hfewer
    refine execRetryTimeout_of_fewer hwaits fun hhit => ?_
    obtain ⟨hfour, halt, hother⟩ := (hitFour_resendPeer hwaits hup).mp hhit
    rcases hfewer with ⟨hreq, hrsp⟩ | hmoved | hclosed
    · exact hfour.elim hreq hrsp
    · exact Bool.false_ne_true (halt.symm.trans hmoved)
    · exact Bool.false_ne_true (hclosed.symm.trans hother)
  case down => exact execRetryTimeout_of_down hwaits
  case lost => exact execPeerLost_of_present hwaits
  case again => exact execPeerLost_of_lost hwaits

end Sys2Proof.Proofs
end

section
/-! SUPPORT and proof of O12 and O51. The steps of the escalation ladder (14 R432 to R437, Table 14.6): what a step that
starts writes to FATAL_STATUS and drives, what ends a running step, and the copy of the dump. -/

namespace Sys2Proof.Proofs

open Sys2Proof Sys2Proof.Machine

/-! ### Fields of a register -/

/-- A field of the union of two words is the union of their fields. -/
theorem bits_or (a b : Word) (hi lo : Nat) :
    bits (a ||| b).toNat hi lo = bits a.toNat hi lo ||| bits b.toNat hi lo := by
  simp only [bits, BitVec.toNat_or, ← Nat.shiftRight_eq_div_pow, Nat.shiftRight_or_distrib, Nat.or_mod_two_pow]

/-- A field of a masked word is the masked field. -/
theorem bits_and (a b : Word) (hi lo : Nat) :
    bits (a &&& b).toNat hi lo = bits a.toNat hi lo &&& bits b.toNat hi lo := by
  simp only [bits, BitVec.toNat_and, ← Nat.shiftRight_eq_div_pow, Nat.shiftRight_and_distrib, Nat.and_mod_two_pow]

/-! ### FATAL_STATUS (09 Table 09.5) -/

/-- Raised bits join those of FATAL_STATUS. -/
theorem bits_raiseFatal (s : State) (w : Word) (hi lo : Nat) :
    bits (raiseFatal s w).cp.fatal.toNat hi lo = bits s.cp.fatal.toNat hi lo ||| bits w.toNat hi lo :=
  bits_or _ _ hi lo

/-- LAST_STEP reads as it was set: the mask clears the field, and the level fits it. -/
theorem lastStep_setLastStep (s : State) {level : Nat} (hlevel : level < 8) :
    bits (setLastStep s level).cp.fatal.toNat 10 8 = level := by
  have hmask : bits (0xFFFFF8FF : Word).toNat 10 8 = 0 := by decide
  have hfield : bits (BitVec.ofNat 32 (level * 256)).toNat 10 8 = level := by
    simp only [bits, BitVec.toNat_ofNat]
    omega
  rw [setLastStep, bits_or, bits_and, hmask, hfield, Nat.and_zero, Nat.zero_or]

/-- Bit 4, which a power cycle raises, lies outside LAST_STEP. -/
theorem lastStep_raiseFatal (s : State) :
    bits (raiseFatal s 0x10).cp.fatal.toNat 10 8 = bits s.cp.fatal.toNat 10 8 := by
  have houtside : bits (0x10 : Word).toNat 10 8 = 0 := by decide
  rw [bits_raiseFatal, houtside, Nat.or_zero]

/-- ESC_LATE is set once bit 3 has been raised. -/
theorem escLate_raiseFatal (s : State) : bits (raiseFatal s 8).cp.fatal.toNat 3 3 = 1 := by
  have hbit : bits (8 : Word).toNat 3 3 = 1 := by decide
  have hfield : bits s.cp.fatal.toNat 3 3 = 0 ∨ bits s.cp.fatal.toNat 3 3 = 1 := Nat.mod_two_eq_zero_or_one _
  rw [bits_raiseFatal, hbit]
  rcases hfield with hclear | hset
  · rw [hclear, Nat.zero_or]
  · rw [hset, Nat.or_self]

/-! ### A step that starts -/

/-- A capture leaves the command processor's registers as they are. -/
@[simp] theorem capture_cp (s : State) (level target trigger : Nat) (ctx : Option Nat) :
    (capture s level target trigger ctx).cp = s.cp := by
  unfold capture
  split <;> rfl

/-- A capture leaves CRP_PWRCYC_REQ_N as it is. -/
@[simp] theorem capture_pwrcyc (s : State) (level target trigger : Nat) (ctx : Option Nat) :
    (capture s level target trigger ctx).pwrcyc = s.pwrcyc := by
  unfold capture
  split <;> rfl

section

variable {s : State} {level target : Nat} (trigger : Nat) (ctx : Option Nat) (mbs : List Nat)
  (hnew : (s.ladder.any fun q => covers s q.level q.target level target && !spent s q) = false)
include hnew

/-- A step that no running one absorbs sets LAST_STEP, and a power cycle raises bit 4 beside it. -/
theorem startStep_cp_of_new : (startStep s level target trigger ctx mbs).cp =
    if level = 5 then (raiseFatal (setLastStep s level) 0x10).cp else (setLastStep s level).cp := by
  rw [startStep, if_neg (ne_true_of_eq_false hnew)]
  simp only [apply_ite State.cp, capture_cp, ite_self]
  rfl

/-- A step that no running one absorbs asserts CRP_PWRCYC_REQ_N if it is a power cycle, and no other does. -/
theorem startStep_pwrcyc_of_new :
    (startStep s level target trigger ctx mbs).pwrcyc = if level = 5 then true else s.pwrcyc := by
  rw [startStep, if_neg (ne_true_of_eq_false hnew)]
  simp only [apply_ite State.pwrcyc, capture_pwrcyc, ite_self, setLastStep_pwrcyc, raiseFatal_pwrcyc]

/-- LAST_STEP names the level of the step that started last (R433). -/
theorem lastStep_startStep (hlevel : level < 8) :
    bits (startStep s level target trigger ctx mbs).cp.fatal.toNat 10 8 = level := by
  rw [startStep_cp_of_new trigger ctx mbs hnew]
  split
  · exact (lastStep_raiseFatal _).trans (lastStep_setLastStep s hlevel)
  · exact lastStep_setLastStep s hlevel

end

/-- A late step sets ESC_LATE and starts the next one (R433). -/
theorem execEscLate_of_next {s : State} {n : Nat} {q : LStep} {l : Nat × Nat} (hstep : s.ladder[n]? = some q)
    (hnext : nextStep s q = some l) :
    execEscLate n s = .next (startStep (raiseFatal s 8) l.1 l.2 3 none []) := by
  simp only [execEscLate, hstep, hnext]

/-- Settles O12: nothing that a step does after it has set LAST_STEP reaches that field, and CRP_PWRCYC_REQ_N belongs to
the power cycle alone. -/
theorem ladderStepsSetLastStep : Obligations.LadderStepsSetLastStep := by
  refine ⟨fun s level target trigger ctx mbs _ hmax hnew => ⟨?last, ?cycle, ?others⟩,
    fun s n q l hstep hnext => ⟨execEscLate_of_next hstep hnext, escLate_raiseFatal s⟩⟩
  case last => exact lastStep_startStep trigger ctx mbs hnew (Nat.lt_of_le_of_lt hmax (by decide))
  case cycle => exact fun hfive => (startStep_pwrcyc_of_new trigger ctx mbs hnew).trans (if_pos hfive)
  case others => exact fun hother => (startStep_pwrcyc_of_new trigger ctx mbs hnew).trans (if_neg hother)

/-! ### Running steps end (Table 14.6) -/

section

variable {s : State} {q : LStep}

/-- The running reset of a context resets it and ends. -/
theorem execContextReset_of_running {x : Fin 64} (hq : running s 1 x.val = some q) :
    execContextReset x s = .next (endStep (ctxReset s x.val) q) := by
  simp only [execContextReset, hq]

/-- The running reset of an engine resets its Caldera and ends. -/
theorem execEngineReset_of_running {c : Fin 4} (hq : running s 2 c.val = some q) :
    execEngineReset c s = .next (endStep (engReset s c.val) q) := by
  simp only [execEngineReset, hq]

/-- The running reset of a partition resets it and ends. -/
theorem execPartitionReset_of_running {p : Fin 4} (hq : running s 3 p.val = some q) :
    execPartitionReset p s = .next (endStep (partReset s p.val q.mbs) q) := by
  simp only [execPartitionReset, hq]

/-- A running block reset that has not wiped the block yet does so. -/
theorem execBlockReset_of_unwiped (hq : running s 4 0 = some q) (hfirst : q.wiped = false) :
    execBlockReset s = .next (blockStep s) := by
  simp only [execBlockReset, hq, if_neg (ne_true_of_eq_false hfirst)]

/-- A running power cycle holds every Caldera. -/
theorem execPowerCycle_of_running (hq : running s 5 0 = some q) :
    execPowerCycle s = .next (if (List.range 4).all fun c => (getCal s c).held then s else holdAll s) := by
  simp only [execPowerCycle, hq]
  exact (apply_ite _ _ _ _).symm

end

/-! ### The copy of the dump (R436) -/

section

variable {s : State} (hrun : s.life.phase = .running) (hheld : s.dump.held = true)
include hrun hheld

/-- Nothing keeps a running block from the copy of a dump that it holds. -/
theorem dumpCopy_goes : ¬(s.life.phase ≠ .running ∨ s.dump.held = false) := by
  simp [hrun, hheld]

/-- A dump that is not on its way goes out, where it has a place, in its WRITEs and the fence behind them. -/
theorem execDumpCopy_of_idle (hidle : jobOf s .dump = none) : execDumpCopy s = if dumpPlace s then .next (addJob s .dump
    [regWrites s s.dump.reg s.dump.ofs (loadBytes s.dump.mem 0 0x60000),
      fenceBursts (getRegion s (regIdx s.dump.reg)).host
        (regWrites s s.dump.reg s.dump.ofs (loadBytes s.dump.mem 0 0x60000))]) else .next s := by
  have hnone : ¬(jobOf s .dump).isSome = true := by simp [hidle]
  rw [execDumpCopy, if_neg (dumpCopy_goes hrun hheld), if_neg hnone]

section

variable (hcopy : (jobOf s .dump).isSome = true)
include hcopy

/-- A copy whose fence has not ended is waited for. -/
theorem execDumpCopy_of_waiting (hwait : jobDone s .dump = false) : execDumpCopy s = .next s := by
  rw [execDumpCopy, if_neg (dumpCopy_goes hrun hheld), if_pos hcopy, if_pos hwait]

/-- A copy that has ended frees the dump area, unless it met a port fault. -/
theorem execDumpCopy_of_done (hdone : jobDone s .dump = true) :
    execDumpCopy s = if jobErr s .dump then .next (dropJob s .dump)
      else .next { dropJob s .dump with dump := { s.dump with held := false, mem := [] } } := by
  rw [execDumpCopy, if_neg (dumpCopy_goes hrun hheld), if_pos hcopy, if_neg (ne_false_of_eq_true hdone)]

end

end

/-- Settles O51: each running step ends as its row of Table 14.6 says, and the copy of the dump starts, waits and ends. -/
theorem ladderStepsReset : Obligations.LadderStepsReset := by
  refine ⟨fun s x q => execContextReset_of_running, fun s c q => execEngineReset_of_running,
    fun s p q => execPartitionReset_of_running, fun s q => execBlockReset_of_unwiped,
    fun s q => execPowerCycle_of_running, fun s hrun hheld => ⟨?placed, ?lost, ?waits, ?ends⟩⟩
  case placed => exact fun hidle hplace => (execDumpCopy_of_idle hrun hheld hidle).trans (if_pos hplace)
  case lost =>
    exact fun hidle hplace => (execDumpCopy_of_idle hrun hheld hidle).trans (if_neg (ne_true_of_eq_false hplace))
  case waits => exact execDumpCopy_of_waiting hrun hheld
  case ends =>
    exact fun hcopy hdone => ⟨fun hfault => (execDumpCopy_of_done hrun hheld hcopy hdone).trans (if_pos hfault),
      fun hgood => (execDumpCopy_of_done hrun hheld hcopy hdone).trans (if_neg (ne_true_of_eq_false hgood))⟩

end Sys2Proof.Proofs
end

section
/-! SUPPORT and proof of O50. Fault timers and checks (14 R412 to R430): what each does where it is due. -/

namespace Sys2Proof.Proofs

open Sys2Proof Sys2Proof.Machine

/-! ### Watchdogs of a context -/

section

variable {s : State} {x : Fin 64}

/-- A context that has issued no bundle within its limit is reported and halts (R427). -/
theorem execWatchdog_of_late {i : Item} (hitem : itemOf s x.val = some i) (hissue : mayIssue s x.val i = true)
    (hlate : (getCtx s x.val).beat + wdogLimit s i ≤ timeNow s) :
    execWatchdog x s = .next (haltIssue (report s (some i) 0x30 2 (some i.cal) (some x.val) (BitVec.ofNat 32 x.val))
      x.val (((getCtx s x.val).bun.map (·.ofs)).getD (getCtx s x.val).pc) 7 hWatchdog 0) := by
  simp only [execWatchdog, hitem]
  exact if_pos ⟨hissue, hlate⟩

/-- A halted context that is not quiescent gets a context reset (R428). -/
theorem execHungContext_of_hung (hhalted : (getCtx s x.val).halted = true) (hbusy : quiescent s x.val = false) :
    execHungContext x s = .next (startStep s 1 x.val 4 (some x.val) []) :=
  if_pos ⟨hhalted, hbusy⟩

end

/-! ### Checks of a block out of reset -/

section

variable {s : State} {f : FaultRep} (hawake : awake s = true)
include hawake

/-- A fault is no longer among the findings to report, and is dealt with (R412). -/
theorem execFaultDetected_of_awake : execFaultDetected f s = .next (detected (dropFound s f) f) := if_pos hawake

/-- The scrub repairs or reports what it finds (R413). -/
theorem execScrub_of_awake : execScrub f s = .next (scrubbed s f) := if_pos hawake

end

/-! ### Replays and fences -/

section

variable {s : State} {c : Fin 4}

/-- The stopped attempt of a Caldera without a fence is replayed once its context is quiescent (R419). -/
theorem execReplayStart_of_quiescent {i : Item}
    (hstopped : ((windowOf s c.val).find? fun i => i.stopped && !i.fail) = some i)
    (hquiet : quiescent s i.ctx = true) (hopen : (getCal s c.val).fenced = false) :
    execReplayStart c s = .next (startReplay s i) := by
  simp only [execReplayStart, hstopped]
  exact if_pos ⟨hquiet, hopen⟩

/-- A fence that is due is finished when the executing item, if there is one, has not entered or has come to rest
(R424). -/
theorem execFenceCaldera_of_still (hdue : (getCal s c.val).fenceDue = true)
    (hstill : ∀ i, execItem s c.val = some i → i.entered = false ∨ (i.stopped = true ∧ quiescent s i.ctx = true)) :
    execFenceCaldera c s = .next (finishFence s c.val) := by
  unfold execFenceCaldera
  cases hitem : execItem s c.val with
  | none => simp [hdue]
  | some i =>
    rcases hstill i hitem with hnew | ⟨hstopped, hquiet⟩
    · simp [hdue, hnew]
    · simp [hdue, hstopped, hquiet]

end

/-! ### The CP watchdog -/

/-- The block once the CP watchdog has reported the firmware, which is FAILED. -/
def firmwareFailed (s : State) : State :=
  let t := report s none 0x31 2 none none 0
  raiseFatal { t with cp := { t.cp with fwState := .failed } } 1

section

variable {s : State} (hrun : s.cp.fwState = .running)
include hrun

/-- After a block reset that ended less than a second ago the CP watchdog cycles the power (R429). -/
theorem execCpWdog_of_recent {t : Nat} (hend : s.flt.blockEnd = some t) (hrecent : s.clk < t + 1000 * msClk) :
    execCpWdog s = .next (startStep (firmwareFailed s) 5 0 11 none []) := by
  have hagain : s.flt.blockEnd.any (fun t => decide (s.clk < t + 1000 * msClk)) = true := by
    rw [hend, Option.any_some, decide_eq_true hrecent]
  simp only [execCpWdog, if_neg (not_not_intro hrun), if_pos hagain]
  rfl

/-- Without such a reset it resets the block (R429). -/
theorem execCpWdog_of_first (hpast : ∀ t, s.flt.blockEnd = some t → t + 1000 * msClk ≤ s.clk) :
    execCpWdog s = .next (startStep (firmwareFailed s) 4 0 7 none []) := by
  have hfirst : s.flt.blockEnd.any (fun t => decide (s.clk < t + 1000 * msClk)) = false := by
    cases hend : s.flt.blockEnd with
    | none => rfl
    | some t => rw [Option.any_some, decide_eq_false (Nat.not_lt.mpr (hpast t hend))]
  simp only [execCpWdog, if_neg (not_not_intro hrun), if_neg (ne_true_of_eq_false hfirst)]
  rfl

end

/-- Settles O50: each timer and check does, where it is due, what its rule says. -/
theorem faultEventsAct : Obligations.FaultEventsAct := by
  refine ⟨fun s x i => execWatchdog_of_late, fun s x => execHungContext_of_hung, ?checks,
    fun s c i => execReplayStart_of_quiescent, fun s c => execFenceCaldera_of_still, fun s => rfl, ?firmware⟩
  case checks => exact fun s f hawake => ⟨execFaultDetected_of_awake hawake, execScrub_of_awake hawake⟩
  case firmware =>
    exact fun s hrun => ⟨fun ⟨t, hend, hrecent⟩ => execCpWdog_of_recent hrun hend hrecent, execCpWdog_of_first hrun⟩

end Sys2Proof.Proofs
end

section
/-! SUPPORT for O3, O4 and O6. Outcomes that go on: a next state, with the queue as it was and the canonical form kept.
What every way of taking a command passes on to its outcome. -/

namespace Sys2Proof.Proofs

open Sys2Proof Sys2Proof.Machine

/-- The outcome of a command on s is a next state, which keeps the queue and the canonical form. -/
def Goes (s : State) (o : Out) : Prop := ∃ t, o = .next t ∧ Keeps s t

section

variable {s t : State} {o : Out}

theorem Goes.completes (h : Goes s o) : Completes o := h.imp fun _ ht => ht.1

theorem Goes.keeps (h : Goes s o) (ht : o = .next t) : Keeps s t := by
  obtain ⟨u, hu, hk⟩ := h
  cases hu.symm.trans ht
  exact hk

theorem goes_next (h : Keeps s t) : Goes s (.next t) := ⟨t, rfl, h⟩

/-- A command that changes nothing goes on. -/
theorem goes_same : Goes s (.next s) := goes_next (.refl s)

theorem goes_ite {c : Prop} [Decidable c] {a b : Out} (ha : Goes s a) (hb : Goes s b) :
    Goes s (if c then a else b) := by
  split
  · exact ha
  · exact hb

/-- A command that acts only where a condition holds. -/
theorem goes_if {c : Prop} [Decidable c] (h : Keeps s t) : Goes s (if c then .next t else .next s) :=
  goes_ite (goes_next h) goes_same

/-- A command that acts only where a condition does not hold. -/
theorem goes_unless {c : Prop} [Decidable c] (h : Keeps s t) : Goes s (if c then .next s else .next t) :=
  goes_ite goes_same (goes_next h)

theorem goes_of_completes (hc : Completes o) (hk : ∀ t, o = .next t → Keeps s t) : Goes s o := by
  obtain ⟨t, rfl⟩ := hc
  exact goes_next (hk t rfl)

end

/-! ### Updates of the fields that no canonical form is asked of -/

section

variable {s0 s : State} (h : Keeps s0 s)
include h

theorem keeps_life (v : Life) : Keeps s0 { s with life := v } := h

theorem keeps_cp (v : Cp) : Keeps s0 { s with cp := v } := h

theorem keeps_tb (v : TimeBase) : Keeps s0 { s with tb := v } := h

theorem keeps_flt (v : Flt) : Keeps s0 { s with flt := v } := h

theorem keeps_host (v : HostPort) : Keeps s0 { s with host := v } := h

theorem keeps_dump (v : Dump) : Keeps s0 { s with dump := v } := h

theorem keeps_exports (v : List Export) : Keeps s0 { s with exports := v } := h

theorem keeps_tephraPtr (n : Nat) : Keeps s0 { s with tephraPtr := n } := h

/-- Another entry for an operation in flight leaves the lanes. -/
theorem keeps_replaceOp (c : Nat) (o : Op) (o' : Option Op) : Keeps s0 (setCal s c (replaceOp (getCal s c) o o')) :=
  keeps_setCal h _ _ (lanesOk_getCal h c)

end

/-! ### Mailbox commands -/

/-- The answer of a handler that accepts keeps what s has. -/
def Handles (s : State) (e : Except Refused Ans) : Prop := ∀ a, e = .ok a → AnsKeeps s a

section

variable {s t : State}

theorem handles_error (r : Refused) : Handles s (.error r) := fun _ h => nomatch h

theorem handles_ok {a : Ans} (h : AnsKeeps s a) : Handles s (.ok a) := fun _ ha => Except.ok.inj ha ▸ h

theorem handles_done (h : Keeps s t) (r : List (Nat × Nat × Nat)) : Handles s (.ok (.done t r)) := handles_ok h

theorem handles_status (h : Keeps s t) (st : Nat) (r : List (Nat × Nat × Nat)) : Handles s (.ok (.status t st r)) :=
  handles_ok h

theorem handles_wait (h : Keeps s t) (w : Wait) : Handles s (.ok (.wait t w)) := handles_ok h

theorem handles_silent (h : Keeps s t) : Handles s (.ok (.silent t)) := handles_ok h

/-- A check that refuses leaves no answer, and one that passes leaves those that follow. -/
theorem handles_bind {α : Type} {c : Except Refused α} {f : α → Except Refused Ans} (h : ∀ a, Handles s (f a)) :
    Handles s (c >>= f) := fun b hb => by
  obtain ⟨a, -, ha⟩ := Except.bind_ok hb
  exact h a b ha

theorem handles_ite {c : Prop} [Decidable c] {a b : Except Refused Ans} (ha : Handles s a) (hb : Handles s b) :
    Handles s (if c then a else b) := by
  split
  · exact ha
  · exact hb

/-- A read of a region that is not here yet waits, and the bytes that are here go to the rest of the handler. -/
theorem handles_regRead {m k : Nat} {h : BitVec 16} {o n : Nat} {f : Mem → Except Refused Ans}
    (hf : ∀ d, Handles s (f d)) : Handles s (regRead s m k h o n f) := by
  unfold regRead regGot
  split
  · next t hgot =>
    refine handles_silent (keeps_fwRead ?_ (congrArg gotState hgot))
    split
    · exact .refl s
    · exact keeps_setMb (keeps_dropUsers (.refl s) _) _ _
  · exact handles_error _
  · exact hf _

theorem goes_eci {op : Nat} {m : Fin 16} {g : State → Nat → Nat → Except Refused Ans}
    (hg : Handles s (g s m.val (partOf s m.val))) : Goes s (eci op m g s) :=
  goes_of_completes (eci_completes op m g s) fun _ ht => keeps_eci (.refl s) hg ht

end

/-! ### Slots -/

/-- The state that the effect of a slot leaves keeps what s0 has. -/
def ResKeeps (s0 : State) (r : Res) : Prop := ∀ t, resState r = some t → Keeps s0 t

section

variable {s0 s : State}

theorem resKeeps_done (h : Keeps s0 s) : ResKeeps s0 (.done s) := fun _ ht => Option.some.inj ht ▸ h

theorem resKeeps_reached (h : Keeps s0 s) : ResKeeps s0 (.reached s) := fun _ ht => Option.some.inj ht ▸ h

theorem resKeeps_halt (r : Nat) (d : Word) : ResKeeps s0 (.halt r d) := fun _ ht => nomatch ht

theorem resKeeps_wait (c : Nat) : ResKeeps s0 (.wait c) := fun _ ht => nomatch ht

theorem resKeeps_ite {c : Prop} [Decidable c] {a b : Res} (ha : ResKeeps s0 a) (hb : ResKeeps s0 b) :
    ResKeeps s0 (if c then a else b) := by
  split
  · exact ha
  · exact hb

/-- A SEQ slot with reserved bits halts, and any other does what its instruction does. -/
theorem resKeeps_seqForm {used w : Nat} {r : Res} (h : ResKeeps s0 r) : ResKeeps s0 (seqForm used w r) :=
  resKeeps_ite (resKeeps_halt _ _) h

theorem resKeeps_opRes {α : Type} {c : Except Stop α} {wt : α → Option Nat} {e : α → State}
    (he : ∀ a, Keeps s0 (e a)) : ResKeeps s0 (opRes c wt e) := fun _ ht => keeps_opRes (fun a _ => he a) ht

theorem goes_issueSlot {x : Nat} {k : SlotK} {mine : Nat → Bool} {f : State → Nat → Nat → Res}
    (hf : ∀ u w ofs, Keeps s u → ResKeeps s (f u w ofs)) : Goes s (issueSlot x k mine f s) :=
  goes_of_completes (issueSlot_completes x k mine f s) fun _ ht =>
    keeps_issueSlot (.refl s) (fun u w ofs v hu hv => hf u w ofs hu v hv) ht

theorem goes_vecIssue {x op : Nat} {f : Item → State → Nat → Except Stop VecOp} (hf : FormOk f) :
    Goes s (vecIssue x op f s) :=
  goes_of_completes (issueSlot_completes _ _ _ _ s) fun _ ht => keeps_vecIssue (.refl s) hf ht

theorem goes_sfuIssue {x : Nat} {mine : Nat → Bool} {f : Item → State → Nat → Except Stop VecOp} (hf : FormOk f) :
    Goes s (sfuIssue x mine f s) :=
  goes_of_completes (issueSlot_completes _ _ _ _ s) fun _ ht => keeps_sfuIssue (.refl s) hf ht

end

/-! ### The other ways -/

section

variable {s : State}

theorem goes_access {g : State → State} (hg : Keeps s (g s)) : Goes s (access g s) :=
  goes_of_completes (access_completes g s) fun _ ht => keeps_access (.refl s) hg ht

theorem goes_takeEntry {type : Nat} {g : State → Nat → List Byte → State} {i : Nat}
    (hg : ∀ u i b, Keeps s u → Keeps s (g u i b)) : Goes s (takeEntry type g i s) :=
  goes_of_completes (takeEntry_completes type g i s) fun _ ht => keeps_takeEntry (.refl s) hg ht

theorem goes_recv {type : BitVec 8} {rsp : Bool} {g : State → Nat → State} {p : Fin 2} {f : Frame}
    (hg : ∀ u q, Keeps s u → Keeps s (g u q)) : Goes s (recv type rsp g p f s) :=
  goes_of_completes (recv_completes type rsp g p f s) fun _ ht => keeps_recv (.refl s) hg ht

theorem goes_recvCtl {type : BitVec 8} {g : State → Nat → State} {p : Fin 2} {f : Frame}
    (hg : ∀ u q, Keeps s u → Keeps s (g u q)) : Goes s (recvCtl type g p f s) :=
  goes_of_completes (recvCtl_completes type g p f s) fun _ ht => keeps_recvCtl (.refl s) hg ht

/-- A host link event changes the link's levels, and acts besides in a block out of reset. -/
theorem goes_linkEvent {up retrain : Bool} {f : State → State} (hf : ∀ u, Keeps s u → Keeps s (f u)) :
    Goes s (linkEvent s up retrain f) :=
  have hlink : Keeps s (setLink s up retrain) := keeps_setLink (.refl s) _ _
  goes_ite (goes_next (hf _ hlink)) (goes_next hlink)

/-- A debug instruction leaves SCAN, and acts at its level. -/
theorem goes_dbgAt {n : Nat} {f : State → Out} (hf : ∀ u, Keeps s u → Goes s (f u)) : Goes s (dbgAt n s f) :=
  have hleft : Keeps s (scanLeft s) := keeps_scanLeft (.refl s)
  goes_ite (hf _ hleft) (goes_next (keeps_dbgNo hleft))

end

end Sys2Proof.Proofs
end

section
/-! SUPPORT for O3, O4 and O6. The mailbox commands go on: what each handler hands back when its checks have passed. -/

namespace Sys2Proof.Proofs

open Sys2Proof Sys2Proof.Machine

variable {s : State} (m : Mb)

/-! ### Block and partition commands -/

theorem goes_fwInfo : Goes s (execFwInfo m s) := goes_eci (handles_done (.refl s) _)

theorem goes_partitionSet : Goes s (execPartitionSet m s) :=
  goes_eci <| handles_bind fun _ => handles_bind fun _ => handles_bind fun _ =>
    handles_done (keeps_setLayout (.refl s) _ _) _

theorem goes_powerState : Goes s (execPowerState m s) := by
  refine goes_eci <| handles_bind fun _ => ?_
  split
  · exact handles_done (keeps_life (.refl s) _) _
  · exact handles_ite (handles_done (.refl s) _) (handles_wait (.refl s) _)
  · exact handles_bind fun _ => handles_done (keeps_enterRetain (.refl s)) _
  · exact handles_done (keeps_life (keeps_abortAll (.refl s)) _) _

theorem goes_dumpSet : Goes s (execDumpSet m s) :=
  goes_eci <| handles_bind fun _ => handles_bind fun _ => handles_bind fun _ => handles_bind fun _ =>
    handles_done (keeps_dump (.refl s) _) _

theorem goes_lcAdvance : Goes s (execLcAdvance m s) :=
  goes_eci <| handles_bind fun _ => handles_bind fun _ => handles_done (keeps_life (.refl s) _) _

theorem goes_debugChallenge : Goes s (execDebugChallenge m s) :=
  goes_eci <| handles_bind fun _ => handles_done ⟨rfl, id⟩ _

theorem goes_debugUnlock : Goes s (execDebugUnlock m s) := by
  refine goes_eci <| handles_bind fun _ => ?_
  have hused : Keeps s (useNonce s (par s m.val 8 1)) := keeps_useNonce (.refl s) _
  exact handles_ite (handles_status hused _ _) <| handles_ite (handles_done (keeps_life hused _) _) <|
    handles_ite (handles_done (keeps_life hused _) _) (handles_done (keeps_life hused _) _)

theorem goes_debugClose : Goes s (execDebugClose m s) :=
  goes_eci <| handles_ite (handles_done (keeps_life (.refl s) _) _) <|
    handles_ite (handles_done (keeps_life (.refl s) _) _) (handles_done (keeps_life (.refl s) _) _)

theorem goes_partitionParam : Goes s (execPartitionParam m s) :=
  goes_eci <| handles_bind fun _ => handles_bind fun _ => handles_done (keeps_setPart (.refl s) _ _) _

theorem goes_eventRing : Goes s (execEventRing m s) :=
  goes_eci <| handles_bind fun _ => handles_bind fun _ => handles_bind fun _ => handles_bind fun _ =>
    handles_bind fun _ => handles_done (keeps_updPart (keeps_dropUsers (.refl s) _) _ _) _

theorem goes_reset : Goes s (execReset m s) := by
  refine goes_eci <| handles_bind fun _ => ?_
  have hstep : ∀ level target ctx mbs, Keeps s (startStep s level target 1 ctx mbs) :=
    fun level target ctx mbs => keeps_startStep (.refl s) level target 1 ctx mbs
  split
  · exact handles_bind fun _ => handles_bind fun _ => handles_wait (hstep _ _ _ _) _
  · exact handles_bind fun _ => handles_wait (hstep _ _ _ _) _
  · exact handles_wait (hstep _ _ _ _) _
  · exact handles_silent (hstep _ _ _ _)

/-! ### Regions, contexts and images -/

theorem goes_regionRegister : Goes s (execRegionRegister m s) := by
  refine goes_eci <| handles_bind fun _ => handles_bind fun _ => handles_bind fun _ => ?_
  split
  · exact handles_error _
  · exact handles_done (keeps_setRegion (.refl s) _ _) _

theorem goes_regionRelease : Goes s (execRegionRelease m s) :=
  goes_eci <| handles_bind fun _ => handles_bind fun _ => handles_done (keeps_setRegion (.refl s) _ _) _

theorem goes_contextCreate : Goes s (execContextCreate m s) := by
  refine goes_eci <| handles_bind fun _ => handles_bind fun _ => ?_
  split
  · exact handles_error _
  · exact handles_done (keeps_newCtx (.refl s) _) _

theorem goes_contextDestroy : Goes s (execContextDestroy m s) :=
  goes_eci <| handles_bind fun _ => handles_bind fun _ =>
    handles_done (keeps_wipeTable (keeps_setCtx (.refl s) _ _) _) _

theorem goes_descWrite : Goes s (execDescWrite m s) := by
  refine goes_eci <| handles_bind fun _ => handles_bind fun _ => handles_bind fun _ => handles_bind fun _ =>
    handles_bind fun _ => handles_bind fun _ => handles_ite (handles_done (keeps_ctxWrite (.refl s) _ _) _) ?_
  exact handles_bind fun _ => handles_bind fun _ => handles_bind fun _ => handles_regRead fun _ =>
    handles_done (keeps_ctxWrite (keeps_dropUsers (.refl s) _) _ _) _

theorem goes_contextQuery : Goes s (execContextQuery m s) := by
  refine goes_eci <| handles_bind fun _ => handles_done ?_ _
  split
  · exact keeps_updCtx (.refl s) _ _
  · exact .refl s

theorem goes_contextSet : Goes s (execContextSet m s) :=
  goes_eci <| handles_bind fun _ => handles_done (keeps_ctxWrite (.refl s) _ _) _

theorem goes_contextSeed : Goes s (execContextSeed m s) :=
  goes_eci <| handles_bind fun _ => handles_done (keeps_ctxWrite (.refl s) _ _) _

theorem goes_contextHalt : Goes s (execContextHalt m s) :=
  goes_eci <| handles_bind fun _ => handles_done (keeps_askHalt (.refl s) _) _

theorem goes_imagePublish : Goes s (execImagePublish m s) := by
  refine goes_eci <| handles_bind fun _ => handles_bind fun _ => handles_bind fun _ => handles_bind fun _ =>
    handles_regRead fun d => ?_
  split
  · exact handles_error _
  · next hpublish => exact handles_done (keeps_publish (keeps_dropUsers (.refl s) _) hpublish) _

theorem goes_imageDestroy : Goes s (execImageDestroy m s) :=
  goes_eci <| handles_bind fun _ => handles_bind fun _ => handles_done (keeps_dropImage (.refl s) _) _

theorem goes_imageReplace : Goes s (execImageReplace m s) :=
  goes_eci <| handles_bind fun _ => handles_bind fun _ => handles_bind fun _ =>
    handles_wait (keeps_renameImage (.refl s) _ _) _

/-! ### Channels -/

theorem goes_channelCreate : Goes s (execChannelCreate m s) := by
  refine goes_eci <| handles_bind fun _ => handles_bind fun _ => handles_bind fun _ => handles_bind fun _ =>
    handles_bind fun _ => ?_
  split
  · exact handles_error _
  · exact handles_done (keeps_setChan (.refl s) _ _) _

/-- An admission that fails its test changes nothing, and one that passes it places the channel. -/
theorem ansKeeps_admitAnswer (p i : Nat) (a : Ask) (c : Cost) : AnsKeeps s (admitAnswer s p i a c) := by
  have hno : ∀ why l, AnsKeeps s (admitNo s why l) := fun _ _ => Keeps.refl s
  unfold admitAnswer
  dsimp only
  iterate 4
    split
    · exact hno _ _
  generalize List.find? _ _ = found
  cases found with
  | none => exact hno _ _
  | some b => exact keeps_placeChan (.refl s) _ _ _ _ _

theorem goes_channelAdmit : Goes s (execChannelAdmit m s) := by
  refine goes_eci <| handles_bind fun _ => handles_bind fun _ => ?_
  dsimp only
  split
  · exact handles_error _
  · exact handles_ok (ansKeeps_admitAnswer _ _ _ _)

theorem goes_channelDestroy : Goes s (execChannelDestroy m s) := by
  refine goes_eci <| handles_bind fun _ => handles_bind fun _ => handles_bind fun _ => ?_
  have hcancelled : Keeps s (cancelQueued s (fun t => t.ch == chanIdx (par s m.val 8 2)) stCancelled) :=
    keeps_cancelQueued (.refl s) _ _
  exact handles_ite (handles_wait hcancelled _) (handles_done (keeps_freeChan hcancelled _) _)

theorem goes_channelQuery : Goes s (execChannelQuery m s) := goes_eci <| handles_bind fun _ => handles_done (.refl s) _

theorem goes_channelResume : Goes s (execChannelResume m s) :=
  goes_eci <| handles_bind fun _ => handles_bind fun _ => handles_bind fun _ => handles_bind fun _ =>
    handles_bind fun _ => handles_done (keeps_setChan (keeps_dropChan (.refl s) _) _ _) _

/-! ### Streams -/

theorem goes_streamCreate : Goes s (execStreamCreate m s) := by
  refine goes_eci <| handles_bind fun _ => handles_bind fun _ => handles_bind fun _ => ?_
  split
  · exact handles_error _
  · exact handles_done (keeps_newStream (.refl s) _ _ _ _) _

theorem goes_streamDestroy : Goes s (execStreamDestroy m s) := by
  refine goes_eci <| handles_bind fun _ => handles_bind fun _ => ?_
  have hcancelled : ∀ p, Keeps s (cancelQueued s p stCancelled) := fun _ => keeps_cancelQueued (.refl s) _ _
  refine handles_ite (handles_done (keeps_freeSlot (hcancelled _) _) _) <| handles_bind fun _ => ?_
  exact handles_ite (handles_wait (hcancelled _) _) (handles_done (keeps_freeSlot (hcancelled _) _) _)

theorem goes_streamReset : Goes s (execStreamReset m s) := by
  refine goes_eci <| handles_bind fun _ => handles_bind fun _ => handles_bind fun _ => handles_done ?_ _
  exact keeps_mk.mpr <|
    keepsF_upd (s := s) rfl rfl id id id (twf_tput _ _ _ _) id id (memWf_clearRange _ _ _) id id (.refl s)

theorem goes_streamQuery : Goes s (execStreamQuery m s) := goes_eci <| handles_bind fun _ => handles_done (.refl s) _

theorem goes_streamExport : Goes s (execStreamExport m s) := by
  refine goes_eci <| handles_bind fun _ => handles_bind fun _ => handles_bind fun _ => handles_bind fun _ =>
    handles_bind fun _ => handles_bind fun _ => ?_
  have hcancelled : ∀ p, Keeps s (cancelQueued s p stCancelled) := fun _ => keeps_cancelQueued (.refl s) _ _
  refine handles_ite (handles_done (keeps_startExport (.refl s) _ _ _ _ _) _) <| handles_bind fun _ =>
    handles_bind fun _ => ?_
  exact handles_ite (handles_wait (hcancelled _) _) (handles_done (keeps_startExport (hcancelled _) _ _ _ _ _) _)

theorem handles_importArrival (p no quad : Nat) : Handles s (importArrival s p no quad) := by
  unfold importArrival
  split
  · exact handles_error _
  · refine handles_ite (handles_status (keeps_dropArrival (.refl s) _ _) _ _) ?_
    dsimp only
    split
    · exact handles_error _
    · exact handles_done (keeps_acceptArrival (.refl s) _ _ _ _) _

theorem handles_importRegion (n p quad : Nat) (h : BitVec 16) (o : Nat) : Handles s (importRegion s n p quad h o) := by
  refine handles_bind fun _ => handles_bind fun _ => handles_bind fun _ => handles_regRead fun _ =>
    handles_bind fun _ => handles_bind fun _ => handles_regRead fun _ => handles_bind fun _ => ?_
  split
  · exact handles_error _
  · exact handles_done (keeps_importInto (keeps_dropUsers (.refl s) _) _ _ _ _) _

theorem goes_streamImport : Goes s (execStreamImport m s) :=
  goes_eci <| handles_bind fun _ => handles_bind fun _ =>
    handles_ite (handles_importArrival _ _ _) (handles_importRegion _ _ _ _ _)

/-! ### Tables, semaphores and gradient sets -/

theorem goes_tableRegister : Goes s (execTableRegister m s) := by
  refine goes_eci <| handles_bind fun _ => handles_bind fun _ => handles_bind fun _ => handles_bind fun _ =>
    handles_bind fun _ => ?_
  split
  · exact handles_error _
  · exact handles_done (keeps_setTable (.refl s) _ _) _

theorem goes_tableReload : Goes s (execTableReload m s) :=
  goes_eci <| handles_bind fun _ => handles_bind fun _ => handles_bind fun _ => handles_bind fun _ =>
    handles_bind fun _ => handles_ite (handles_wait (keeps_setTable (.refl s) _ _) _)
      (handles_done (keeps_reloadNow (.refl s) _ _) _)

theorem goes_tableRelease : Goes s (execTableRelease m s) :=
  goes_eci <| handles_bind fun _ => handles_bind fun _ => handles_done ⟨rfl, id⟩ _

theorem goes_semBind : Goes s (execSemBind m s) := by
  refine goes_eci <| handles_bind fun _ => handles_bind fun _ => handles_bind fun _ => ?_
  have hbound : ∀ k kind ctx part prod cons v, Handles s (do
      need ((getSem s k).bind = 0) stObjectBusy 0
      if kind = 1 then return .done (setSem s k { value := v, bind := 1, ctx, part }) []
      else
        need (closesCycle s part (chanIdx prod) (chanIdx cons) = false) stGraphCycle 0
        return .done (setSem s k { value := v, bind := 2, part, prod := chanIdx prod, cons := chanIdx cons }) []) :=
    fun _ _ _ _ _ _ _ => handles_bind fun _ => handles_ite (handles_done (keeps_setSem (.refl s) _ _) _) <|
      handles_bind fun _ => handles_done (keeps_setSem (.refl s) _ _) _
  exact handles_ite (handles_bind fun _ => hbound _ _ _ _ _ _ _) <|
    handles_bind fun _ => handles_bind fun _ => hbound _ _ _ _ _ _ _

theorem goes_semUnbind : Goes s (execSemUnbind m s) :=
  goes_eci <| handles_bind fun _ => handles_bind fun _ => handles_bind fun _ => handles_bind fun _ =>
    handles_done (keeps_updSem (.refl s) _ _) _

theorem goes_semQuery : Goes s (execSemQuery m s) :=
  goes_eci <| handles_bind fun _ => handles_bind fun _ => handles_done (.refl s) _

theorem goes_gradsetAlloc : Goes s (execGradsetAlloc m s) := by
  refine goes_eci <| handles_bind fun _ => handles_bind fun _ => handles_bind fun _ => handles_bind fun _ => ?_
  split
  · exact handles_error _
  · exact handles_done (keeps_zeroFrames (keeps_setGset (.refl s) _ _) _ _) _

theorem goes_gradsetZero : Goes s (execGradsetZero m s) :=
  goes_eci <| handles_bind fun _ => handles_done (keeps_zeroFrames (keeps_setGset (.refl s) _ _) _ _) _

theorem goes_gradsetRelease : Goes s (execGradsetRelease m s) :=
  goes_eci <| handles_bind fun _ => handles_bind fun _ => handles_done (keeps_setGset (.refl s) _ _) _

end Sys2Proof.Proofs
end

section
/-! SUPPORT for O3, O4 and O6. The slots of a bundle go on: what the effect of each instruction keeps. -/

namespace Sys2Proof.Proofs

open Sys2Proof Sys2Proof.Machine

/-! ### SEQ slots -/

section

variable {s0 s : State}

theorem resKeeps_seqAlu (h : Keeps s0 s) (x : Nat) (op : Word → Word → Word) (w ofs : Nat) :
    ResKeeps s0 (seqAlu x op s w ofs) := resKeeps_seqForm (resKeeps_done (keeps_putC h _ _ _))

theorem resKeeps_branch (h : Keeps s0 s) (x : Nat) (taken : Bool) (w ofs : Nat) :
    ResKeeps s0 (branch x taken s w ofs) := by
  unfold branch
  dsimp only
  split
  · exact resKeeps_done h
  · exact resKeeps_ite (resKeeps_halt _ _) <| resKeeps_ite (resKeeps_halt _ _) <| resKeeps_ite (resKeeps_halt _ _) <|
      resKeeps_ite (resKeeps_done (keeps_updCtx h _ _)) (resKeeps_done h)

theorem resKeeps_seqLoop (h : Keeps s0 s) (x w ofs : Nat) : ResKeeps s0 (seqLoop x s w ofs) := by
  unfold seqLoop
  dsimp only
  split
  · refine resKeeps_ite (resKeeps_halt _ _) <| resKeeps_ite (resKeeps_halt _ _) <|
      resKeeps_ite (resKeeps_done (keeps_updCtx h _ _)) <| resKeeps_ite (resKeeps_halt _ _) <| resKeeps_done ?_
    split
    · exact keeps_putC (keeps_updCtx h _ _) _ _ _
    · exact keeps_updCtx h _ _
  · exact resKeeps_done h

theorem resKeeps_seqLeave (h : Keeps s0 s) (x w ofs : Nat) : ResKeeps s0 (seqLeave x s w ofs) := by
  unfold seqLeave
  split
  · exact resKeeps_halt _ _
  · exact resKeeps_ite (resKeeps_done (keeps_updCtx h _ _)) (resKeeps_done h)

/-- A slot that reads the item of its context does nothing without one. -/
theorem resKeeps_item {x : Nat} {g : Item → Res} (h : Keeps s0 s) (hg : ∀ i, ResKeeps s0 (g i)) :
    ResKeeps s0 (match itemOf s x with
      | none => .done s
      | some i => g i) := by
  split
  · exact resKeeps_done h
  · exact hg _

end

section

variable {s : State} (x : Fin 64)

theorem goes_bundleNop : Goes s (execBundleNop x s) := by
  unfold execBundleNop
  have hturn := fun u => keeps_turn (.refl s) (x := x.val) (t := u)
  generalize nextTurn s x.val = q at hturn
  cases q with
  | idle => exact goes_same
  | fetch u lines =>
    dsimp only
    split
    · exact goes_same
    · exact goes_next (keeps_waitSlot (Keeps.foldl _ (hturn u rfl) fun _ _ hv => keeps_askLine hv _ _ _) _ _)
  | halt ofs r => exact goes_next (keeps_haltIssue (.refl s) _ _ _ _ _)
  | empty u => exact goes_next (keeps_endSlot (hturn u rfl) _)
  | slot _ _ _ _ => exact goes_same

theorem goes_seqNop : Goes s (execSeqNop x s) :=
  goes_issueSlot fun _ _ _ h => resKeeps_seqForm (resKeeps_done h)

theorem goes_addi : Goes s (execAddi x s) := goes_issueSlot fun _ _ _ h => resKeeps_done (keeps_putC h _ _ _)

theorem goes_seqAlu {mine : Nat → Bool} (op : Word → Word → Word) :
    Goes s (issueSlot x.val .seq mine (seqAlu x.val op) s) :=
  goes_issueSlot fun _ _ _ h => resKeeps_seqAlu h _ _ _ _

theorem goes_loop : Goes s (execLoop x s) := goes_issueSlot fun _ _ _ h => resKeeps_seqLoop h _ _ _

theorem goes_leave : Goes s (execLeave x s) :=
  goes_issueSlot fun _ _ _ h => resKeeps_seqForm (resKeeps_seqLeave h _ _ _)

theorem goes_seqEnd : Goes s (execSeqEnd x s) := by
  refine goes_issueSlot fun u _ _ h => resKeeps_seqForm (resKeeps_done ?_)
  split
  · exact keeps_setItem h _
  · exact h

/-! ### MAT, MOV and SYN slots -/

theorem goes_mac : Goes s (execMac x s) :=
  goes_issueSlot fun _ _ _ h => resKeeps_item h fun _ => resKeeps_opRes fun _ => keeps_macEffect h _ _

theorem goes_zero : Goes s (execZero x s) :=
  goes_issueSlot fun _ _ _ h => resKeeps_item h fun _ => resKeeps_opRes fun _ => keeps_zeroEffect h _ _ _

theorem goes_preloadBias : Goes s (execPreloadBias x s) :=
  goes_issueSlot fun _ _ _ h => resKeeps_item h fun _ => resKeeps_opRes fun _ => keeps_biasEffect h _ _ _

theorem goes_preloadPlane : Goes s (execPreloadPlane x s) :=
  goes_issueSlot fun _ _ _ h => resKeeps_item h fun _ => resKeeps_opRes fun _ => keeps_planeEffect h _ _ _

theorem goes_scale : Goes s (execScale x s) :=
  goes_issueSlot fun _ _ _ h => resKeeps_item h fun _ => resKeeps_opRes fun _ => keeps_scaleEffect h _ _ _ _

theorem goes_loadDecay : Goes s (execLoadDecay x s) :=
  goes_issueSlot fun _ _ _ h => resKeeps_item h fun _ => resKeeps_opRes fun _ => keeps_decayEffect h _ _ _

theorem goes_drain : Goes s (execDrain x s) :=
  goes_issueSlot fun _ _ _ h => resKeeps_item h fun _ => resKeeps_opRes fun _ => keeps_drainEffect h _ _ _

theorem goes_recirc : Goes s (execRecirc x s) :=
  goes_issueSlot fun _ _ _ h => resKeeps_item h fun _ => resKeeps_opRes fun _ => keeps_recircEffect h _ _ _

theorem goes_save : Goes s (execSave x s) := by
  refine goes_issueSlot fun u _ _ h => resKeeps_item h fun _ => resKeeps_opRes fun a => keeps_addOp ?_ _ _ _
  have hparity : Keeps s (noteParity u x.val a.f32 a.slots (a.rows.map (·.1))) := keeps_noteParity h _ _ _ _
  exact keeps_mk.mpr (keepsF_upd rfl rfl id id id id id id
    (fun hm => memWf_foldl _ _ _ hm fun _ _ hv => memWf_saveRow _ _ _ _ _ _ _ hv) id id hparity)

theorem goes_restore : Goes s (execRestore x s) := by
  refine goes_issueSlot fun _ _ _ h => resKeeps_item h fun _ => resKeeps_opRes fun _ =>
    keeps_raiseAt (keeps_addOp (keeps_updCal h _ _ fun k hk => ?_) _ _ _) _ _ _ _
  exact LanesOk.foldl _ hk fun k r hk => (lanes_restoreRow k _ _ _ _ _ _).symm ▸ hk

theorem goes_gacc : Goes s (execGacc x s) :=
  goes_issueSlot fun _ _ _ h => resKeeps_item h fun _ => resKeeps_opRes fun _ => keeps_gaccEffect h _ _ _

theorem goes_feed : Goes s (execFeed x s) :=
  goes_issueSlot fun _ _ _ h => resKeeps_item h fun _ => resKeeps_opRes fun _ => keeps_feedEffect h _ _

theorem goes_vent : Goes s (execVent x s) :=
  goes_issueSlot fun _ _ _ h => resKeeps_item h fun _ => resKeeps_ite (resKeeps_reached (keeps_reachPrefetch h _ _))
    (resKeeps_opRes fun _ => keeps_ventEffect h _ _)

theorem goes_gather : Goes s (execGather x s) :=
  goes_issueSlot fun _ _ _ h => resKeeps_item h fun _ => resKeeps_ite (resKeeps_reached (keeps_reachPrefetch h _ _))
    (resKeeps_opRes fun _ => keeps_gatherEffect h _ _)

theorem goes_acq : Goes s (execAcq x s) := by
  refine goes_issueSlot fun _ _ _ h => resKeeps_item h fun _ => ?_
  split
  · exact resKeeps_halt _ _
  · exact resKeeps_ite (resKeeps_wait _) (resKeeps_done (keeps_acqEffect h _ _))

theorem goes_rel : Goes s (execRel x s) :=
  goes_issueSlot fun _ _ _ h => resKeeps_item h fun _ => resKeeps_opRes fun _ => keeps_semRelease h _ _ _ _

theorem goes_fence : Goes s (execFence x s) := goes_issueSlot fun _ _ _ h => resKeeps_opRes fun _ => h

end

end Sys2Proof.Proofs
end

section
/-! SUPPORT for O3, O4 and O6. The events go on: those of the array and the engines, of the firmware and the dispatcher,
of faults and the reset ladder, of time, power and life cycle, and of the ports. -/

namespace Sys2Proof.Proofs

open Sys2Proof Sys2Proof.Machine

/-! ### Forms of a run that goes on -/

theorem formOk_vecFormOf (x w : Nat) : FormOk (vecFormOf x w) := by
  unfold vecFormOf
  split
  iterate 13 exact formOk_elemwise _ _
  · exact formOk_moviForm
  iterate 7 exact formOk_elemwise _ _
  · exact formOk_cvtIssue
  · exact formOk_mxcvtIssue
  · exact formOk_pwlIssue _
  · exact formOk_pwlIssue _
  · exact formOk_gatemulIssue
  · exact formOk_gsumIssue
  · exact formOk_rmaxIssue
  · exact formOk_rstatIssue
  · exact formOk_topkIssue _
  · exact formOk_vldIssue _
  · exact formOk_vstIssue _

theorem formOk_laneFormOf (u : Path) (x w : Nat) : FormOk (laneFormOf u x w) := by
  unfold laneFormOf
  split
  · exact formOk_vecFormOf _ _
  · split
    · exact formOk_microForm
    · exact formOk_builtinForm _

theorem workOk_vldOf (i : Item) (w : Nat) (t : Desc × List Nat × Nat) : WorkOk (vldOf i w t) :=
  fun _ _ _ _ hk => lanesOk_putLanes hk _ _

theorem workOk_vstOf (i : Item) (w : Nat) (t : Desc × List Nat × Nat) : WorkOk (vstOf i w t) := fun _ _ _ _ hk => hk

/-- The rest of a run keeps the lanes' form as its first register did. -/
theorem workOk_of_restForm {s : State} {o : Op} {r : LaneRest} {i : Item} {v : VecOp}
    (h : restForm s o r = some (i, v)) : WorkOk v := by
  unfold restForm at h
  split at h
  · cases h
  · dsimp only at h
    split at h
    · cases h
      split
      · exact workOk_vldOf _ _ _
      · exact workOk_vstOf _ _ _
    · split at h
      · cases h
      · next hform =>
        cases h
        exact formOk_laneFormOf _ _ _ _ _ _ _ hform

section

variable {s : State}

/-! ### The array, the lanes and the engines -/

theorem goes_promotion (c : Struck) : Goes s (execPromotion c s) := by
  unfold execPromotion
  have hups : Keeps s (updCal s c.cal.val fun k => { k with acc := upsetSlots k.acc c.ups }) :=
    keeps_updCal (.refl s) _ _ fun _ hk => hk
  dsimp only
  split
  · exact goes_next hups
  · exact goes_ite (goes_next hups) (goes_next (keeps_promoteRun hups _ _ _))

theorem goes_checkCompare (c : Fin 4) (rows cols : List (Fin 257 × BitVec 88)) :
    Goes s (execCheckCompare c rows cols s) := by
  unfold execCheckCompare
  split
  · exact goes_same
  · refine goes_next (keeps_settle (keeps_compareGroup (keeps_updCal (.refl s) _ _ ?_) _ _) _)
    exact fun _ hk => hk

theorem goes_recircReady (c : Fin 4) : Goes s (execRecircReady c s) := by
  unfold execRecircReady
  have hlanes : LanesOk s (getCal s c.val).lanes := lanesOk_getCal (.refl s) _
  dsimp only
  split
  · exact goes_same
  · split
    · exact goes_same
    · refine goes_next (keeps_settle (keeps_setCal (.refl s) _ _ ?_) _)
      rw [lanes_fillEnds]
      exact hlanes

theorem goes_feedComplete (c : Feeder) : Goes s (execFeedComplete c s) := by
  unfold execFeedComplete
  have hlanes : LanesOk s (getCal s c.cal.val).lanes := lanesOk_getCal (.refl s) _
  dsimp only
  split
  · exact goes_same
  · refine goes_next (keeps_settle (keeps_setCal (.refl s) _ _ ?_) _)
    rw [lanes_fillEnds]
    exact hlanes

theorem goes_resultInPlace (c : Fin 4) (u : Path) : Goes s (execResultInPlace c u s) := by
  unfold execResultInPlace
  dsimp only
  split
  · exact goes_same
  · split
    · exact goes_unless (keeps_placeResult (.refl s) _ _)
    · split
      · exact goes_next (keeps_settle (keeps_replaceOp (.refl s) _ _ _) _)
      · next hform =>
        exact goes_ite (goes_next (keeps_processNext (.refl s) _ _ _ _ (workOk_of_restForm hform)))
          (goes_if (keeps_replaceOp (.refl s) _ _ _))

theorem goes_semGrant (k : Fin 1280) : Goes s (execSemGrant k s) := goes_next (keeps_grantAcqs (.refl s) _ _)

theorem goes_transferComplete (e : Eng) : Goes s (execTransferComplete e s) := by
  unfold execTransferComplete
  split
  · exact goes_next (keeps_enterAhead (.refl s) _)
  · exact goes_if (keeps_settle (keeps_completeXfer (.refl s) _ _) _)

theorem goes_atomicAdd (e : Eng) : Goes s (execAtomicAdd e s) := by
  unfold execAtomicAdd
  split
  · exact goes_same
  · exact goes_if (keeps_settle (keeps_addNext (.refl s) _ _) _)

theorem goes_lookupComplete (c : Fin 4) (n : Fin 16) : Goes s (execLookupComplete c n s) := by
  unfold execLookupComplete
  split
  · exact goes_same
  · exact goes_ite goes_same <| goes_ite (goes_next (keeps_settle (keeps_readAgain (.refl s) _ _) _)) <|
      goes_next (keeps_settle (keeps_completeLook (keeps_tephraPtr (.refl s) _) _ _) _)

theorem goes_prefetch (x : Fin 64) (n : Nat) : Goes s (execPrefetch x n s) := by
  unfold execPrefetch
  split
  · exact goes_same
  · dsimp only
    refine goes_ite goes_same ?_
    split
    · exact goes_same
    · split
      · exact goes_same
      · exact goes_unless (keeps_prefetchSlot (.refl s) _ _ _ _ _)

theorem goes_haltRequest (x : Fin 64) : Goes s (execHaltRequest x s) := by
  unfold execHaltRequest
  split
  · exact goes_same
  · exact goes_if (keeps_haltIssue (keeps_setCtx (.refl s) _ _) _ _ _ _ _)

theorem goes_lineFill (c : Fin 4) (img : BitVec 16) (line : Nat) (ok : Bool) :
    Goes s (execLineFill c img line ok s) := by
  unfold execLineFill
  split
  · exact goes_same
  · exact goes_next (keeps_arriveLine (.refl s) _ _ _)

/-! ### The firmware's waits -/

theorem goes_powerIdleDone : Goes s (execPowerIdleDone s) :=
  goes_ite goes_same (goes_if (keeps_answerWait (keeps_life (.refl s) _) _ _ _))

theorem goes_imageReplaceDone (m : Mb) : Goes s (execImageReplaceDone m s) := by
  unfold execImageReplaceDone
  split
  · exact goes_next (keeps_respond (.refl s) _ _ _ _)
  · exact goes_same

theorem goes_exportConfirmed (slot : Fin 4096) : Goes s (execExportConfirmed slot s) := by
  unfold execExportConfirmed
  split
  · exact goes_same
  · exact goes_ite (goes_ite (goes_next (keeps_exportFail (.refl s) _ _)) (goes_next (keeps_exportDone (.refl s) _ _)))
      goes_same

theorem goes_exportTimeout (slot : Fin 4096) : Goes s (execExportTimeout slot s) := by
  unfold execExportTimeout
  split
  · exact goes_same
  · split
    · exact goes_next <| keeps_exports
        (keeps_updSlot (keeps_sendCancel (keeps_dropState (.refl s) _ _) _ _ _) _ _) _
    · exact goes_same

theorem goes_arrivalTimeout (a : Fin 16) : Goes s (execArrivalTimeout a s) := by
  unfold execArrivalTimeout
  split
  · exact goes_same
  · exact goes_next (keeps_dropArrival (.refl s) _ _)

theorem goes_tableReloadEffect (t : Fin 64) : Goes s (execTableReloadEffect t s) := by
  unfold execTableReloadEffect
  dsimp only
  split
  · exact goes_same
  · exact goes_unless (keeps_respond (keeps_reloadNow (.refl s) _ _) _ _ _ _)

theorem goes_tableTimeout (t : Fin 64) : Goes s (execTableTimeout t s) := by
  unfold execTableTimeout
  dsimp only
  split
  · exact goes_same
  · exact goes_next (keeps_respond (keeps_setTable (.refl s) _ _) _ _ _ _)

theorem goes_completionPost (i : Fin 256) (write fence : Bool) : Goes s (execCompletionPost i write fence s) :=
  goes_if (keeps_postStep (.refl s) _ _ _)

theorem goes_eventPost (p : Fin 4) : Goes s (execEventPost p s) := by
  unfold execEventPost
  split
  · exact goes_same
  · refine goes_ite goes_same <| goes_ite (goes_ite goes_same ?_) (goes_if (keeps_addJob (.refl s) _ _))
    exact goes_ite (goes_next (keeps_dropJob (.refl s) _)) (goes_next (keeps_eventPosted (.refl s) _))

theorem goes_dumpCopy : Goes s (execDumpCopy s) := by
  refine goes_ite goes_same <| goes_ite (goes_ite goes_same ?_) (goes_if (keeps_addJob (.refl s) _ _))
  have hdrop : Keeps s (dropJob s .dump) := keeps_dropJob (.refl s) _
  exact goes_ite (goes_next hdrop) (goes_next (keeps_dump hdrop _))

/-! ### The dispatcher -/

theorem goes_entryEligible (i : Fin 256) (seq : Word) : Goes s (execEntryEligible i seq s) := by
  unfold execEntryEligible
  split
  · exact goes_same
  · exact goes_if (keeps_setItem (.refl s) _)

theorem goes_dispatchPlace (c : Fin 4) (g : Grant) : Goes s (execDispatchPlace c g s) := by
  refine goes_ite goes_same ?_
  split
  · exact goes_next (keeps_loadLists (.refl s) _)
  · exact goes_same
  · exact goes_ite goes_same <| goes_ite (goes_next (keeps_finishItem (.refl s) _ _)) <|
      goes_if (keeps_placeItem (.refl s) _ _ _)

theorem goes_restoreComplete (c : Fin 4) : Goes s (execRestoreComplete c s) := by
  unfold execRestoreComplete
  split
  · exact goes_next (keeps_endRestore (.refl s) _)
  · exact goes_unless (keeps_endRestore (.refl s) _)
  · exact goes_if (keeps_saveChecked (.refl s) _ fun _ ht => keeps_endForward ht _)
  · exact goes_same

theorem goes_executeStart (c : Fin 4) : Goes s (execExecuteStart c s) := by
  unfold execExecuteStart
  split
  · exact goes_same
  · exact goes_if (keeps_updCtx (keeps_setItem (.refl s) _) _ _)

theorem goes_replayStart (c : Fin 4) : Goes s (execReplayStart c s) := by
  unfold execReplayStart
  split
  · exact goes_same
  · exact goes_if (keeps_startReplay (.refl s) _)

theorem goes_chunkCommit (c : Fin 4) (bad : List (Fin 256)) : Goes s (execChunkCommit c bad s) := by
  unfold execChunkCommit
  split
  · exact goes_same
  · exact goes_ite goes_same <| goes_ite (goes_next (keeps_commitItem (.refl s) _ _)) <|
      goes_next (keeps_saveChecked (.refl s) _ fun _ ht => keeps_commitItem ht _ _)

/-! ### Faults and the reset ladder -/

theorem goes_faultDetected (f : FaultRep) : Goes s (execFaultDetected f s) :=
  goes_if (keeps_detected (keeps_dropFound (.refl s) _) _)

theorem goes_scrub (f : FaultRep) : Goes s (execScrub f s) := goes_if (keeps_scrubbed (.refl s) _)

theorem goes_faultLogExpire : Goes s (execFaultLogExpire s) := goes_next (keeps_flt (.refl s) _)

theorem goes_fenceCaldera (c : Fin 4) : Goes s (execFenceCaldera c s) := goes_if (keeps_finishFence (.refl s) _)

theorem goes_watchdog (x : Fin 64) : Goes s (execWatchdog x s) := by
  unfold execWatchdog
  split
  · exact goes_same
  · exact goes_if (keeps_haltIssue (keeps_report (.refl s) _ _ _ _ _ _) _ _ _ _ _)

theorem goes_hungContext (x : Fin 64) : Goes s (execHungContext x s) := goes_if (keeps_startStep (.refl s) _ _ _ _ _)

theorem goes_cpWdog : Goes s (execCpWdog s) := by
  refine goes_ite goes_same (goes_next ?_)
  have hfailed : ∀ cp, Keeps s (raiseFatal { report s none 0x31 2 none none 0 with cp } 1) :=
    fun cp => keeps_raiseFatal (keeps_cp (keeps_report (.refl s) _ _ _ _ _ _) cp) _
  dsimp only
  split
  · exact keeps_startStep (hfailed _) _ _ _ _ _
  · exact keeps_startStep (hfailed _) _ _ _ _ _

theorem goes_contextReset (x : Fin 64) : Goes s (execContextReset x s) := by
  unfold execContextReset
  split
  · exact goes_same
  · exact goes_next (keeps_endStep (keeps_ctxReset (.refl s) _) _)

theorem goes_engineReset (c : Fin 4) : Goes s (execEngineReset c s) := by
  unfold execEngineReset
  split
  · exact goes_same
  · exact goes_next (keeps_endStep (keeps_engReset (.refl s) _) _)

theorem goes_partitionReset (p : Fin 4) : Goes s (execPartitionReset p s) := by
  unfold execPartitionReset
  split
  · exact goes_same
  · exact goes_next (keeps_endStep (keeps_partReset (.refl s) _ _) _)

theorem goes_blockReset : Goes s (execBlockReset s) := by
  unfold execBlockReset
  split
  · exact goes_same
  · exact goes_unless (keeps_blockStep (.refl s))

theorem goes_powerCycle : Goes s (execPowerCycle s) := by
  unfold execPowerCycle
  split
  · exact goes_same
  · exact goes_unless (keeps_holdAll (.refl s))

theorem goes_escLate (n : Nat) : Goes s (execEscLate n s) := by
  unfold execEscLate
  split
  · exact goes_same
  · split
    · exact goes_same
    · exact goes_next (keeps_startStep (keeps_raiseFatal (.refl s) _) _ _ _ _ _)

/-! ### Register accesses and time -/

theorem goes_registerWrite (ofs : BitVec 24) (size : Nat) (data : WinData) (parOk : Bool) :
    Goes s (execRegisterWrite ofs size data parOk s) := by
  refine goes_access ?_
  split
  · exact keeps_windowWrite (.refl s) _ _ _ _
  · exact keeps_report (.refl s) _ _ _ _ _ _

theorem goes_timeSample (t : BitVec 64) (strobe : Bool) : Goes s (execTimeSample t strobe s) :=
  goes_unless (keeps_checkSample (.refl s) _)

theorem goes_holdover : Goes s (execHoldover s) := goes_if (keeps_postBlockEvent (keeps_tb (.refl s) _) _ _)

/-! ### Power, life cycle and debug -/

theorem goes_lcValid (code : BitVec 3) : Goes s (execLcValid code s) :=
  goes_unless (keeps_samplePhase (keeps_life (.refl s) _))

theorem goes_firmwareVerify : Goes s (execFirmwareVerify s) :=
  goes_ite goes_same <| goes_ite (goes_next (keeps_fwStart (keeps_fwFetch (.refl s))))
    (goes_next (keeps_fwFail (keeps_fwFetch (.refl s))))

theorem goes_secureWipe : Goes s (execSecureWipe s) := by
  refine goes_next ?_
  cases hwipe : dueWipe s with
  | none => exact .refl s
  | some t => exact keeps_dueWipe (.refl s) hwipe

theorem goes_lcStateChange (code : BitVec 3) (valid : Bool) : Goes s (execLcStateChange code valid s) :=
  goes_ite (goes_next (keeps_life (.refl s) _)) (goes_next (keeps_lifeChange (keeps_life (.refl s) _) _))

theorem goes_obsreg (ofs : Nat) : Goes s (execObsreg ofs s) :=
  goes_dbgAt fun u hu => goes_next (keeps_dbgSet hu 0x10 (obsWord u ofs))

theorem goes_ctxctl (x : Fin 64) (act : Fin 3) : Goes s (execCtxctl x act s) :=
  goes_dbgAt fun _ hu => goes_next (keeps_dbgSet (keeps_updCtx hu _ _) _ _)

theorem goes_scan (leave : Bool) : Goes s (execScan leave s) :=
  goes_ite (goes_next (keeps_dbgNo (.refl s))) <|
    goes_ite (goes_next (keeps_life (keeps_dbgSet (.refl s) _ _) _)) (goes_next (keeps_scanLeft (.refl s)))

/-! ### The ports -/

theorem goes_memResponse (n : Fin 16) (tag : Fin 256) (status : Fin 4) (last : Bool) :
    Goes s (execMemResponse n tag status last s) := by
  unfold execMemResponse
  split
  · exact goes_same
  · exact goes_ite goes_same <| goes_ite (goes_next (keeps_finishReq (.refl s) _ _ _)) <|
      goes_if (keeps_finishReq (.refl s) _ _ _)

theorem goes_memAck (n : Fin 16) (tag : Fin 256) (status : Fin 4) : Goes s (execMemAck n tag status s) := by
  unfold execMemAck
  split
  · exact goes_same
  · exact goes_unless (keeps_finishReq (.refl s) _ _ _)

theorem goes_memTagTimeout (n : Fin 16) (tag : Fin 256) : Goes s (execMemTagTimeout n tag s) := by
  unfold execMemTagTimeout
  split
  · exact goes_same
  · exact goes_unless (keeps_finishReq (.refl s) _ _ _)

theorem goes_memCreditReturn (n : Fin 16) (wd : Bool) : Goes s (execMemCreditReturn n wd s) :=
  goes_if (keeps_goOn (keeps_sendBeats (keeps_setMemCh (.refl s) _ _) _))

theorem goes_hostCompletion (tag : Fin 256) (status : Fin 4) : Goes s (execHostCompletion tag status s) := by
  unfold execHostCompletion
  split
  · exact goes_same
  · exact goes_next (keeps_finishReq (.refl s) _ _ _)

theorem goes_hostReadTimeout (tag : Fin 256) : Goes s (execHostReadTimeout tag s) := by
  unfold execHostReadTimeout
  split
  · exact goes_same
  · exact goes_unless (keeps_finishReq (.refl s) _ _ _)

theorem goes_linkDown : Goes s (execLinkDown s) :=
  goes_ite goes_same (goes_linkEvent fun _ hu => keeps_hostLoss hu _)

theorem goes_linkUp : Goes s (execLinkUp s) :=
  goes_ite goes_same (goes_linkEvent fun _ hu => keeps_goOn (keeps_postBlockEvent hu _ _))

theorem goes_retrainStart : Goes s (execRetrainStart s) :=
  goes_ite goes_same (goes_linkEvent fun _ hu => keeps_postBlockEvent hu _ _)

theorem goes_retrainEnd : Goes s (execRetrainEnd s) :=
  goes_ite goes_same <| goes_ite (goes_linkEvent fun _ hu => keeps_goOn hu)
    (goes_linkEvent fun _ hu => keeps_goOn (keeps_postBlockEvent hu _ _))

theorem goes_retrainTimeout : Goes s (execRetrainTimeout s) :=
  goes_ite goes_same (goes_linkEvent fun _ hu => keeps_hostLoss (keeps_host hu _) _)

theorem goes_hotReset : Goes s (execHotReset s) :=
  goes_linkEvent fun _ hu => keeps_goOn (keeps_hostLoss (keeps_invalidateHost hu) _)

theorem goes_functionLevelReset : Goes s (execFunctionLevelReset s) :=
  goes_linkEvent fun _ hu => keeps_goOn (keeps_hostLoss (keeps_invalidateHost hu) _)

theorem goes_probe (p : Fin 2) (f : Frame) : Goes s (execProbe p f s) := by
  refine goes_recvCtl fun u q hu => ?_
  have hover : Keeps s (ctlOver u p.val q 0xC4 0 0) := keeps_ctlOver hu _ _ _ _ _
  dsimp only
  split
  · exact keeps_sendCtl hover _ _
  · exact hover

theorem goes_retryTimeout (q : Fin 64) : Goes s (execRetryTimeout q s) := by
  refine goes_ite goes_same (goes_next ?_)
  have hresent : Keeps s (resendPeer s q.val countTimeout) := keeps_resendPeer (.refl s) _ _
  split
  · exact keeps_switchPort hresent _
  · exact hresent

theorem goes_peerLost (q : Fin 64) : Goes s (execPeerLost q s) :=
  goes_ite goes_same <| goes_ite (goes_next (keeps_failExports (keeps_failImports (.refl s) _) _))
    (goes_next (keeps_losePeer (.refl s) _))

theorem goes_portDown (p : Fin 2) : Goes s (execPortDown p s) := by
  refine goes_ite goes_same (goes_next (keeps_presentPort (Keeps.foldl _ ?_ fun u q hu => ?_) _))
  · exact keeps_report (keeps_setPort (.refl s) _ _) _ _ _ _ _ _
  · split
    · exact keeps_movePair hu _
    · exact hu

theorem goes_portUp (p : Fin 2) : Goes s (execPortUp p s) :=
  goes_ite goes_same <| goes_next <|
    keeps_presentPort (Keeps.foldl _ (keeps_setPort (.refl s) _ _) fun _ _ hu => keeps_portRisen hu _ _) _

end

end Sys2Proof.Proofs
end

section
/-! SUPPORT and proofs of O1, O3, O4, O5 and O6. Every command goes on, but for a debugger's access to a word that does
not exist; so no command touches the queue, and every step keeps the canonical form. -/

namespace Sys2Proof.Proofs

open Sys2Proof Sys2Proof.Machine

/-! ### A debugger's accesses -/

section

variable {s : State} {store unit word : Nat}

/-- A debug instruction acts on the state that SCAN has left, or goes on without effect. -/
theorem dbgAt_eq_or_goes (n : Nat) (f : State → Out) : dbgAt n s f = f (scanLeft s) ∨ Goes s (dbgAt n s f) := by
  by_cases hlevel : n ≤ levelNo (scanLeft s).life.level
  · exact .inl (if_pos hlevel)
  · refine .inr ⟨_, if_neg hlevel, keeps_dbgNo (keeps_scanLeft (.refl s))⟩

/-- A debugger's access goes on, or stops at a word that does not exist. -/
theorem goes_or_stops {f : State → State} (hf : ∀ u, Keeps s u → Keeps s (f u)) {o : Out}
    (ho : o = dbgAt 2 s fun u => if storeWords store unit ≤ word then .fault .noSuchWord else .next (f u)) :
    Goes s o ∨ o = .fault .noSuchWord ∧ storeWords store unit ≤ word := by
  subst ho
  rcases dbgAt_eq_or_goes 2 _ with hacts | hgoes
  · rw [hacts]
    split
    · next hword => exact .inr ⟨rfl, hword⟩
    · exact .inl (goes_next (hf _ (keeps_scanLeft (.refl s))))
  · exact .inl hgoes

theorem goes_memrd (store unit word : Nat) : Goes s (execMemrd store unit word s) ∨
    execMemrd store unit word s = .fault .noSuchWord ∧ storeWords store unit ≤ word :=
  goes_or_stops (f := fun u => dbgSet u 0x20 (storeWord u store unit word)) (fun _ hu => keeps_dbgSet hu _ _) rfl

theorem goes_memwr (store unit word : Nat) (d : BitVec 64) : Goes s (execMemwr store unit word d s) ∨
    execMemwr store unit word d s = .fault .noSuchWord ∧ storeWords store unit ≤ word :=
  goes_or_stops (f := fun u => dbgSet (putWord u store unit word d.toNat) 0x21 d.toNat)
    (fun _ hu => keeps_dbgSet (keeps_putWord hu _ _ _ _) _ _) rfl

end

/-- The command is a debugger's access to a word outside every store (00 Table 00.4). -/
def NoSuchWord (c : Instr) : Prop := ∃ store unit word, storeWords store unit ≤ word ∧
  (c = .memrd store unit word ∨ ∃ d, c = .memwr store unit word d)

/-- Every command goes on, but for an access to a word outside every store. -/
theorem exec_goes (s : State) : ∀ c : Instr, Goes s (exec c s) ∨ exec c s = .fault .noSuchWord ∧ NoSuchWord c
  | .memrd store unit word =>
    (goes_memrd store unit word).imp_right fun ⟨hstop, hword⟩ => ⟨hstop, store, unit, word, hword, .inl rfl⟩
  | .memwr store unit word d =>
    (goes_memwr store unit word d).imp_right fun ⟨hstop, hword⟩ =>
      ⟨hstop, store, unit, word, hword, .inr ⟨d, rfl⟩⟩
  | .fwInfo m => .inl (goes_fwInfo m)
  | .partitionSet m => .inl (goes_partitionSet m)
  | .powerState m => .inl (goes_powerState m)
  | .powerIdleDone => .inl goes_powerIdleDone
  | .dumpSet m => .inl (goes_dumpSet m)
  | .lcAdvance m => .inl (goes_lcAdvance m)
  | .debugChallenge m => .inl (goes_debugChallenge m)
  | .debugUnlock m => .inl (goes_debugUnlock m)
  | .debugClose m => .inl (goes_debugClose m)
  | .partitionParam m => .inl (goes_partitionParam m)
  | .eventRing m => .inl (goes_eventRing m)
  | .reset m => .inl (goes_reset m)
  | .regionRegister m => .inl (goes_regionRegister m)
  | .regionRelease m => .inl (goes_regionRelease m)
  | .contextCreate m => .inl (goes_contextCreate m)
  | .contextDestroy m => .inl (goes_contextDestroy m)
  | .descWrite m => .inl (goes_descWrite m)
  | .contextQuery m => .inl (goes_contextQuery m)
  | .contextSet m => .inl (goes_contextSet m)
  | .contextSeed m => .inl (goes_contextSeed m)
  | .contextHalt m => .inl (goes_contextHalt m)
  | .haltRequest x => .inl (goes_haltRequest x)
  | .imagePublish m => .inl (goes_imagePublish m)
  | .imageDestroy m => .inl (goes_imageDestroy m)
  | .imageReplace m => .inl (goes_imageReplace m)
  | .imageReplaceDone m => .inl (goes_imageReplaceDone m)
  | .channelCreate m => .inl (goes_channelCreate m)
  | .channelAdmit m => .inl (goes_channelAdmit m)
  | .channelDestroy m => .inl (goes_channelDestroy m)
  | .channelQuery m => .inl (goes_channelQuery m)
  | .channelResume m => .inl (goes_channelResume m)
  | .streamCreate m => .inl (goes_streamCreate m)
  | .streamDestroy m => .inl (goes_streamDestroy m)
  | .streamReset m => .inl (goes_streamReset m)
  | .streamQuery m => .inl (goes_streamQuery m)
  | .streamExport m => .inl (goes_streamExport m)
  | .exportConfirmed slot => .inl (goes_exportConfirmed slot)
  | .exportTimeout slot => .inl (goes_exportTimeout slot)
  | .streamImport m => .inl (goes_streamImport m)
  | .arrivalTimeout a => .inl (goes_arrivalTimeout a)
  | .tableRegister m => .inl (goes_tableRegister m)
  | .tableReload m => .inl (goes_tableReload m)
  | .tableReloadEffect t => .inl (goes_tableReloadEffect t)
  | .tableTimeout t => .inl (goes_tableTimeout t)
  | .tableRelease m => .inl (goes_tableRelease m)
  | .semBind m => .inl (goes_semBind m)
  | .semUnbind m => .inl (goes_semUnbind m)
  | .semQuery m => .inl (goes_semQuery m)
  | .gradsetAlloc m => .inl (goes_gradsetAlloc m)
  | .gradsetZero m => .inl (goes_gradsetZero m)
  | .gradsetRelease m => .inl (goes_gradsetRelease m)
  | .mbRing _ => .inl (goes_access (keeps_mbRing (.refl _) _))
  | .mbRelease _ => .inl (goes_access (keeps_mbRelease (.refl _) _))
  | .mbOverrunClear _ => .inl (goes_access (keeps_mbOverrunClear (.refl _) _))
  | .forceBlockReset _ | .forcePowerCycle _ => .inl (goes_access (keeps_forceEsc (.refl _) _ _))
  | .sqDbWrite _ _ => .inl (goes_access (keeps_sqDoorbell (.refl _) _ _))
  | .cqDbWrite _ _ => .inl (goes_access (keeps_cqDoorbell (.refl _) _ _))
  | .eqDbWrite _ _ => .inl (goes_access (keeps_eqDoorbell (.refl _) _ _))
  | .intStatusWrite _ => .inl (goes_access (keeps_intWrite (.refl _) _))
  | .fatalStatusWrite _ => .inl (goes_access (keeps_fatalWrite (.refl _) _))
  | .timeLoRead => .inl (goes_access (keeps_readTimeLo (.refl _)))
  | .registerWrite ofs size data parOk => .inl (goes_registerWrite ofs size data parOk)
  | .runChunk _ | .runTask _ => .inl (goes_takeEntry fun _ _ _ hu => keeps_runEntry hu _ _)
  | .nop _ => .inl (goes_takeEntry fun _ _ _ hu => keeps_advance hu _)
  | .entryEligible j seq => .inl (goes_entryEligible j seq)
  | .dispatchPlace c g => .inl (goes_dispatchPlace c g)
  | .restoreComplete c => .inl (goes_restoreComplete c)
  | .executeStart c => .inl (goes_executeStart c)
  | .chunkCommit c bad => .inl (goes_chunkCommit c bad)
  | .completionPost j write fence => .inl (goes_completionPost j write fence)
  | .eventPost p => .inl (goes_eventPost p)
  | .bundleNop x => .inl (goes_bundleNop x)
  | .seqNop x => .inl (goes_seqNop x)
  | .ldi _ | .ldih _ | .shli _ | .shri _ | .rdastat _ =>
    .inl (goes_issueSlot fun _ _ _ h => resKeeps_seqForm (resKeeps_done (keeps_putC h _ _ _)))
  | .addi x => .inl (goes_addi x)
  | .seqAdd _ | .seqSub _ | .seqAnd _ | .seqOr _ => .inl (goes_seqAlu _ _)
  | .cmp _ | .cmpi _ =>
    .inl (goes_issueSlot fun _ _ _ h => resKeeps_seqForm (resKeeps_done (keeps_putK h _ _ _)))
  | .br _ | .brt _ | .brf _ =>
    .inl (goes_issueSlot fun _ _ _ h => resKeeps_seqForm (resKeeps_branch h _ _ _ _))
  | .loop x => .inl (goes_loop x)
  | .leave x => .inl (goes_leave x)
  | .wrastat _ | .setmx _ =>
    .inl (goes_issueSlot fun _ _ _ h => resKeeps_seqForm (resKeeps_done (keeps_updCtx h _ _)))
  | .seqEnd x => .inl (goes_seqEnd x)
  | .mac x => .inl (goes_mac x)
  | .promotion c => .inl (goes_promotion c)
  | .checkCompare c rows cols => .inl (goes_checkCompare c rows cols)
  | .zero x => .inl (goes_zero x)
  | .preloadBias x => .inl (goes_preloadBias x)
  | .preloadPlane x => .inl (goes_preloadPlane x)
  | .scale x => .inl (goes_scale x)
  | .loadDecay x => .inl (goes_loadDecay x)
  | .drain x => .inl (goes_drain x)
  | .recirc x => .inl (goes_recirc x)
  | .recircReady c => .inl (goes_recircReady c)
  | .save x => .inl (goes_save x)
  | .restore x => .inl (goes_restore x)
  | .gacc x => .inl (goes_gacc x)
  | .vecAdd _ | .vecSub _ | .vecMul _ | .fma _ | .min _ | .max _ | .abs _ | .neg _ | .cmpeq _ | .cmplt _ | .cmple _
    | .sel _ | .vecMov _ | .iadd _ | .isub _ | .iand _ | .ior _ | .ixor _ | .ishl _ | .ishr _ =>
    .inl (goes_vecIssue (formOk_elemwise _ _))
  | .movi _ => .inl (goes_vecIssue formOk_moviForm)
  | .cvt _ => .inl (goes_vecIssue formOk_cvtIssue)
  | .mxcvt _ => .inl (goes_vecIssue formOk_mxcvtIssue)
  | .pwl _ | .pwlslope _ => .inl (goes_vecIssue (formOk_pwlIssue _))
  | .gatemul _ => .inl (goes_vecIssue formOk_gatemulIssue)
  | .gsum _ => .inl (goes_vecIssue formOk_gsumIssue)
  | .rmax _ => .inl (goes_vecIssue formOk_rmaxIssue)
  | .rstat _ => .inl (goes_vecIssue formOk_rstatIssue)
  | .topk _ => .inl (goes_vecIssue (formOk_topkIssue _))
  | .vld _ => .inl (goes_vecIssue (formOk_vldIssue _))
  | .vst _ => .inl (goes_vecIssue (formOk_vstIssue _))
  | .sfuExp2 _ | .sfuExp _ | .sfuLog2 _ | .sfuReciprocal _ | .sfuRsqrt _ | .sfuSqrt _ =>
    .inl (goes_sfuIssue (formOk_builtinForm _))
  | .microProgram _ => .inl (goes_sfuIssue formOk_microForm)
  | .feed x => .inl (goes_feed x)
  | .feedComplete c => .inl (goes_feedComplete c)
  | .vent x => .inl (goes_vent x)
  | .transferComplete e => .inl (goes_transferComplete e)
  | .gather x => .inl (goes_gather x)
  | .lookupComplete c n => .inl (goes_lookupComplete c n)
  | .atomicAdd e => .inl (goes_atomicAdd e)
  | .prefetch x n => .inl (goes_prefetch x n)
  | .acq x => .inl (goes_acq x)
  | .semGrant k => .inl (goes_semGrant k)
  | .rel x => .inl (goes_rel x)
  | .fence x => .inl (goes_fence x)
  | .lineFill c img line ok => .inl (goes_lineFill c img line ok)
  | .watchdog x => .inl (goes_watchdog x)
  | .hungContext x => .inl (goes_hungContext x)
  | .faultDetected f => .inl (goes_faultDetected f)
  | .replayStart c => .inl (goes_replayStart c)
  | .fenceCaldera c => .inl (goes_fenceCaldera c)
  | .faultLogExpire => .inl goes_faultLogExpire
  | .scrub f => .inl (goes_scrub f)
  | .cpWdog => .inl goes_cpWdog
  | .contextReset x => .inl (goes_contextReset x)
  | .engineReset c => .inl (goes_engineReset c)
  | .partitionReset p => .inl (goes_partitionReset p)
  | .blockReset => .inl goes_blockReset
  | .powerCycle => .inl goes_powerCycle
  | .escLate n => .inl (goes_escLate n)
  | .dumpCopy => .inl goes_dumpCopy
  | .timeSample t strobe => .inl (goes_timeSample t strobe)
  | .holdover => .inl goes_holdover
  | .powerOnReset => .inl (goes_if (keeps_powerOn (.refl _)))
  | .warmReset => .inl (goes_unless (keeps_warm (.refl _)))
  | .lcValid code => .inl (goes_lcValid code)
  | .firmwareVerify => .inl goes_firmwareVerify
  | .secureWipe => .inl goes_secureWipe
  | .wake => .inl (goes_if (keeps_wakeUp (.refl _)))
  | .lcStateChange code valid => .inl (goes_lcStateChange code valid)
  | .lcReqAck => .inl (goes_if (keeps_life (.refl _) _))
  | .lcReqTimeout => .inl (goes_if (keeps_life (.refl _) _))
  | .nonceLapse => .inl (goes_next (keeps_life (.refl _) _))
  | .bypass _ => .inl (goes_next (keeps_dbgSet (keeps_scanLeft (.refl _)) _ _))
  | .dstat => .inl (goes_next (keeps_dbgSet (keeps_scanLeft (.refl _)) _ _))
  | .obsreg ofs => .inl (goes_obsreg ofs)
  | .ctxctl x act => .inl (goes_ctxctl x act)
  | .scan leave => .inl (goes_scan leave)
  | .linkDown => .inl goes_linkDown
  | .linkUp => .inl goes_linkUp
  | .retrainStart => .inl goes_retrainStart
  | .retrainEnd => .inl goes_retrainEnd
  | .retrainTimeout => .inl goes_retrainTimeout
  | .hotReset => .inl goes_hotReset
  | .functionLevelReset => .inl goes_functionLevelReset
  | .hostCompletion tag status => .inl (goes_hostCompletion tag status)
  | .hostReadTimeout tag => .inl (goes_hostReadTimeout tag)
  | .memResponse n tag status last => .inl (goes_memResponse n tag status last)
  | .memAck n tag status => .inl (goes_memAck n tag status)
  | .memTagTimeout n tag => .inl (goes_memTagTimeout n tag)
  | .plumeWrite _ _ => .inl (goes_recv fun _ _ hu => keeps_doWrite hu _ _)
  | .plumeRead _ _ => .inl (goes_recv fun _ _ hu => keeps_doRead hu _ _)
  | .plumeAdd _ _ => .inl (goes_recv fun _ _ hu => keeps_doAdd hu _ _)
  | .doorbell _ _ => .inl (goes_recv fun _ _ hu => keeps_doBell hu _ _)
  | .state _ _ => .inl (goes_recv fun _ _ hu => keeps_doState hu _ _)
  | .cancel _ _ => .inl (goes_recv fun _ _ hu => keeps_doCancel hu _ _)
  | .wack _ _ | .rdata _ _ | .aack _ _ | .dack _ _ => .inl (goes_recv fun _ _ hu => keeps_answer hu _ _ _ _ _)
  | .sresult _ _ => .inl (goes_recv fun _ _ hu => keeps_doSresult hu _ _)
  | .link _ _ => .inl (goes_recvCtl fun _ _ hu => hu)
  | .nak _ _ => .inl (goes_recvCtl fun _ _ hu => keeps_resendTo hu _ _ _)
  | .probe p f => .inl (goes_probe p f)
  | .probeReply _ _ => .inl (goes_recvCtl fun _ _ hu => keeps_probed hu _ _)
  | .retryTimeout q => .inl (goes_retryTimeout q)
  | .peerLost q => .inl (goes_peerLost q)
  | .portDown p => .inl (goes_portDown p)
  | .portUp p => .inl (goes_portUp p)
  | .crpPorNAssert => .inl (goes_next (keeps_powerOff (.refl _)))
  | .memCreditReturn n wd => .inl (goes_memCreditReturn n wd)
  | .resultInPlace c u => .inl (goes_resultInPlace c u)

/-- A command that answers a next state keeps the queue and the canonical form. -/
theorem exec_keeps {c : Instr} {s t : State} (h : exec c s = .next t) : Keeps s t := by
  rcases exec_goes s c with hgoes | ⟨hstop, -⟩
  · exact hgoes.keeps h
  · cases hstop.symm.trans h

/-- Settles O6: a command goes on, or is an access that stops. -/
theorem everyCommandCompletes : Obligations.EveryCommandCompletes :=
  fun c s => (exec_goes s c).imp_left Goes.completes

/-- Settles O3: what a command keeps includes the queue. -/
theorem commandsLeaveTheQueue : Obligations.CommandsLeaveTheQueue := fun _ _ _ h => (exec_keeps h).1

/-- Settles O1: a step is the command's meaning on the queue's rest. -/
theorem stepRunsFrontCommand : Obligations.StepRunsFrontCommand := by
  intro s c rest hqueue
  simp only [step, hqueue]

/-- Settles O4: a cycle and every command keep the canonical form. -/
theorem stepKeepsStoresSound : Obligations.StepKeepsStoresSound := by
  intro s t hstores htables hstep
  have hsound : Sound s := ⟨hstores, htables⟩
  cases hqueue : s.pending with
  | nil =>
    rw [step_of_empty hqueue] at hstep
    cases hstep
    exact (keeps_tick (.refl s)).2 hsound
  | cons c rest =>
    rw [stepRunsFrontCommand s c rest hqueue] at hstep
    exact (exec_keeps hstep).2 hsound

/-- Settles O5: every store and table is empty after reset. -/
theorem resetIsSound : Obligations.ResetIsSound :=
  ⟨⟨rfl, rfl, rfl⟩, rfl, rfl, rfl, rfl, rfl, rfl, rfl, fun _ => rfl⟩

end Sys2Proof.Proofs
end

section
/-! SUPPORT and proofs of O7, O9 and O42. Values read back: the bytes of a memory, the lanes of a register, and the
stores of the block in power-on reset. -/

namespace Sys2Proof.Proofs

open Sys2Proof Sys2Proof.Machine

/-! ### Bytes -/

/-- Settles O9: stored bytes read back, and those outside them are as before. -/
theorem storedBytesReadBack : Obligations.StoredBytesReadBack := fun m a bs hwf =>
  ⟨memWf_storeBytes m a bs hwf, loadBytes_storeBytes m a bs hwf, fun c hc => loadByte_storeBytes_out m a c bs hc⟩

/-! ### The lanes of a register -/

/-- Entries that are put one after the other from key b on. -/
def putFrom (b : Nat) (v : Nat → Word) (n : Nat) (t : Tab Word) : Tab Word :=
  (List.range n).foldl (fun l j => tput 0 (b + j) (v j) l) t

theorem putFrom_succ (b : Nat) (v : Nat → Word) (n : Nat) (t : Tab Word) :
    putFrom b v (n + 1) t = tput 0 (b + n) (v n) (putFrom b v n t) := by
  simp only [putFrom, List.range_succ, List.foldl_append, List.foldl_cons, List.foldl_nil]

theorem twf_putFrom {t : Tab Word} (b : Nat) (v : Nat → Word) (n : Nat) (h : twf 0 t = true) :
    twf 0 (putFrom b v n t) = true := twf_foldl 0 _ _ _ h fun u _ hu => twf_tput 0 _ _ u hu

/-- Each of the entries reads as what was put there. -/
theorem tget_putFrom_in {t : Tab Word} {b n j : Nat} (v : Nat → Word) (h : twf 0 t = true) (hj : j < n) :
    tget 0 (b + j) (putFrom b v n t) = v j := by
  induction n with
  | zero => omega
  | succ n ih =>
    rw [putFrom_succ]
    rcases Nat.lt_succ_iff_lt_or_eq.mp hj with hlt | rfl
    · rw [tget_tput_other 0 _ _ _ _ (by omega), ih hlt]
    · exact tget_tput_same 0 _ _ _ (twf_putFrom b v _ h)

/-- Every other entry reads as before. -/
theorem tget_putFrom_out {t : Tab Word} {b n k : Nat} (v : Nat → Word) (hk : k < b ∨ b + n ≤ k) :
    tget 0 k (putFrom b v n t) = tget 0 k t := by
  induction n with
  | zero => rfl
  | succ n ih => rw [putFrom_succ, tget_tput_other 0 _ _ _ _ (by omega), ih (by omega)]

section

variable {k : Cal} {d : Nat} {v : Nat → Word}

theorem lanes_putLanes : (putLanes k d v).lanes = putFrom (256 * d) v 256 k.lanes := by
  simp only [putLanes, putFrom]

/-- The register that is written counts as written, and every other one as before. -/
theorem written_putLanes {r : Nat} (hd : d < 256) :
    (putLanes k d v).written.getLsbD r = (k.written.getLsbD r || decide (r = d)) := by
  have hbit : (BitVec.ofNat 256 (2 ^ d)).getLsbD r = decide (r = d) := by
    rw [BitVec.getLsbD_ofNat, Nat.testBit_two_pow]
    rcases eq_or_ne r d with rfl | h
    · simp only [hd, decide_true, Bool.and_self]
    · simp only [h, h.symm, decide_false, Bool.and_false]
  simp only [putLanes, BitVec.getLsbD_or, hbit]

/-- A register that is written reads as the values put into its lanes. -/
theorem laneVal_putLanes_same {j : Nat} (hwf : twf 0 k.lanes = true) (hd : d < 256) (hj : j < 256) :
    laneVal (putLanes k d v) d j = v j := by
  rw [laneVal, written_putLanes hd, lanes_putLanes]
  simpa using tget_putFrom_in v hwf hj

/-- Every other register reads as before. -/
theorem laneVal_putLanes_other {r j : Nat} (hd : d < 256) (hr : r ≠ d) (hj : j < 256) :
    laneVal (putLanes k d v) r j = laneVal k r j := by
  rw [laneVal, written_putLanes hd, lanes_putLanes, tget_putFrom_out v (by omega)]
  simp [laneVal, hr]

end

/-- An elementwise operation on one register puts each lane's value into its destination. -/
theorem vecWork_elemwise {n x : Nat} {f : Word → Word → Word → Word × Fl} {i : Item} {s : State} {w : Nat} {o : VecOp}
    (ho : elemwise n f i s w = .ok o) : (vecWork x s o 1).1 = putLanes (getCal s (ctxCal x)) (i.laneBase + vD w)
      fun j => (f (laneVal (getCal s (ctxCal x)) (i.laneBase + vA w) j)
        (laneVal (getCal s (ctxCal x)) (i.laneBase + vB w) j)
        (laneVal (getCal s (ctxCal x)) (i.laneBase + vC w) j)).1 := by
  obtain ⟨-, -, ho⟩ := Except.bind_ok ho
  cases ho
  have hsrc : ∀ r b, srcReg r 0 b = r := fun r b => by cases b <;> rfl
  simp only [vecWork, List.range_one, List.foldl_cons, List.foldl_nil, putLanesFl, Nat.add_zero, hsrc]

/-- Settles O42: the lanes of the destination are the operation's, and the rest of the Caldera stays. -/
theorem elementwiseLanes : Obligations.ElementwiseLanes := by
  intro n x f i s w o ho _ htables hd k k1 at_
  obtain ⟨-, -, -, -, -, -, -, hlanes⟩ := htables
  have hk1 : k1 = putLanes k (i.laneBase + vD w) _ := vecWork_elemwise ho
  rw [hk1]
  refine ⟨fun j hj => laneVal_putLanes_same (hlanes _) hd hj, fun r j hr _ hj => laneVal_putLanes_other hd hr hj, ?_⟩
  simp only [putLanes, and_self]

/-! ### Power-on reset -/

/-- A mailbox other than 0 is as new after reset. -/
theorem getMb_reset_of_ne {m : Nat} (hm : m ≠ 0) : getMb State.reset m = {} := by
  simp [getMb, State.reset, tget, hm.symm]

/-- Settles O7: reset lists mailbox 0 alone, and every other table and store is empty. -/
theorem resetLeavesTheBlockWiped : Obligations.ResetLeavesTheBlockWiped := by
  have hmb : ∀ m, (getMb State.reset m).st = .idle := fun m => by
    by_cases hm : m = 0
    · rw [hm]
      rfl
    · rw [getMb_reset_of_ne hm]
  have hcell : ∀ f n row col, cellBits ({} : Cal).acc f n row col = 0 := fun f n row col => by
    cases f <;> simp [cellBits]
  have hlane : ∀ n j, laneVal {} n j = 0 := fun n j => ite_self _
  refine ⟨rfl, fun m hm => by rw [getMb_reset_of_ne hm], hmb, rfl, rfl, rfl, rfl, rfl, rfl, fun _ => ⟨rfl, rfl⟩,
    fun _ => rfl, fun _ _ => ⟨rfl, rfl⟩, fun _ => hcell, fun _ => ?_, rfl, rfl, rfl, fun _ => rfl, rfl, rfl,
    fun _ => rfl, fun _ => ⟨rfl, rfl⟩, rfl, rfl, rfl, rfl⟩
  exact ⟨rfl, fun _ => rfl, hlane, fun _ _ => ⟨rfl, rfl⟩, rfl, rfl, rfl⟩

end Sys2Proof.Proofs
end

section
/-! SUPPORT and proofs of O15, O16, O17 and O18. The block commands (09 Table 09.12; 15 R448 to R459): what each answers
when its checks have passed, and the ones that the level or the mailbox does not permit. -/

namespace Sys2Proof.Proofs

open Sys2Proof Sys2Proof.Machine

section

variable {s : State} {m : Mb}

/-! ### Information, layout, dump area, life cycle and challenge -/

theorem execFwInfo_of_ready (hready : cmdReady 0x01 m.val s) : execFwInfo m s = okTo m.val s
    [(8, 4, Config.build.toNat), (12, 1, 2), (13, 1, 4), (14, 1, 1), (15, 1, 3), (16, 1, calMap s), (20, 8, mbMap s)] :=
  eci_ok (a := .done s _) hready (by decide) rfl

/-- PARTITION_SET of a layout in which every partition has a Caldera and a mailbox, and none that owns objects changes
(09 R300). -/
theorem execPartitionSet_of_layout (hready : cmdReady 0x02 m.val s) {cm mm k : Nat} (hcm : cm = par s m.val 8 1)
    (hmm : mm = par s m.val 16 8) (hk : k = ((List.range 4).map (mapAt cm 2)).foldl max 0 + 1)
    (hcals : ((List.range k).all fun p => (List.range 4).any fun c => mapAt cm 2 c == p) = true) (hzero : mm % 16 = 0)
    (howners : ((List.range 16).all fun j => j == 0 || mapAt mm 4 j == 14 || decide (mapAt mm 4 j < k)) = true)
    (hmbs : ((List.range k).all fun p => (List.range 16).any fun j => j != 0 && mapAt mm 4 j == p) = true)
    (hobjects : ((List.range 4).all fun p => !changed s cm mm p || !ownsObject s p) = true) :
    execPartitionSet m s = okTo m.val (setLayout s cm mm) [] := by
  refine eci_ok (a := .done _ []) hready (by decide) ?_
  dsimp only
  rw [← hcm, ← hmm, ← hk, need_true _ _ hcals, need_true _ _ ⟨hzero, howners, hmbs⟩, need_true _ _ hobjects]
  rfl

/-- DUMP_SET of 512 KiB in a writable region (14 R436). -/
theorem execDumpSet_of_region (hready : cmdReady 0x04 m.val s) (halign : par s m.val 12 4 % 4096 = 0)
    (hregion : needRegion s (partOf s m.val) (parReg s m.val 8) = .ok ())
    (hwrite : (getRegion s (regIdx (parReg s m.val 8))).ro = false)
    (hfits : regFits s (parReg s m.val 8) (par s m.val 12 4) 524288 = true) : execDumpSet m s = okTo m.val
      { s with dump := { s.dump with set := true, reg := parReg s m.val 8, ofs := par s m.val 12 4 } } [] := by
  refine eci_ok (a := .done _ []) hready (by decide) ?_
  dsimp only
  rw [need_true _ _ halign, hregion, need_true _ _ hwrite, need_true _ _ hfits]
  rfl

/-- LC_ADVANCE to a state that Table 15.4 allows requests it when its signature verifies (15 R454). -/
theorem execLcAdvance_of_allowed (hready : cmdReady 0x05 m.val s)
    (hallowed : lcAllowed s.life.lc (par s m.val 8 1) = true) : execLcAdvance m s =
      if sigOk s m.val (msgHead s 0x4C434144 (par s m.val 8 1) ++ leBytes 64 0) then okTo m.val { s with life :=
        { s.life with lcReq := BitVec.ofNat 3 (par s m.val 8 1), lcReqValid := true, lcAcked := false } } []
      else .next (respond s m.val stAuthFailed 0 []) := by
  split
  · next hsig =>
    refine eci_ok (a := .done _ []) hready (by decide) ?_
    dsimp only
    rw [need_true _ _ hallowed, need_true _ _ hsig]
    rfl
  · next hsig =>
    refine eci_refused (e := (stAuthFailed, 0)) hready (by decide) ?_
    dsimp only
    rw [need_true _ _ hallowed, need_false _ _ hsig]
    rfl

/-- DEBUG_CHALLENGE draws a nonce for its level (15 R457). -/
theorem execDebugChallenge_of_level (hready : cmdReady 0x06 m.val s) (hlo : 1 ≤ par s m.val 8 1)
    (hhi : par s m.val 8 1 ≤ 2) : execDebugChallenge m s = okTo m.val { s with draws := s.draws + 1, life :=
      { s.life with nonce := Config.nonce s.draws, nonceFor := par s m.val 8 1 } }
      [(8, 48, (Config.nonce s.draws).toNat)] := by
  refine eci_ok (a := .done _ [(8, 48, (Config.nonce s.draws).toNat)]) hready (by decide) ?_
  dsimp only
  rw [need_true _ _ ⟨hlo, hhi⟩]
  rfl

end

/-- Settles O15: each block command answers as its own rule says. -/
theorem blockCommandsAnswer : Obligations.BlockCommandsAnswer := by
  intro s m n
  refine ⟨execFwInfo_of_ready, ?layout, execDumpSet_of_region, execLcAdvance_of_allowed, execDebugChallenge_of_level⟩
  case layout =>
    intro hready cm mm k hcals hzero howners hmbs hobjects
    exact execPartitionSet_of_layout hready rfl rfl rfl hcals hzero howners hmbs hobjects

/-! ### What is not permitted -/

section

variable {s : State} {m : Mb}

/-- A command that is not permitted is refused before anything else (09 R302, 2). -/
theorem eci_of_forbidden {op : Nat} {g : State → Nat → Nat → Except Refused Ans} (htakes : fwTakes s m.val = true)
    (hop : par s m.val 0 2 = op) (hlisted : listedOp op = true) (hforbidden : permitted s m.val op = false) :
    eci op m g s = .next (respond s m.val stNotPermitted 0 []) :=
  eci_of_check (e := (stNotPermitted, 0)) htakes hop hlisted (if_pos hforbidden)

/-- DEBUG_CLOSE is for mailbox 0, at a level above CLOSED (15 R459, R462). -/
theorem execDebugClose_of_forbidden (htakes : fwTakes s m.val = true) (hop : par s m.val 0 2 = 0x08)
    (hforbidden : m ≠ 0 ∨ s.life.level = .closed) :
    execDebugClose m s = .next (respond s m.val stNotPermitted 0 []) := by
  refine eci_of_forbidden htakes hop (by decide) ?_
  rcases hforbidden with hm | hclosed
  · have hne : m.val ≠ 0 := fun h => hm (Fin.ext h)
    simp [permitted, hne]
  · simp [permitted, hclosed]

/-- POWER_STATE RETAIN is not permitted at level OPEN (15 R449). -/
theorem execPowerState_of_opened (htakes : fwTakes s m.val = true) (hop : par s m.val 0 2 = 0x03)
    (hretain : par s m.val 8 1 = 2) (hopened : s.life.level = .opened) :
    execPowerState m s = .next (respond s m.val stNotPermitted 0 []) :=
  eci_of_forbidden htakes hop (by decide) (by simp [permitted, hretain, hopened])

/-! ### DEBUG_CLOSE -/

variable (hready : cmdReady 0x08 m.val s)
include hready

theorem execDebugClose_of_observe (hlevel : s.life.level = .observe) : execDebugClose m s =
    okTo m.val { s with life := { s.life with level := .closed } } [] :=
  eci_ok (a := .done _ []) hready (by decide) (if_pos hlevel)

theorem execDebugClose_of_test (hlevel : s.life.level = .opened) (htest : s.life.lc = 1) : execDebugClose m s =
    okTo m.val { s with life := { s.life with level := .closed, pstate := .active } } [] :=
  eci_ok (a := .done _ []) hready (by decide) ((if_neg (by simp [hlevel])).trans (if_pos htest))

theorem execDebugClose_of_product (hlevel : s.life.level = .opened) (hproduct : s.life.lc ≠ 1) : execDebugClose m s =
    okTo m.val { s with life := { s.life with wipe := some (some .closed) } } [] :=
  eci_ok (a := .done _ []) hready (by decide) ((if_neg (by simp [hlevel])).trans (if_neg hproduct))

end

/-- The sampling of the life-cycle state leaves a level CLOSED that is not the state's own to give. -/
theorem level_samplePhase_of_closed {s : State} (hlevel : s.life.level = .closed)
    (hgiven : s.life.levelDefault = false) :
    (samplePhase s).life.level = .closed := by
  unfold samplePhase
  split
  · exact hlevel
  · split
    · rfl
    · simp [hgiven, hlevel]

theorem wipe_samplePhase (s : State) : (samplePhase s).life.wipe = s.life.wipe := by
  unfold samplePhase
  repeat' split
  all_goals rfl

/-- A secure wipe that is due brings the block up at its level (15 R463). -/
theorem execSecureWipe_of_due {s : State} {lv : Option Machine.Level} (hdue : s.life.wipe = some lv)
    (hon : s.life.wipeOff = false) : execSecureWipe s = .next (secureWipeTo s lv) := by
  simp [execSecureWipe, dueWipe, hdue, hon]

/-- Settles O16: DEBUG_CLOSE by its mailbox and level, and the wipe out of which the block comes up at CLOSED. -/
theorem debugCloseLowersLevel : Obligations.DebugCloseLowersLevel := by
  refine ⟨?refused, ?accepted, ?wiped⟩
  case refused => exact fun s m htakes hop hforbidden => execDebugClose_of_forbidden htakes hop hforbidden
  case accepted =>
    refine fun s m hready => ⟨?_, execDebugClose_of_product hready⟩
    rintro (hlevel | ⟨hlevel, htest⟩)
    · rw [if_pos hlevel]
      exact execDebugClose_of_observe hready hlevel
    · rw [if_neg (by simp [hlevel])]
      exact execDebugClose_of_test hready hlevel htest
  case wiped =>
    exact fun s hdue hon => ⟨_, execSecureWipe_of_due hdue hon, level_samplePhase_of_closed rfl rfl, wipe_samplePhase _⟩

/-! ### DEBUG_UNLOCK -/

section

variable {s : State} {m : Mb}

/-- A block in life-cycle state lc whose level is raised to l: at once to OBSERVE, and to OPEN at once in TEST and by a
secure wipe elsewhere (15 R458). -/
def raisedTo (lc : BitVec 3) (l : Nat) (s : State) : State :=
  { s with life :=
      if l = 1 then { s.life with level := .observe }
      else if lc = 1 then { s.life with level := .opened, pstate := .active }
      else { s.life with wipe := some (some .opened) } }

/-- A nonce of another level is not used up. -/
theorem useNonce_of_ne {l : Nat} (hother : s.life.nonceFor ≠ l) : useNonce s l = s := if_neg hother

variable {l : Nat} (hl : l = par s m.val 8 1) (hready : cmdReady 0x07 m.val s) (hlo : 1 ≤ l) (hhi : l ≤ 2)
  (habove : levelNo s.life.level < l)
include hl hready hlo hhi habove

/-- DEBUG_UNLOCK that needs no signature, or has one over the nonce of its level, raises the level (15 R458). -/
theorem execDebugUnlock_of_allowed (hallowed : ¬(needsSig s.life.lc l = true ∧ (s.life.nonceFor ≠ l ∨
    sigOk s m.val (msgHead s 0x4442554C l ++ leBytes 48 s.life.nonce.toNat ++ leBytes 16 0) = false))) :
    execDebugUnlock m s = okTo m.val (raisedTo s.life.lc l (useNonce s l)) [] := by
  subst hl
  refine eci_ok (a := .done _ []) hready (by decide) ?_
  dsimp only
  rw [need_true _ _ ⟨hlo, hhi, habove⟩]
  refine (if_neg hallowed).trans ?_
  unfold raisedTo
  split
  · rfl
  · split <;> rfl

/-- DEBUG_UNLOCK without the signature that it needs is refused, and the nonce of its level is used up
(15 R455, R457). -/
theorem execDebugUnlock_of_unsigned (hneeds : needsSig s.life.lc l = true) (hbad : s.life.nonceFor ≠ l ∨
    sigOk s m.val (msgHead s 0x4442554C l ++ leBytes 48 s.life.nonce.toNat ++ leBytes 16 0) = false) :
    execDebugUnlock m s = .next (respond (useNonce s l) m.val stAuthFailed 0 []) := by
  subst hl
  refine eci_ok (a := .status _ stAuthFailed []) hready (by decide) ?_
  dsimp only
  rw [need_true _ _ ⟨hlo, hhi, habove⟩]
  exact if_pos ⟨hneeds, hbad⟩

end

/-- Settles O17: a raise without a signature, with one that verifies or does not, and without a nonce of its level. -/
theorem debugUnlockRaisesLevel : Obligations.DebugUnlockRaisesLevel := by
  intro s m hready l hlo hhi habove msg s1 raise
  have hallowed : ¬(needsSig s.life.lc l = true ∧ (s.life.nonceFor ≠ l ∨ sigOk s m.val msg = false)) →
      exec (.debugUnlock m) s = raise := execDebugUnlock_of_allowed (l := l) rfl hready hlo hhi habove
  have hunsigned := execDebugUnlock_of_unsigned (l := l) rfl hready hlo hhi habove
  refine ⟨fun hfree => ?_, fun hneeds hnonce => ?_, fun hneeds hother => ?_⟩
  · exact hallowed fun ⟨hneeds, _⟩ => Bool.false_ne_true (hfree.symm.trans hneeds)
  · split
    · next hsig => exact hallowed fun ⟨_, hbad⟩ => hbad.elim (· hnonce) fun h => Bool.false_ne_true (h.symm.trans hsig)
    · next hsig => exact hunsigned hneeds (.inr (Bool.eq_false_iff.mpr hsig))
  · exact (hunsigned hneeds (.inl hother)).trans (by rw [useNonce_of_ne hother])

/-! ### POWER_STATE -/

section

variable {s : State} {m : Mb} (hready : cmdReady 0x03 m.val s)
include hready

theorem execPowerState_active (hstate : par s m.val 8 1 = 0) :
    execPowerState m s = okTo m.val { s with life := { s.life with pstate := .active } } [] :=
  eci_ok (a := .done _ []) hready (by decide) (by simp [hstate])

theorem execPowerState_idle (hstate : par s m.val 8 1 = 1) (hidle : s.life.pstate = .idle) :
    execPowerState m s = okTo m.val s [] :=
  eci_ok (a := .done _ []) hready (by decide) (by simp [hstate, hidle])

/-- POWER_STATE IDLE from another state waits, with empty windows too (log entry 66). -/
theorem execPowerState_toIdle (hstate : par s m.val 8 1 = 1) (hother : s.life.pstate ≠ .idle) :
    execPowerState m s = .next (waitOn s m.val .idle) :=
  eci_ok (a := .wait _ .idle) hready (by decide) (by simp [hstate, hother])

theorem execPowerState_retain (hstate : par s m.val 8 1 = 2) (hfree : retainBusy s = false) :
    execPowerState m s = okTo m.val (enterRetain s) [] :=
  eci_ok (a := .done _ []) hready (by decide) (by simp [hstate, hfree, bind_of_ok])

theorem execPowerState_off (hstate : par s m.val 8 1 = 3) : execPowerState m s = okTo m.val { abortAll s with life :=
    { (abortAll s).life with wipe := some (some .closed), wipeOff := true } } [] :=
  eci_ok (a := .done _ []) hready (by decide) (by simp [hstate])

end

/-- A mailbox that waits for IDLE is answered once every window is empty (15 R448). -/
theorem execPowerIdleDone_of_waiting {s : State} {m : Mb} (hempty : s.items.any inWindow = false)
    (hbusy : (getMb s m.val).st = .busy) (hwait : (getMb s m.val).wait = .idle) : execPowerIdleDone s =
      .next (answerWait { s with life := { s.life with pstate := .idle } } .idle stOk []) := by
  have hany : ((List.range 16).any fun n => decide ((getMb s n).st = .busy ∧ (getMb s n).wait = .idle)) = true :=
    List.any_eq_true.mpr ⟨m.val, List.mem_range.mpr m.isLt, decide_eq_true ⟨hbusy, hwait⟩⟩
  simp only [execPowerIdleDone, hempty, hany, if_true, Bool.false_eq_true, if_false]

/-- Settles O18: POWER_STATE by the state that it names, and the end of its wait. -/
theorem powerStateActs : Obligations.PowerStateActs := by
  intro s m n
  refine ⟨execPowerState_of_opened, fun hready => ?accepted, execPowerIdleDone_of_waiting⟩
  case accepted =>
    exact ⟨execPowerState_active hready, execPowerState_idle hready, execPowerState_toIdle hready,
      execPowerState_retain hready, execPowerState_off hready⟩

end Sys2Proof.Proofs
end

section
/-! SUPPORT and proofs of O54 and O55. Power and life-cycle events (15 R439 to R457), each under its condition, and the
debug instructions (15 Table 15.8, R456) at and below their level. -/

namespace Sys2Proof.Proofs

open Sys2Proof Sys2Proof.Machine

/-! ### Power and life-cycle events -/

section

variable {s : State}

theorem execPowerOnReset_of_held (hheld : s.life.phase = .held) : execPowerOnReset s = .next (powerOn s) := if_pos hheld

theorem execWarmReset_of_live (hlive : s.life.phase ≠ .held) : execWarmReset s = .next (warm s) := if_neg hlive

theorem execLcValid_of_first {code : BitVec 3} (hfirst : s.life.lcValid = false) : execLcValid code s =
    .next (samplePhase { s with life := { s.life with lcIn := code, lcValid := true } }) :=
  if_neg (by simp [hfirst])

/-- The firmware image is fetched in the boot phase, and starts when it verifies (15 R444). -/
theorem execFirmwareVerify_of_boot (hboot : s.life.phase = .boot) : execFirmwareVerify s =
    .next (if fwOk s then fwStart (fwFetch s) else fwFail (fwFetch s)) := by
  refine (if_neg (not_not_intro hboot)).trans ?_
  split <;> rfl

theorem execSecureWipe_of_off {lv : Option Machine.Level} (hdue : s.life.wipe = some lv)
    (hoff : s.life.wipeOff = true) :
    execSecureWipe s = .next (wipeToOff s) := by
  simp [execSecureWipe, dueWipe, hdue, hoff]

theorem execWake_of_retain (hretain : s.life.pstate = .retain) (hsafe : s.life.pwrSafe = true)
    (hnone : running s 4 0 = none) : execWake s = .next (wakeUp s) := if_pos ⟨hretain, hsafe, hnone⟩

/-- A block that is not in RETAIN, or whose block reset has started, does not wake (15 R450). -/
theorem execWake_of_other (hother : s.life.pstate ≠ .retain ∨ running s 4 0 ≠ none) : execWake s = .next s :=
  if_neg fun ⟨hretain, _, hnone⟩ => hother.elim (· hretain) (· hnone)

/-! A change of the life-cycle code (15 R439, R454). -/

section

variable {code : BitVec 3} {v : Bool}

theorem execLcStateChange_of_unbooted (hboot : booted s = false) : execLcStateChange code v s =
    .next { s with life := { s.life with lcIn := code, lcValid := v } } := if_pos (.inl hboot)

/-- In a block that has booted a change of the code in force is the acknowledged request, or ends the block. -/
theorem execLcStateChange_of_booted (hboot : booted s = true) (hchange : v = false ∨ code ≠ s.life.lc) :
    execLcStateChange code v s = .next (lifeChange { s with life := { s.life with lcIn := code, lcValid := v } }
      (v && s.life.lcAcked && s.life.lcReq == code)) := by
  refine if_neg ?_
  rintro (hunbooted | ⟨hvalid, hsame⟩)
  · exact Bool.false_ne_true (hunbooted.symm.trans hboot)
  · exact hchange.elim (fun hv => Bool.false_ne_true (hv.symm.trans hvalid)) (· hsame)

end

end

/-- Settles O54: each event does what its rule says where its condition holds. -/
theorem powerAndLifeCycleEventsAct : Obligations.PowerAndLifeCycleEventsAct := by
  intro s
  refine ⟨execPowerOnReset_of_held, execWarmReset_of_live, rfl, fun _ => execLcValid_of_first, ?firmware,
    fun _ => execSecureWipe_of_due, fun _ => execSecureWipe_of_off, execWake_of_retain, execWake_of_other, ?code,
    fun hreq => ⟨if_pos hreq, if_pos hreq⟩, rfl⟩
  case firmware => exact execFirmwareVerify_of_boot
  case code =>
    refine fun code v => ⟨execLcStateChange_of_unbooted, ?granted, ?ended⟩
    case granted =>
      intro hboot hv hcode hacked hreq
      have hgranted : (v && s.life.lcAcked && s.life.lcReq == code) = true := by simp [hv, hacked, hreq]
      exact (execLcStateChange_of_booted hboot (.inr hcode)).trans (by rw [hgranted]; rfl)
    case ended =>
      intro hboot hend
      have hrefused : (v && s.life.lcAcked && s.life.lcReq == code) = false := by
        rcases hend with hv | ⟨-, hacked | hreq⟩
        · simp [hv]
        · simp [hacked]
        · simp [hreq]
      exact (execLcStateChange_of_booted hboot (hend.imp_right And.left)).trans (by rw [hrefused]; rfl)

/-! ### Debug instructions -/

theorem levelNo_eq_two {l : Machine.Level} : 2 ≤ levelNo l ↔ l = .opened := by cases l <;> decide

section

variable {s : State} {n : Nat} {f : State → Out}

theorem dbgAt_of_level (hlevel : n ≤ levelNo (scanLeft s).life.level) : dbgAt n s f = f (scanLeft s) := if_pos hlevel

/-- A debug instruction below its level acts as BYPASS (15 Table 15.8). -/
theorem dbgAt_of_below (hlevel : ¬n ≤ levelNo (scanLeft s).life.level) : dbgAt n s f = .next (dbgNo (scanLeft s)) :=
  if_neg hlevel

theorem execObsreg_of_level {ofs : Nat} (hlevel : 1 ≤ levelNo (scanLeft s).life.level) :
    execObsreg ofs s = .next (dbgSet (scanLeft s) 0x10 (obsWord (scanLeft s) ofs)) := dbgAt_of_level hlevel

theorem execObsreg_of_closed {ofs : Nat} (hclosed : (scanLeft s).life.level = .closed) :
    execObsreg ofs s = .next (dbgNo (scanLeft s)) := dbgAt_of_below (by simp [hclosed, levelNo])

theorem execMemrd_of_below {st k w : Nat} (hbelow : (scanLeft s).life.level ≠ .opened) :
    execMemrd st k w s = .next (dbgNo (scanLeft s)) := dbgAt_of_below (mt levelNo_eq_two.mp hbelow)

theorem execMemwr_of_below {st k w : Nat} {d : BitVec 64} (hbelow : (scanLeft s).life.level ≠ .opened) :
    execMemwr st k w d s = .next (dbgNo (scanLeft s)) := dbgAt_of_below (mt levelNo_eq_two.mp hbelow)

theorem execCtxctl_of_below {x : Fin 64} {act : Fin 3} (hbelow : (scanLeft s).life.level ≠ .opened) :
    execCtxctl x act s = .next (dbgNo (scanLeft s)) := dbgAt_of_below (mt levelNo_eq_two.mp hbelow)

theorem scanLeft_of_idle (hidle : s.life.scan = false) : scanLeft s = s := if_neg (by simp [hidle])

theorem scanLeft_of_scan (hscan : s.life.scan = true) : scanLeft s = powerOn (powerOff s) := if_pos hscan

/-! At level OPEN a debugger reads and writes the words that exist and controls contexts. -/

section

variable (hopened : (scanLeft s).life.level = .opened)
include hopened

theorem execMemrd_of_word {st k w : Nat} (hword : w < storeWords st k) :
    execMemrd st k w s = .next (dbgSet (scanLeft s) 0x20 (storeWord (scanLeft s) st k w)) :=
  (dbgAt_of_level (levelNo_eq_two.mpr hopened)).trans (if_neg hword.not_ge)

theorem execMemwr_of_word {st k w : Nat} {d : BitVec 64} (hword : w < storeWords st k) :
    execMemwr st k w d s = .next (dbgSet (putWord (scanLeft s) st k w d.toNat) 0x21 d.toNat) :=
  (dbgAt_of_level (levelNo_eq_two.mpr hopened)).trans (if_neg hword.not_ge)

theorem execMemrd_of_none {st k w : Nat} (hnone : storeWords st k ≤ w) : execMemrd st k w s = .fault .noSuchWord :=
  (dbgAt_of_level (levelNo_eq_two.mpr hopened)).trans (if_pos hnone)

theorem execMemwr_of_none {st k w : Nat} {d : BitVec 64} (hnone : storeWords st k ≤ w) :
    execMemwr st k w d s = .fault .noSuchWord :=
  (dbgAt_of_level (levelNo_eq_two.mpr hopened)).trans (if_pos hnone)

/-- CTXCTL halts a context, steps a halted one, or lets it run on (15 Table 15.8). -/
theorem execCtxctl_of_opened (x : Fin 64) (act : Fin 3) : execCtxctl x act s = .next (dbgSet (updCtx (scanLeft s) x.val
    fun c =>
      if act = 0 then { c with dbgHalt := true, dbgStep := false }
      else if act = 1 then { c with dbgStep := c.dbgHalt }
      else { c with dbgHalt := false, dbgStep := false }) 0x22 0) :=
  dbgAt_of_level (levelNo_eq_two.mpr hopened)

end

/-! SCAN is for level OPEN in the state of manufacture. -/

theorem execScan_of_test (hopened : s.life.level = .opened) (htest : s.life.lc = 1) (leave : Bool) :
    execScan leave s = if leave = false then
      .next (let s1 := dbgSet s 0x30 0; { s1 with life := { s1.life with scan := true } }) else .next (scanLeft s) :=
  if_neg (by simp [hopened, htest, levelNo])

theorem execScan_of_other (hother : s.life.level ≠ .opened ∨ s.life.lc ≠ 1) (leave : Bool) :
    execScan leave s = .next (dbgNo s) :=
  if_pos (hother.imp_left fun h => Nat.lt_of_not_le (mt levelNo_eq_two.mp h))

end

/-- Settles O55: each instruction acts at its level, as BYPASS below it, and SCAN in the state of manufacture alone. -/
theorem debugInstructionsAct : Obligations.DebugInstructionsAct := by
  intro s u
  refine ⟨scanLeft_of_idle, scanLeft_of_scan, fun _ => rfl, rfl, fun ofs => ⟨execObsreg_of_level, execObsreg_of_closed⟩,
    fun hopened => ⟨?word, ?noWord, ?context⟩, ?below, ?test, fun hother b => execScan_of_other hother b⟩
  case word => exact fun st k w hword => ⟨execMemrd_of_word hopened hword, fun d => execMemwr_of_word hopened hword⟩
  case noWord => exact fun st k w d hnone => ⟨execMemrd_of_none hopened hnone, execMemwr_of_none hopened hnone⟩
  case context =>
    exact fun x =>
      ⟨execCtxctl_of_opened hopened x 0, execCtxctl_of_opened hopened x 1, execCtxctl_of_opened hopened x 2⟩
  case below =>
    exact fun hbelow st k w d x a => ⟨execMemrd_of_below hbelow, execMemwr_of_below hbelow, execCtxctl_of_below hbelow⟩
  case test => exact fun hopened htest => ⟨execScan_of_test hopened htest true, execScan_of_test hopened htest false⟩

end Sys2Proof.Proofs
end
